-- ==== Sys2Proof/Word.lean ====
section
/-! DEFINITION. The word types of the model: the byte of every frame and record, and the numbers of the
manual's numbered things (00_scope.md 4.4). -/

namespace Sys2Proof

/-- One byte of a frame, a record or the retention memory (R187). -/
abbrev Byte := BitVec 8

/-- A station number, 0 to 31 (00_scope.md 4.4). -/
abbrev StationId := Fin 32

/-- A product header, 0 to 7. -/
abbrev HeaderId := Fin 8

/-- A grade, 0 to 15. -/
abbrev GradeId := Fin 16

/-- A product group, 0 to 7. -/
abbrev GroupId := Fin 8

/-- A loading arm, 0 to 3. -/
abbrev ArmId := Fin 4

/-- An injector, 0 to 3. -/
abbrev InjectorId := Fin 4

/-- A compartment: index `c` is compartment `c + 1` of the manual (1 to 8). -/
abbrev CompId := Fin 8

/-- A deadman contact: index `c` is contact `c + 1`. -/
abbrev ContactId := Fin 2

/-- An additive code, 0 to 3. -/
abbrev AdditiveCode := Fin 4

/-- A priority class, 0 to 3; higher is more urgent. -/
abbrev PriorityClass := Fin 4

/-- A timer: `none` is stopped, `some d` is running and expires at moment `d` of the part's timebase,
in milliseconds (log 30). -/
abbrev Timer := Option Nat

end Sys2Proof
end

