-- ==== Sys2Proof/Syntax.lean ====
section
/-! DEFINITION. The commands of the part: one constructor for each row of spec/opcode_table.json, in the
table's order, with the operands the event carries (log 6). -/

namespace Sys2Proof

/-- Which of the three reads of a cold start the retention memory answers (R178). -/
structure ColdReads where
  /-- the read of stage 1, the configuration image -/
  config : Bool
  /-- the read of stage 2, the totalizer region -/
  totals : Bool
  /-- the read of stage 3, the note region -/
  notes  : Bool
  deriving DecidableEq, Repr

/-- The levels of the field inputs at power-on (R156, R178 stage 5, pin summary 12.6). -/
structure FieldInputs where
  /-- local stop input ACTIVE -/
  stop    : Bool
  /-- contacts 1 and 2 CLOSED -/
  contacts : Vector Bool 2
  /-- bypass key ON -/
  bypass  : Bool
  /-- coupled inputs of arms 0 to 3 -/
  coupled : Vector Bool 4
  /-- RESTART line asserted at power-on -/
  restart : Bool
  deriving DecidableEq, Repr

/-- The part's commands. -/
inductive Instr where
  /-- Power-on. `preload` is what was written to the retention memory from address 0 while power was off. -/
  | coldStart (preload : List Byte) (reads : ColdReads) (inputs : FieldInputs)
  | restartAsserted
  | restartReleased
  | lineIdle
  | collision
  | backoffEnd
  | readBackCompletion
  | brokenCharacter
  /-- A complete frame; `frame` holds its bytes after the start byte: header, payload, CRC. -/
  | stateReceived (frame : List Byte)
  | claimReceived (frame : List Byte)
  | yieldReceived (frame : List Byte)
  | permitClaimReceived (frame : List Byte)
  | revokeReceived (frame : List Byte)
  | timeReceived (frame : List Byte)
  | stopReceived (frame : List Byte)
  | noteReceived (frame : List Byte)
  | noteRequestReceived (frame : List Byte)
  | noteTakenReceived (frame : List Byte)
  | clockSecond
  | peerStale (peer : StationId)
  | peerGone (peer : StationId)
  | pendingClaimExpiry (peer : StationId) (header : HeaderId)
  | listenPeriodEnd
  | statePeriodExpiry
  /-- The card record's 12 bytes (R189). -/
  | present (card : List Byte)
  | finish
  | plan (compartment grade : Byte) (preset : BitVec 24) (arm : Byte)
  | amend (compartment : Byte) (preset : BitVec 24)
  | cancel (compartment : Byte)
  | start (compartment : Byte)
  | resume (compartment : Byte)
  /-- One compartment, or 255 for all (R192). -/
  | hold (compartment : Byte)
  | statusSession
  | statusCompartment (compartment : Byte)
  | statusArm (arm : Byte)
  | noteCopy (number : BitVec 24)
  | clearStop
  | panelFormatError
  | panelFrameCut
  /-- Whether characters that came in ANSWERING have begun a frame that is not at its end yet (R185; log 57). -/
  | panelAnswerComplete (frameUnderWay : Bool := false)
  | permitClaimWindowEnd
  | idleTimerExpiry
  | socketTimerExpiry
  /-- The tanker tag's bytes, its check value included (R189, R194). -/
  | tagReport (tag : List Byte)
  /-- The check value the unplug report carries (R194). -/
  | unplugReport (check : BitVec 16)
  /-- The nine body bytes and the check value of a socket state report (R194). -/
  | socketStateReport (body : List Byte) (check : BitVec 16)
  | settleWindowEnd (header : HeaderId)
  | retryTimerExpiry (header : HeaderId)
  | yieldTimerExpiry (header : HeaderId)
  | holdOffExpiry (arm : ArmId)
  | overdrawTimerExpiry (arm : ArmId)
  | aPulse (arm : ArmId)
  | bPulse (arm : ArmId)
  /-- The converter's result in 0.01 °C, 16 bits signed when well formed (log 48). -/
  | conversionComplete (arm : ArmId) (result : Int)
  | noFlowExpiry (arm : ArmId)
  | flowTimeSecond (arm : ArmId)
  | stepDownExpiry (arm : ArmId)
  | settleTimerExpiry (arm : ArmId)
  | noteIssue
  | closeLimitExpiry (arm : ArmId)
  | coupledInputChange (arm : ArmId) (coupled : Bool)
  | feedbackPulse (injector : InjectorId)
  | widthTimerExpiry (injector : InjectorId)
  | localStopActive
  | localStopNormal
  | contactClosure (contact : ContactId)
  | contactOpening (contact : ContactId)
  | deadmanWarning
  | deadmanExpiry
  | jamTimerExpiry
  | bypassKeyChange (on : Bool)
  /-- Whether the record read back equals the record sent (R183, R184). -/
  | retentionWriteEnd (agrees : Bool)
  | retentionWriteTimeout
  /-- `slots` is the number of whole backoff slots of IDLE line counted before the line became BUSY (log 10). -/
  | lineBusy (slots : Nat)
  | startByteMismatch
  deriving DecidableEq, Repr

end Sys2Proof
end

