-- ==== Sys2Proof/Decode.lean ====
section
/-! DEFINITION. The host's reading of a command from a word. No row of spec/opcode_table.json gives bits (its
rows have no fixed bits and no fields), so no word spells a command. -/

namespace Sys2Proof

/-- The command a word spells by the table's bits: none, for every word, since no row gives bits. -/
def decodeTableWord (_nbits _w : Nat) : Option Instr := none

end Sys2Proof
end

