-- ==== Sys2Proof/Config.lean ====
section
/-! DEFINITION. What is fixed for the part: the intervals and limits the manual states as constants, the shape of
the accepted configuration image (R179, R191), and the free values (log 22). -/

namespace Sys2Proof

namespace Config

/-- Ageing of a peer entry (R21). -/
def staleMs : Nat := 3000
def goneMs : Nat := 10000
/-- Life of a pending claim (R24). -/
def pendingClaimMs : Nat := 500
/-- Listen period (R28) and STATE period (R31). -/
def listenMs : Nat := 3000
def statePeriodMs : Nat := 1000
/-- Permit claim window (R38) and settle window (R83). -/
def permitWindowMs : Nat := 500
def settleWindowMs : Nat := 250
/-- Socket timer (R48). -/
def socketMs : Nat := 30000
/-- Retry, yield, hold-off and overdraw timers (R91, R92, R95, R97). -/
def retryMs : Nat := 5000
def yieldMs : Nat := 2000
def holdOffMs : Nat := 10000
def overdrawMs : Nat := 5000
/-- Temperature conversion (R107) and no-flow (R109). -/
def conversionMs : Nat := 20
def noFlowMs : Nat := 10000
/-- Step-down (R132), close settle and close limit (R134). -/
def stepDownMs : Nat := 2000
def settleMs : Nat := 2000
def closeLimitMs : Nat := 30000
/-- Deadman warning and jam (R163, R164). -/
def warningMs : Nat := 15000
def jamMs : Nat := 1000
/-- A retention write's limit (R184). -/
def writeMs : Nat := 100
/-- Capacities: transmit queue (R8), revocation list (R43), note store (R169), retention write queue (R183). -/
def txCapacity : Nat := 8
def revocationCapacity : Nat := 64
def storeCapacity : Nat := 16
def writeCapacity : Nat := 4
/-- Attempt limit (R6). -/
def attemptLimit : Nat := 16

/-- FREE VALUE (log 22): the gross or standard volume of an accumulator whose sum leaves the 48-bit range of R113;
the manual states no result there. The argument counts the free values drawn. -/
opaque freeVolume : Nat → BitVec 48

/-- FREE VALUE (log 22): the temperature-weighted sum outside the signed 64-bit range of R113. -/
opaque freeWeighted : Nat → BitVec 64

end Config

/-- One entry of the header table (R191). -/
structure HeaderCfg where
  enabled  : Bool
  group    : GroupId
  capacity : Nat
  alpha    : Nat
  gamma    : Nat
  deriving DecidableEq, Repr

/-- One entry of the grade table (R191); `additive` is `none` for the stored code 255. -/
structure GradeCfg where
  enabled  : Bool
  header   : HeaderId
  additive : Option AdditiveCode
  ratio    : Nat
  deriving DecidableEq, Repr

/-- One entry of the arm table (R191). Volumes in litres, the close-ahead in cL. -/
structure ArmCfg where
  enabled    : Bool
  header     : HeaderId
  k          : Nat
  mfHigh     : Nat
  mfLow      : Nat
  lowFlow    : Nat
  slice      : Nat
  lowShare   : Nat
  fullShare  : Nat
  startVol   : Nat
  slowVol    : Nat
  closeAhead : Nat
  yieldLock  : Nat
  deriving DecidableEq, Repr

/-- One entry of the injector table (R191): Q, W, feedback K, tolerance, flush volume. -/
structure InjectorCfg where
  enabled   : Bool
  arm       : ArmId
  code      : AdditiveCode
  shot      : Nat
  width     : Nat
  feedbackK : Nat
  tolerance : Nat
  flush     : Nat
  deriving DecidableEq, Repr

/-- The configured values (R179, R191); intervals in seconds, the minimum batch in litres. -/
structure ConfigImage where
  station    : StationId
  headers    : Vector HeaderCfg 8
  grades     : Vector GradeCfg 16
  arms       : Vector ArmCfg 4
  injectors  : Vector InjectorCfg 4
  deadman    : Nat
  idleLimit  : Nat
  pulseLimit : Nat
  minBatch   : Nat
  deriving DecidableEq, Repr

/-- The configuration of a part that has accepted no image: every entry disabled, its figures 0 (log 4). -/
def ConfigImage.blank : ConfigImage where
  station := 0
  headers := Vector.replicate 8 ⟨false, 0, 0, 0, 0⟩
  grades := Vector.replicate 16 ⟨false, 0, none, 0⟩
  arms := Vector.replicate 4 ⟨false, 0, 0, 0, 0, 0, 0, 0, 0, 0, 0, 0, 0⟩
  injectors := Vector.replicate 4 ⟨false, 0, 0, 0, 0, 0, 0, 0⟩
  deadman := 0
  idleLimit := 0
  pulseLimit := 0
  minBatch := 0

end Sys2Proof
end

