-- ==== Sys2Proof/Machine/State.lean ====
section
/-! DEFINITION. Every piece of state the manual gives the part, as plain data, block by block (00_scope.md 2.1), the
fault and refusal types, and the state at reset. INVENTORY.md lists each field with its rule and reset value. -/

namespace Sys2Proof.Machine

/-! ## Codes and enumerations -/

/-- The one code space of refusals, check outcomes, end reasons, suspension reasons, out-of-service causes and close
causes (R192), in code order from 1. -/
inductive Reason where
  | badCard | clash | starting | busy | noDate | expired | revoked | storeFault | noteStoreFull | noTanker
  | inUse | linkBusy | restart | noSession | badCompartment | noBatch | duplicate | badGrade | notQualified | noArm
  | noInjector | tooSmall | tooLate | wrongState | stopped | format | configFault | finished | idle | tankerGone
  | tankerChanged | held | noFlow | meter | overdraw | additive | ground | overfill | localStop | terminalStop
  | deadman | sessionEnd | valveLeak | admitted | uncoupled | closeAhead | preset
  deriving DecidableEq, Repr

/-- Structural faults of a configuration image (R179). -/
inductive FaultKind where
  | badCheck | armHeader | armShares | armSlice | gradeHeader | injectorArm
  deriving DecidableEq, Repr

/-- Station states (R29). -/
inductive StationState where
  | starting | running | clash | configFault
  deriving DecidableEq, Repr

/-! ## Link controller (chapter 1) -/

/-- Transmitter states (1.2.1). -/
inductive TxState where
  | empty | ready | sending | backoff
  deriving DecidableEq, Repr

/-- Receiver states (1.4). -/
inductive RxState where
  | skip | hunt | frame
  deriving DecidableEq, Repr

/-- The kinds of frame this part sends (R14), each with the identity of the owner to be told (1.3). -/
inductive FrameTag where
  | state
  | claim (header : HeaderId)
  | yield (header : HeaderId)
  | permitClaim
  | stop
  | note (number : Nat)
  deriving DecidableEq, Repr

/-- An entry of the transmit queue: its serial number (log 31), its kind and owner, its fixed line image (R3). -/
structure TxFrame where
  id    : Nat
  tag   : FrameTag
  image : List Byte
  deriving DecidableEq, Repr

/-- The link controller's state (R19). -/
structure Link where
  lineIdle      : Bool
  tx            : TxState
  attempts      : Nat
  wait          : Nat
  queue         : List TxFrame
  rx            : RxState
  buffer        : List Byte
  lastStateStop : Bool
  nextId        : Nat
  deriving DecidableEq, Repr

/-- The station clock (R17, R18). -/
structure Clock where
  day       : Nat
  second    : Nat
  dateKnown : Bool
  origin    : Nat
  deriving DecidableEq, Repr

/-! ## Peer view (chapter 2) -/

/-- Freshness of a peer entry (R20). -/
inductive Freshness where
  | fresh | stale | gone
  deriving DecidableEq, Repr

/-- A pending claim (R24). -/
structure PendingClaim where
  total : Nat
  cls   : PriorityClass
  heard : Nat
  deriving DecidableEq, Repr

/-- A peer entry (R20) with the peer's pending claims per header (R24). -/
structure Peer where
  fresh  : Freshness
  heard  : Option Nat
  shares : Vector Nat 8
  permit : Option Nat
  cls    : PriorityClass
  stop   : Bool
  claims : Vector (Option PendingClaim) 8
  deriving DecidableEq, Repr

/-! ## Session controller (chapter 3) -/

/-- Session states (R36). -/
inductive SessionState where
  | none | checking | admitted | ending
  deriving DecidableEq, Repr

/-- The permit record: the card record of R34 less its check value. -/
structure Permit where
  id      : Nat
  carrier : Nat
  groups  : Byte
  cls     : PriorityClass
  expiry  : Nat
  deriving DecidableEq, Repr

/-- A tag record (R35): tanker id and the safe fill of each compartment from 1 to the count. -/
structure Tag where
  id    : Nat
  fills : List Nat
  deriving DecidableEq, Repr

/-- A revocation list entry (R43); the list's order is the insertion order. -/
structure Revocation where
  permit : Nat
  endDay : Nat
  deriving DecidableEq, Repr

/-- The session record (R36), the permit claim window (R38) and the identity of the check's own frame (R38). -/
structure Session where
  state       : SessionState
  permit      : Option Permit
  tag         : Option Tag
  start       : Option (Nat × Nat)
  endReason   : Option Reason
  outcome     : Option Reason
  idle        : Timer
  socketTimer : Timer
  window      : Timer
  checkFrame  : Nat
  latches     : Vector Bool 4
  deriving DecidableEq, Repr

/-! ## Batch table (chapter 4) -/

/-- Batch states (R56). -/
inductive BatchState where
  | planned | waiting | active | suspended | done | ended
  deriving DecidableEq, Repr

/-- An accumulator set (R55). -/
structure Accum where
  gross     : Nat
  std       : Nat
  grossRem  : Nat
  stdRem    : Nat
  weighted  : Int
  flow      : Nat
  owed      : Nat
  commanded : Nat
  feedback  : Nat
  pulseErr  : Nat
  deriving DecidableEq, Repr

/-- Line flags (R55). -/
structure LineFlags where
  tempHeld   : Bool
  ctlClamped : Bool
  short      : Bool
  bypassed   : Bool
  valveLeak  : Bool
  deriving DecidableEq, Repr

/-- A batch record (R55); its key, the compartment, is its place in the table. -/
structure Batch where
  grade      : GradeId
  preset     : Nat
  pendPreset : Option Nat
  named      : Option ArmId
  state      : BatchState
  started    : Bool
  suspReason : Option Reason
  suspCount  : Nat
  lastArm    : Option ArmId
  saved      : Bool
  savedAcc   : Accum
  flags      : LineFlags
  deriving DecidableEq, Repr

/-! ## Share negotiator (chapter 5) -/

/-- Kinds of claim (R79). -/
inductive ClaimKind where
  | low | stepUp
  deriving DecidableEq, Repr

/-- Phases of a claim (R79); SETTLING holds the moment its window ends. -/
inductive ClaimPhase where
  | queued
  | settling (ends : Nat)
  deriving DecidableEq, Repr

/-- The claim in a HELD slot (R79), with the serial number of its CLAIM frame (R88). -/
structure Claim where
  arm      : ArmId
  kind     : ClaimKind
  increase : Nat
  total    : Nat
  phase    : ClaimPhase
  frameId  : Nat
  deriving DecidableEq, Repr

/-- Per-header state: own steady share (R77), claim slot (R79), timers (R91, R92), the dispatcher's retry wait
flag (R64). -/
structure Header where
  ownShare   : Nat
  slot       : Option Claim
  retryTimer : Timer
  yieldTimer : Timer
  retryWait  : Bool
  deriving DecidableEq, Repr

/-- Step-up states (R80). -/
inductive StepUp where
  | none | waiting | inClaim | retryWait | barred
  deriving DecidableEq, Repr

/-! ## Arms (chapters 4, 6, 7, 8) -/

/-- Arm stages (8.1). -/
inductive Stage where
  | closed | low | reduced | full | slowdown | closing
  deriving DecidableEq, Repr

/-- Close kinds, manners and phases (R126). -/
inductive CloseKind where
  | normal | stop
  deriving DecidableEq, Repr

inductive Manner where
  | controlled | fast
  deriving DecidableEq, Repr

inductive ClosePhase where
  | stepDown | settle
  deriving DecidableEq, Repr

/-- The close fields, present while CLOSING (R126). -/
structure Close where
  kind   : CloseKind
  cause  : Reason
  manner : Manner
  phase  : ClosePhase
  deriving DecidableEq, Repr

/-- Everything held per arm. -/
structure Arm where
  -- stage controller (R126)
  stage        : Stage
  heldShare    : Nat
  close        : Option Close
  stepDown     : Timer
  settle       : Timer
  closeLimit   : Timer
  leak         : Bool
  closeAhead   : Nat
  -- arm context (R69, R99, R113)
  owner        : Option CompId
  live         : Accum
  grossTotal   : BitVec 48
  stdTotal     : BitVec 48
  meterCause   : Bool
  leakCause    : Bool
  -- meter channel (R99)
  counting     : Bool
  sliceCounter : Nat
  bCount       : Nat
  sliceTimer   : Option Nat
  lastA        : Option Nat
  noFlow       : Timer
  flowCounter  : Option Nat
  lastRate     : Nat
  converter    : Timer
  /-- The MODEL's own: conversions that had ended at a slice's stage 9 (R108), their results still to be brought by
  CONVERSION_COMPLETE (logs 29, 47). -/
  resultsOwed  : Nat
  lastGood     : Option Int
  lastDiscarded : Bool
  -- share negotiator (R80, R93, R95, R96, R97)
  stepUp        : StepUp
  yieldMark     : Bool
  holdOff       : Timer
  overdrawCount : Nat
  overdrawTimer : Timer
  -- dispatcher (R64)
  reserved     : Option CompId
  -- coupled input
  coupled      : Bool
  deriving DecidableEq, Repr

/-! ## Injectors (chapter 9) -/

/-- An OPEN verification window (R141). -/
structure Window where
  batch : CompId
  count : Nat
  cut   : Bool
  deriving DecidableEq, Repr

/-- An injector channel's state (R141). The solenoid output is on exactly while `firing`. -/
structure Injector where
  firing     : Bool
  width      : Timer
  shotPulses : Nat
  window     : Option Window
  badRun     : Nat
  deriving DecidableEq, Repr

/-! ## Permissive monitor (chapter 10) -/

/-- Overfill sensor states (R156). -/
inductive Sensor where
  | dry | wet | fault
  deriving DecidableEq, Repr

/-- Deadman states (R156). -/
inductive Deadman where
  | stopped | running | warning | expired | jammed
  deriving DecidableEq, Repr

/-- The monitor's state (R156). -/
structure Monitor where
  ground       : Bool
  sensors      : Vector Sensor 8
  stopInput    : Bool
  stopLatch    : Bool
  terminal     : Bool
  contacts     : Vector Bool 2
  deadman      : Deadman
  deadmanTimer : Timer
  counted      : Vector Bool 2
  jam          : Timer
  horn         : Bool
  bypass       : Bool
  deriving DecidableEq, Repr

/-! ## Notes (chapter 11), retention and panel (chapter 12) -/

/-- A stored note (R169): number, record bytes (R190), send marker; a set marker holds the serial number of the NOTE
frame in the queue (R173). -/
structure StoredNote where
  number : Nat
  record : List Byte
  marker : Option Nat
  deriving DecidableEq, Repr

/-- The note builder and note store (R169, R170, R172, R177). -/
structure Notes where
  store        : List StoredNote
  nextNumber   : Nat
  outbox       : List Nat
  issueWaiting : Bool
  deriving DecidableEq, Repr

/-- A totalizer block (R123). -/
structure Totals where
  gross : Vector (BitVec 48) 4
  std   : Vector (BitVec 48) 4
  deriving DecidableEq, Repr

/-- A retention write (R183). -/
inductive Write where
  | totals (block : Totals)
  | note (number : Nat) (record : List Byte) (next : Nat)
  | removal (number : Nat)
  deriving DecidableEq, Repr

/-- Retention memory and its write queue (R182 to R184). -/
structure Retention where
  mem        : List Host.Cell
  queue      : List Write
  held       : Option Totals
  writeTimer : Timer
  issueCount : Nat
  fault      : Bool
  deriving DecidableEq, Repr

/-- Panel port states (R185). -/
inductive PortState where
  | idle | receiving | answering
  deriving DecidableEq, Repr

/-- A panel answer (R192). -/
inductive Answer where
  | accepted (body : List Byte)
  | clamped
  | pending
  | refused (reason : Reason)
  | configFault (kind : Option FaultKind)
  deriving DecidableEq, Repr

/-- The panel port (R185); `discarding` when it has returned to IDLE and still discards a frame begun in ANSWERING. -/
structure Panel where
  port       : PortState
  answer     : Option Answer
  discarding : Bool
  deriving DecidableEq, Repr

/-! ## The part -/

/-- The whole part. -/
structure State where
  now            : Nat
  station        : StationState
  faultKind      : Option FaultKind
  cfg            : ConfigImage
  cfgClamped     : Bool
  restart        : Bool
  stage5Waits    : Bool
  listenTimer    : Timer
  periodTimer    : Timer
  ownStop        : Bool
  socketRequests : Nat
  link           : Link
  clock          : Clock
  peers          : Vector Peer 32
  session        : Session
  revoked        : List Revocation
  socketView     : Option Tag
  batches        : Vector (Option Batch) 8
  startQueue     : List CompId
  headers        : Vector Header 8
  arms           : Vector Arm 4
  injectors      : Vector Injector 4
  monitor        : Monitor
  notes          : Notes
  retention      : Retention
  panel          : Panel
  freeDraws      : Nat
  pending        : List Instr
  deriving DecidableEq, Repr

/-- The reasons a step can stop with a fault: none. Every error the manual describes is a state of the part
(INVENTORY.md, Faults), so no step raises one; nothing here is safe or unsafe. -/
inductive Fault where
  deriving DecidableEq, Repr

/-- The reasons a step can be refused. -/
inductive Refusal where
  /-- Raised by an arm of `exec` whose command has no meaning yet; safe: nothing is claimed of that command. No arm
  raises it in this model. -/
  | notModelled (mnemonic : String)
  deriving DecidableEq, Repr

/-! ## Values after a cold start -/

/-- No accumulated figure (R58, R113). -/
def Accum.zero : Accum := ⟨0, 0, 0, 0, 0, 0, 0, 0, 0, 0⟩

/-- No line flag (R58). -/
def LineFlags.empty : LineFlags := ⟨false, false, false, false, false⟩

/-- The link controller after a start (R19); the last three fields are kept apart by the caller. -/
def Link.cold : Link where
  lineIdle := false
  tx := .empty
  attempts := 0
  wait := 0
  queue := []
  rx := .skip
  buffer := []
  lastStateStop := false
  nextId := 0

/-- A peer entry after a start (R20). -/
def Peer.cold : Peer where
  fresh := .gone
  heard := none
  shares := Vector.replicate 8 0
  permit := none
  cls := 0
  stop := false
  claims := Vector.replicate 8 none

/-- The session record after a cold start (R36, R54). -/
def Session.cold : Session where
  state := .none
  permit := none
  tag := none
  start := none
  endReason := none
  outcome := none
  idle := none
  socketTimer := none
  window := none
  checkFrame := 0
  latches := Vector.replicate 4 false

/-- A header after a cold start (R98, R64). -/
def Header.cold : Header := ⟨0, none, none, none, false⟩

/-- An arm after a cold start (R99, R126, R98), with its initial close-ahead, slice pulses, totalizers and coupled
input. -/
def Arm.cold (closeAhead slice : Nat) (gross std : BitVec 48) (coupled : Bool) : Arm where
  stage := .closed
  heldShare := 0
  close := none
  stepDown := none
  settle := none
  closeLimit := none
  leak := false
  closeAhead := closeAhead
  owner := none
  live := Accum.zero
  grossTotal := gross
  stdTotal := std
  meterCause := false
  leakCause := false
  counting := false
  sliceCounter := slice
  bCount := 0
  sliceTimer := none
  lastA := none
  noFlow := none
  flowCounter := none
  lastRate := 0
  converter := none
  resultsOwed := 0
  lastGood := none
  lastDiscarded := false
  stepUp := .none
  yieldMark := false
  holdOff := none
  overdrawCount := 0
  overdrawTimer := none
  reserved := none
  coupled := coupled

/-- An injector channel after a cold start (R141). -/
def Injector.cold : Injector := ⟨false, none, 0, none, 0⟩

/-- The permissive monitor after a cold start, its inputs not yet sampled (R156). -/
def Monitor.cold : Monitor where
  ground := false
  sensors := Vector.replicate 8 .fault
  stopInput := false
  stopLatch := false
  terminal := false
  contacts := Vector.replicate 2 false
  deadman := .stopped
  deadmanTimer := none
  counted := Vector.replicate 2 false
  jam := none
  horn := false
  bypass := false

/-- The retention block after a cold start (R183, R178), over the memory as power loss left it. -/
def Retention.cold (mem : List Host.Cell) : Retention := ⟨mem, [], none, none, 1, false⟩

/-- Every piece of state at its cold-start value, in CONFIG FAULT: what stage 1 of a cold start leaves when it refuses
the image (R178, R180); the totalizers, the store and the note numbers, whose regions are not read, as log 49 says. -/
def State.refusedStart (now : Nat) (mem : List Host.Cell) (kind : FaultKind) (pending : List Instr) : State where
  now := now
  station := .configFault
  faultKind := some kind
  cfg := ConfigImage.blank
  cfgClamped := false
  restart := false
  stage5Waits := false
  listenTimer := none
  periodTimer := none
  ownStop := false
  socketRequests := 0
  link := Link.cold
  clock := ⟨0, 0, false, now⟩
  peers := Vector.replicate 32 Peer.cold
  session := Session.cold
  revoked := []
  socketView := none
  batches := Vector.replicate 8 none
  startQueue := []
  headers := Vector.replicate 8 Header.cold
  arms := Vector.replicate 4 (Arm.cold 0 0 0 0 false)
  injectors := Vector.replicate 4 Injector.cold
  monitor := Monitor.cold
  notes := ⟨[], 1, [], false⟩
  retention := Retention.cold mem
  panel := ⟨.idle, none, false⟩
  freeDraws := 0
  pending := pending

/-- The machine right after reset: the part whose retention memory lists nothing. Its first cold start finds no image
that agrees with its check value, so it stands in CONFIG FAULT with BAD_CHECK until a COLD_START finds one, the fields of
the unwritten image having been clamped before the test (R178 to R180; log 4). -/
def State.reset : State := { State.refusedStart 0 [] .badCheck [] with cfgClamped := true }

end Sys2Proof.Machine
end

