-- ==== Sys2Proof/Machine/Ops.lean ====
section
/-! DEFINITION. The named operations over the parts of State: timers, one home for reading and writing each block,
stages with their shares (R77), solenoids (R127), and the bytes of the retention memory (R182). -/

namespace Sys2Proof.Machine

/-! ## Timers -/

/-- A timer started now with `ms` to run. -/
def State.after (s : State) (ms : Nat) : Timer := some (s.now + ms)

/-- Time left on a timer, in milliseconds. -/
def timeLeft (now : Nat) (t : Timer) : Option Nat := t.map (· - now)

/-- Time left in whole seconds rounded down, absent when stopped (R42, R193). -/
def secondsLeft (now : Nat) (t : Timer) : Option Nat := (timeLeft now t).map (· / 1000)

/-- A running timer whose moment has come. -/
def due (now : Nat) : Timer → Bool
  | some d => decide (d ≤ now)
  | none => false

/-! ## Blocks of State -/

def State.arm (s : State) (a : ArmId) : Arm := s.arms[a]

def State.modArm (a : ArmId) (f : Arm → Arm) (s : State) : State :=
  { s with arms := s.arms.set a (f s.arms[a]) }

def State.header (s : State) (h : HeaderId) : Header := s.headers[h]

def State.modHeader (h : HeaderId) (f : Header → Header) (s : State) : State :=
  { s with headers := s.headers.set h (f s.headers[h]) }

def State.injector (s : State) (i : InjectorId) : Injector := s.injectors[i]

def State.modInjector (i : InjectorId) (f : Injector → Injector) (s : State) : State :=
  { s with injectors := s.injectors.set i (f s.injectors[i]) }

def State.peer (s : State) (p : StationId) : Peer := s.peers[p]

def State.modPeer (p : StationId) (f : Peer → Peer) (s : State) : State :=
  { s with peers := s.peers.set p (f s.peers[p]) }

def State.batch (s : State) (c : CompId) : Option Batch := s.batches[c]

def State.setBatch (c : CompId) (b : Option Batch) (s : State) : State :=
  { s with batches := s.batches.set c b }

/-- Changes a batch record, if one is held. -/
def State.modBatch (c : CompId) (f : Batch → Batch) (s : State) : State :=
  s.setBatch c ((s.batch c).map f)

def State.modSession (f : Session → Session) (s : State) : State := { s with session := f s.session }

def State.modMonitor (f : Monitor → Monitor) (s : State) : State := { s with monitor := f s.monitor }

def State.modLink (f : Link → Link) (s : State) : State := { s with link := f s.link }

def State.modNotes (f : Notes → Notes) (s : State) : State := { s with notes := f s.notes }

def State.modRetention (f : Retention → Retention) (s : State) : State := { s with retention := f s.retention }

/-! ## Loops over the numbered things -/

def allArms : List ArmId := [0, 1, 2, 3]
def allInjectors : List InjectorId := [0, 1, 2, 3]
def allComps : List CompId := [0, 1, 2, 3, 4, 5, 6, 7]
def allHeaders : List HeaderId := [0, 1, 2, 3, 4, 5, 6, 7]
def allStations : List StationId :=
  [0, 1, 2, 3, 4, 5, 6, 7, 8, 9, 10, 11, 12, 13, 14, 15] ++
    [16, 17, 18, 19, 20, 21, 22, 23, 24, 25, 26, 27, 28, 29, 30, 31]

/-- One operation for each arm, in order 0 to 3. -/
def State.eachArm (f : ArmId → State → State) (s : State) : State := f 3 (f 2 (f 1 (f 0 s)))

/-- One operation for each injector, in order 0 to 3. -/
def State.eachInjector (f : InjectorId → State → State) (s : State) : State := f 3 (f 2 (f 1 (f 0 s)))

/-! ## Configured values -/

def State.armCfg (s : State) (a : ArmId) : ArmCfg := s.cfg.arms[a]
def State.headerCfg (s : State) (h : HeaderId) : HeaderCfg := s.cfg.headers[h]
def State.gradeCfg (s : State) (g : GradeId) : GradeCfg := s.cfg.grades[g]
def State.injectorCfg (s : State) (i : InjectorId) : InjectorCfg := s.cfg.injectors[i]

/-- The arm's injector for a code: the lowest-numbered enabled one configured there with that code (R141). -/
def State.servingInjector (s : State) (a : ArmId) (code : AdditiveCode) : Option InjectorId :=
  allInjectors.find? fun i =>
    (s.injectorCfg i).enabled && decide ((s.injectorCfg i).arm = a) && decide ((s.injectorCfg i).code = code)

/-- The additive code a grade carries. -/
def State.gradeCode (s : State) (g : GradeId) : Option AdditiveCode := (s.gradeCfg g).additive

/-- The injector that serves a batch of a grade on an arm, if the grade carries an additive (R141). -/
def State.gradeInjector (s : State) (a : ArmId) (g : GradeId) : Option InjectorId :=
  (s.gradeCode g).bind (s.servingInjector a)

/-- The header of a grade. -/
def State.gradeHeader (s : State) (g : GradeId) : HeaderId := (s.gradeCfg g).header

/-! ## Stages and shares -/

/-- LOW, REDUCED, FULL or SLOWDOWN: open and flowing (8.1). -/
def Stage.flowing : Stage → Bool
  | .low => true
  | .reduced => true
  | .full => true
  | .slowdown => true
  | .closed => false
  | .closing => false

/-- Any stage other than CLOSED (R50, R162). -/
def Stage.isOpen : Stage → Bool
  | .closed => false
  | _ => true

/-- An arm's stage share (R77). -/
def stageShare (c : ArmCfg) (m : Arm) : Nat :=
  match m.stage with
  | .closed => 0
  | .low => c.lowShare
  | .reduced => c.lowShare
  | .slowdown => c.lowShare
  | .full => c.fullShare
  | .closing => m.heldShare

/-- Moves an arm to a stage; the header's own steady share follows by the difference of the stage shares (R77). On
entry to CLOSING the share of the stage left is held. -/
def State.moveStage (a : ArmId) (st : Stage) (s : State) : State :=
  let c := s.armCfg a
  let old := stageShare c (s.arm a)
  let m := { s.arm a with stage := st, heldShare := old }
  { s with
    arms := s.arms.set a m
    headers := s.headers.set c.header
      { s.headers[c.header] with ownShare := s.headers[c.header].ownShare + stageShare c m - old } }

/-- An enabled arm in service: no out-of-service cause is held (R99). -/
def Arm.inService (m : Arm) : Bool := !m.meterCause && !m.leakCause

/-- Every arm CLOSED. -/
def State.allClosed (s : State) : Bool := allArms.all fun a => (s.arm a).stage == .closed

/-- The low solenoid output (R127); both outputs are off while the RESTART line is asserted (R139). -/
def State.lowSolenoid (s : State) (a : ArmId) : Bool :=
  !s.restart &&
    match (s.arm a).stage with
    | .closed => false
    | .low => true
    | .reduced => true
    | .slowdown => true
    | .full => true
    | .closing => (s.arm a).close.any (·.phase == .stepDown)

/-- The main solenoid output (R127). -/
def State.mainSolenoid (s : State) (a : ArmId) : Bool := !s.restart && (s.arm a).stage == .full

/-! ## Batches and their figures -/

/-- The arm that names a batch as owner. -/
def State.ownerArm (s : State) (c : CompId) : Option ArmId := allArms.find? fun a => (s.arm a).owner == some c

/-- A batch's current accumulators (R69): its record while saved, else the owning arm's live copy; zero figures for a
batch with no current copy. -/
def State.figures (s : State) (c : CompId) (b : Batch) : Accum :=
  if b.saved then b.savedAcc
  else
    match s.ownerArm c with
    | some a => (s.arm a).live
    | none => Accum.zero

/-- Remaining volume: preset × 100 less gross, signed (R118). -/
def remaining (b : Batch) (f : Accum) : Int := (b.preset : Int) * 100 - f.gross

/-- The batch an arm carries, with its record. -/
def State.ownerBatch (s : State) (a : ArmId) : Option (CompId × Batch) :=
  (s.arm a).owner.bind fun c => (s.batch c).map fun b => (c, b)

/-- Remaining volume of an arm's owner batch on the arm's live figures. -/
def State.armRemaining (s : State) (a : ArmId) : Option Int :=
  (s.ownerBatch a).map fun cb => remaining cb.2 (s.arm a).live

/-- Queue position, 0 at the head. -/
def State.queuePos (s : State) (c : CompId) : Option Nat :=
  if s.startQueue.contains c then some (s.startQueue.idxOf c) else none

/-- The arm reserved to a batch (R64). -/
def State.reservedArm (s : State) (c : CompId) : Option ArmId := allArms.find? fun a => (s.arm a).reserved == some c

/-! ## Session and peers -/

/-- The session's priority class: the permit's while ADMITTED or ENDING, else 0 (R36). -/
def State.sessionClass (s : State) : PriorityClass :=
  match s.session.state, s.session.permit with
  | .admitted, some p => p.cls
  | .ending, some p => p.cls
  | _, _ => 0

/-- The session is ADMITTED or ENDING: its permit is announced (R30). -/
def State.sessionOpen (s : State) : Bool := s.session.state == .admitted || s.session.state == .ending

/-- The session's permit id. -/
def State.sessionPermit (s : State) : Option Nat := s.session.permit.map (·.id)

/-- A FRESH or STALE peer entry; the entry at the own number is none (R20). -/
def State.countsPeer (s : State) (p : StationId) : Bool := p != s.cfg.station && (s.peer p).fresh != .gone

/-- Peer steady total for a header (R23). -/
def State.peerTotal (s : State) (h : HeaderId) : Nat :=
  allStations.foldl (fun t p => if s.countsPeer p then t + (s.peer p).shares[h] else t) 0

/-- Permit in use by a FRESH or STALE peer (R23). -/
def State.permitInUse (s : State) (permit : Nat) : Bool :=
  allStations.any fun p => s.countsPeer p && (s.peer p).permit == some permit

/-- A station's membership of the stop set (R25). -/
def State.inStopSet (s : State) (p : StationId) : Bool :=
  if p = s.cfg.station then s.ownStop else (s.peer p).stop

/-- The stop set is non-empty (R27). -/
def State.stopSetNonempty (s : State) : Bool := allStations.any s.inStopSet

/-! ## Retention memory (R182, R195): canonical cells -/

/-- What a byte that nothing has written reads as (log 5). -/
def unwritten : Byte := 0

/-- The byte at an address. -/
def readByte : List Host.Cell → Nat → Byte
  | [], _ => unwritten
  | (k, b) :: rest, a => if k = a then b else readByte rest a

/-- Writes one byte, keeping addresses strictly rising and listing no byte equal to what an unlisted one reads as. -/
def writeByte : List Host.Cell → Nat → Byte → List Host.Cell
  | [], a, b => if b = unwritten then [] else [(a, b)]
  | (k, x) :: rest, a, b =>
    if a < k then (if b = unwritten then (k, x) :: rest else (a, b) :: (k, x) :: rest)
    else if a = k then (if b = unwritten then rest else (a, b) :: rest)
    else (k, x) :: writeByte rest a b

/-- The canonical form of the retention memory: addresses strictly rising, no unwritten byte listed. -/
def Memory.wf : List Host.Cell → Bool
  | [] => true
  | (k, b) :: rest => b != unwritten && rest.all (fun c => decide (k < c.1)) && Memory.wf rest

/-- `n` bytes from an address. -/
def readBytes (mem : List Host.Cell) (addr : Nat) : Nat → List Byte
  | 0 => []
  | n + 1 => readByte mem addr :: readBytes mem (addr + 1) n

/-- Writes bytes from an address upward. -/
def writeBytes (mem : List Host.Cell) (addr : Nat) : List Byte → List Host.Cell
  | [] => mem
  | b :: bs => writeBytes (writeByte mem addr b) (addr + 1) bs

end Sys2Proof.Machine
end

