-- ==== Sys2Proof/Machine/Flags.lean ====
section
/-! DEFINITION. Conditions formed from the state: the five permissives (R158), the conditions under which claims are
taken (R80) and arms given (R64), and the line flags of a batch (R55). -/

namespace Sys2Proof.Machine

/-! ## Permissives (R158) -/

/-- GROUND is withdrawn while ground is not proven. -/
def Monitor.groundOut (m : Monitor) : Bool := !m.ground

/-- OVERFILL is withdrawn while any sensor is WET or FAULT. -/
def Monitor.overfillOut (m : Monitor) : Bool :=
  m.sensors[0] != .dry || m.sensors[1] != .dry || m.sensors[2] != .dry || m.sensors[3] != .dry ||
    m.sensors[4] != .dry || m.sensors[5] != .dry || m.sensors[6] != .dry || m.sensors[7] != .dry

/-- LOCAL_STOP is withdrawn while the input is ACTIVE or the latch is set; this is also local stop in force. -/
def Monitor.stopInForce (m : Monitor) : Bool := m.stopInput || m.stopLatch

/-- DEADMAN is withdrawn while the deadman is EXPIRED or JAMMED. -/
def Monitor.deadmanOut (m : Monitor) : Bool := m.deadman == .expired || m.deadman == .jammed

/-- Some permissive is withdrawn. -/
def Monitor.withdrawn (m : Monitor) : Bool :=
  m.groundOut || m.overfillOut || m.stopInForce || m.terminal || m.deadmanOut

/-- Both contacts CLOSED. -/
def Monitor.bothClosed (m : Monitor) : Bool := m.contacts[0] && m.contacts[1]

/-! ## When claims are taken and arms given -/

/-- The conditions common to R80 (a request is taken) and R64 (a scan gives out arms): RUNNING, ADMITTED, no permissive
withdrawn. -/
def State.mayClaim (s : State) : Bool :=
  s.station == .running && s.session.state == .admitted && !s.monitor.withdrawn

/-- The idle timer's conditions (R49). -/
def State.idleConditions (s : State) : Bool :=
  s.session.state == .admitted && s.allClosed && s.startQueue.isEmpty

/-- The link controller takes frames: not in CONFIG FAULT, the RESTART line not asserted (R19). -/
def State.linkOpen (s : State) : Bool := s.station != .configFault && !s.restart

/-- An injector is FAULT: its latch is set (R141). -/
def State.isFault (s : State) (i : InjectorId) : Bool := s.session.latches[i]

/-! ## Line flags (R55): once set, a flag stays set -/

def LineFlags.setTempHeld (f : LineFlags) : LineFlags := { f with tempHeld := true }
def LineFlags.setCtlClamped (f : LineFlags) : LineFlags := { f with ctlClamped := true }
def LineFlags.setShort (f : LineFlags) : LineFlags := { f with short := true }
def LineFlags.setBypassed (f : LineFlags) : LineFlags := { f with bypassed := true }
def LineFlags.setValveLeak (f : LineFlags) : LineFlags := { f with valveLeak := true }

/-- Sets a flag on a batch's line. -/
def State.flagLine (c : CompId) (f : LineFlags → LineFlags) (s : State) : State :=
  s.modBatch c fun b => { b with flags := f b.flags }

/-- Sets a flag on an arm's owner batch's line. -/
def State.flagOwner (a : ArmId) (f : LineFlags → LineFlags) (s : State) : State :=
  match (s.arm a).owner with
  | some c => s.flagLine c f
  | none => s

/-- The line flags byte (R190). -/
def LineFlags.value (f : LineFlags) : Nat :=
  f.tempHeld.toNat + 2 * f.ctlClamped.toNat + 4 * f.short.toNat + 8 * f.bypassed.toNat + 16 * f.valveLeak.toNat

/-- The permissives byte (R193), each bit 1 while withdrawn. -/
def Monitor.value (m : Monitor) : Nat :=
  m.groundOut.toNat + 2 * m.overfillOut.toNat + 4 * m.stopInForce.toNat + 8 * m.terminal.toNat +
    16 * m.deadmanOut.toNat

end Sys2Proof.Machine
end

