-- ==== Sys2Proof/Machine/Layout.lean ====
section
/-! DEFINITION. Bytes of the frames and records of chapter 13: encoding rules (R187), the CRC, link frames (R188), the
card record and tanker tag (R189), the note record (R190), the code space (R192) and socket frames (R194). -/

namespace Sys2Proof.Machine

/-! ## Encoding rules (R187) -/

/-- `w` bytes of `n`, most significant byte first. -/
def beBytes : Nat → Nat → List Byte
  | 0, _ => []
  | w + 1, n => BitVec.ofNat 8 (n / 256 ^ w) :: beBytes w n

/-- A figure written into a field of `w` bytes, saturating at the field's largest value (R187). -/
def field (w n : Nat) : List Byte := beBytes w (min n (256 ^ w - 1))

/-- A signed figure in two's complement. -/
def signedField (w : Nat) (x : Int) : List Byte := beBytes w (x % (256 ^ w : Nat)).toNat

/-- An absent figure, carried as all ones (R192, R193). -/
def allOnes (w : Nat) : List Byte := List.replicate w 255

/-- A figure that may be absent. -/
def optField (w : Nat) : Option Nat → List Byte
  | some n => field w n
  | none => allOnes w

/-- A flag byte, 0 clear and 1 set. -/
def flagByte (b : Bool) : List Byte := [if b then 1 else 0]

/-- The number carried by bytes, most significant first. -/
def beValue (bs : List Byte) : Nat := bs.foldl (fun acc b => acc * 256 + b.toNat) 0

/-- The number in the `w` bytes from offset `off` of a record. -/
def fieldAt (bs : List Byte) (off w : Nat) : Nat := beValue ((bs.drop off).take w)

/-- One bit of the CRC with generator 0x1021. -/
def crcBit (c b : Nat) : Nat :=
  bif (c / 32768 + b) % 2 == 0 then c * 2 % 65536 else (c * 2 % 65536) ^^^ 0x1021

/-- One byte of the CRC, most significant bit first. -/
def crcByte (c b : Nat) : Nat :=
  [7, 6, 5, 4, 3, 2, 1, 0].foldl (fun c i => crcBit c (b >>> i % 2)) c

/-- The CRC register after the given bytes; the match makes the kernel evaluate the register at each byte. -/
def crcFrom : List Byte → Nat → Nat
  | [], c => c
  | b :: bs, c =>
    match crcByte c b.toNat with
    | 0 => crcFrom bs 0
    | n + 1 => crcFrom bs (n + 1)

/-- The 16-bit CRC of every check value (R3, R187): preset 0xFFFF, no final inversion. -/
def crc16 (bs : List Byte) : Nat := crcFrom bs 0xFFFF

/-- Bytes followed by the check value that covers them. -/
def withCheck (bs : List Byte) : List Byte := bs ++ beBytes 2 (crc16 bs)

/-- A record agrees with its check value: its last two bytes are the CRC of the rest (R187). -/
def checkAgrees (bs : List Byte) : Bool :=
  decide (2 ≤ bs.length) && crc16 (bs.take (bs.length - 2)) == beValue (bs.drop (bs.length - 2))

/-! ## The code space (R192) -/

/-- A reason's code. -/
def Reason.code : Reason → Nat
  | .badCard => 1 | .clash => 2 | .starting => 3 | .busy => 4 | .noDate => 5 | .expired => 6 | .revoked => 7
  | .storeFault => 8 | .noteStoreFull => 9 | .noTanker => 10 | .inUse => 11 | .linkBusy => 12 | .restart => 13
  | .noSession => 14 | .badCompartment => 15 | .noBatch => 16 | .duplicate => 17 | .badGrade => 18
  | .notQualified => 19 | .noArm => 20 | .noInjector => 21 | .tooSmall => 22 | .tooLate => 23 | .wrongState => 24
  | .stopped => 25 | .format => 26 | .configFault => 27 | .finished => 28 | .idle => 29 | .tankerGone => 30
  | .tankerChanged => 31 | .held => 32 | .noFlow => 33 | .meter => 34 | .overdraw => 35 | .additive => 36
  | .ground => 37 | .overfill => 38 | .localStop => 39 | .terminalStop => 40 | .deadman => 41 | .sessionEnd => 42
  | .valveLeak => 43 | .admitted => 44 | .uncoupled => 45 | .closeAhead => 46 | .preset => 47

/-- A fault kind's code (R192). -/
def FaultKind.code : FaultKind → Nat
  | .badCheck => 1 | .armHeader => 2 | .armShares => 3 | .armSlice => 4 | .gradeHeader => 5 | .injectorArm => 6

/-- A reason that may be absent, carried as 255 (R192). -/
def reasonByte (r : Option Reason) : List Byte := optField 1 (r.map Reason.code)

/-- The codes a note's end reason may have (R36, R192). -/
def endReasonCodes : List Nat := [2, 6, 7, 17, 28, 29, 30, 31]

/-! ## Link frames (R188) -/

/-- A frame's kind code. -/
def FrameTag.code : FrameTag → Nat
  | .state => 1 | .claim _ => 2 | .yield _ => 3 | .permitClaim => 4 | .stop => 7 | .note _ => 8

/-- Header of a frame: the short form for a payload of 0 to 15 bytes, the long form otherwise (R3, R188). -/
def frameHeader (station : StationId) (kind len : Nat) : List Byte :=
  if len ≤ 15 then [BitVec.ofNat 8 station.val, BitVec.ofNat 8 (kind * 16 + len)]
  else [BitVec.ofNat 8 (128 + station.val), BitVec.ofNat 8 (kind * 16 + len / 256 % 2), BitVec.ofNat 8 (len % 256)]

/-- The line image of R3: start byte, header, payload, CRC over header and payload. -/
def lineImage (station : StationId) (kind : Nat) (payload : List Byte) : List Byte :=
  0xC5 :: withCheck (frameHeader station kind payload.length ++ payload)

/-- A frame's content, as its receiver takes it. -/
inductive Frame where
  | state (cls : PriorityClass) (stop isOpen starting : Bool) (shares : Vector Nat 8) (permit : Option Nat)
  | claim (header : HeaderId) (total : Nat) (cls : PriorityClass)
  | yield (header : HeaderId) (units : Nat) (cls : PriorityClass)
  | permitClaim (permit : Nat)
  | revoke (permit endDay : Nat)
  | time (day second : Nat)
  | stop
  | note
  | noteRequest (target : StationId)
  | noteTaken (target : StationId) (number : Nat)
  deriving DecidableEq, Repr

/-- The value `n` as a number below `m`, when it is one. -/
def asFin (m n : Nat) : Option (Fin m) := if h : n < m then some ⟨n, h⟩ else none

/-- Share bytes of a STATE in header order: each present header takes the next byte, an absent one 0 (R22, R188). -/
def takeShares (mask : Byte) : List Nat → List Byte → List Nat
  | [], _ => []
  | h :: hs, bs =>
    if mask.getLsbD h then
      match bs with
      | b :: rest => b.toNat :: takeShares mask hs rest
      | [] => 0 :: takeShares mask hs []
    else 0 :: takeShares mask hs bs

/-- Eight figures by header. -/
def vec8 {α : Type} (f : Fin 8 → α) : Vector α 8 := #v[f 0, f 1, f 2, f 3, f 4, f 5, f 6, f 7]

/-- Four figures by arm or injector. -/
def vec4 {α : Type} (f : Fin 4 → α) : Vector α 4 := #v[f 0, f 1, f 2, f 3]

/-- The headers present in a mask. -/
def maskCount (mask : Byte) : Nat := ([0, 1, 2, 3, 4, 5, 6, 7].filter (mask.getLsbD ·)).length

/-- A STATE payload: length check 4 and range check 5 of R13, fields of R188. -/
def parseState : List Byte → Option Frame
  | flags :: mask :: rest =>
    let isOpen := flags.getLsbD 3
    let permitLen := if isOpen then 4 else 0
    let permit := beValue (rest.take permitLen)
    let bytes := rest.drop permitLen
    let shares := takeShares mask [0, 1, 2, 3, 4, 5, 6, 7] bytes
    if rest.length = permitLen + maskCount mask ∧ flags.toNat < 32 ∧ (isOpen → permit ≠ 0) ∧ shares.all (· ≤ 250) then
      some (.state ⟨flags.toNat % 4, Nat.mod_lt _ (by decide)⟩ (flags.getLsbD 2) isOpen (flags.getLsbD 4)
        (vec8 fun h => shares.getD h 0) (if isOpen then some permit else none))
    else none
  | _ => none

/-- Header, figure 1 to 250 stored less one, class: the payload of CLAIM and YIELD (R187, R188). -/
def parseShareFrame (make : HeaderId → Nat → PriorityClass → Frame) : List Byte → Option Frame
  | [h, units, cls] =>
    if units.toNat < 250 then
      match asFin 8 h.toNat, asFin 4 cls.toNat with
      | some h, some cls => some (make h (units.toNat + 1) cls)
      | _, _ => none
    else none
  | _ => none

/-- Ranges of a note line's fixed part, its flags and mask among them, and optional parts (R13 check 5, R190; log 24).
DESIGN CHOICE (log 59): the last arm of a received line is 0 to 3, and the 255 of an absent arm is out of range. -/
def noteLineOk (line optional : List Byte) (mask : Nat) : Bool :=
  let preset := fieldAt line 3 3
  let additive := if mask % 2 = 1 then optional.drop 2 else optional
  decide (1 ≤ fieldAt line 0 1 ∧ fieldAt line 0 1 ≤ 8 ∧ fieldAt line 1 1 ≤ 15 ∧ fieldAt line 2 1 ≤ 3) &&
    decide (1 ≤ preset ∧ preset ≤ 99999) && decide (fieldAt line 23 1 < 32 ∧ mask < 4) &&
    (mask % 2 == 0 ||
      decide ((BitVec.ofNat 16 (fieldAt optional 0 2)).toInt ≥ -5000 ∧
        (BitVec.ofNat 16 (fieldAt optional 0 2)).toInt ≤ 8000)) &&
    (mask / 2 % 2 == 0 || decide (fieldAt additive 0 1 ≤ 3))

/-- Bytes of a note line's optional parts (R190). -/
def optionalLength (mask : Nat) : Nat := (if mask % 2 = 1 then 2 else 0) + (if mask / 2 % 2 = 1 then 16 else 0)

/-- Walks `n` note lines: whether all lie in their ranges, and the bytes that follow them; none when bytes run out. -/
def scanNoteLines : Nat → List Byte → Option (Bool × List Byte)
  | 0, bs => some (true, bs)
  | n + 1, bs =>
    let line := bs.take 25
    let mask := fieldAt line 24 1
    let optional := (bs.drop 25).take (optionalLength mask)
    if 25 + optionalLength mask ≤ bs.length then
      match scanNoteLines n (bs.drop (25 + optionalLength mask)) with
      | some (ok, rest) => some (noteLineOk line optional mask && ok, rest)
      | none => none
    else none

/-- Ranges of a note's head (R190). R190 gives the end reason byte no range of its own. DESIGN CHOICE (log 65): it is one of the
end reason codes of R192, and the 255 of an absent reason is out of range. -/
def noteHeadOk (bs : List Byte) : Bool :=
  decide (1 ≤ fieldAt bs 0 3 ∧ fieldAt bs 0 3 ≤ 999999 ∧ fieldAt bs 3 1 ≤ 31 ∧ 1 ≤ fieldAt bs 4 4) &&
    decide (fieldAt bs 16 3 ≤ 86399 ∧ fieldAt bs 21 3 ≤ 86399 ∧ fieldAt bs 25 1 ≤ 7) &&
    endReasonCodes.contains (fieldAt bs 24 1)

/-- A NOTE payload: its length must agree with its line count and masks, its fields with their ranges (R13). -/
def parseNote (bs : List Byte) : Option Frame :=
  if 26 ≤ bs.length then
    match scanNoteLines (fieldAt bs 25 1 + 1) (bs.drop 26) with
    | some (true, []) => if noteHeadOk bs then some .note else none
    | _ => none
  else none

/-- Checks 3 to 5 of R13: a known kind, a length the kind allows, every field in its range. -/
def parsePayload (kind : Nat) (bs : List Byte) : Option Frame :=
  match kind with
  | 1 => parseState bs
  | 2 => parseShareFrame .claim bs
  | 3 => parseShareFrame .yield bs
  | 4 => if bs.length = 4 ∧ beValue bs ≠ 0 then some (.permitClaim (beValue bs)) else none
  | 5 => if bs.length = 6 ∧ fieldAt bs 0 4 ≠ 0 then some (.revoke (fieldAt bs 0 4) (fieldAt bs 4 2)) else none
  | 6 => if bs.length = 5 ∧ fieldAt bs 2 3 ≤ 86399 then some (.time (fieldAt bs 0 2) (fieldAt bs 2 3)) else none
  | 7 => if bs = [] then some .stop else none
  | 8 => parseNote bs
  | 9 => if bs.length = 1 then (asFin 32 (fieldAt bs 0 1)).map .noteRequest else none
  | 10 =>
    if bs.length = 4 ∧ 1 ≤ fieldAt bs 1 3 ∧ fieldAt bs 1 3 ≤ 999999 then
      (asFin 32 (fieldAt bs 0 1)).map (.noteTaken · (fieldAt bs 1 3))
    else none
  | _ => none

/-- A complete frame through the five checks of R13, in their order: its source and content when it is good. Bits 6-5
of byte 0 and bits 3-1 of byte 1 in the long form are ignored (R188). -/
def parseFrame (bs : List Byte) : Option (StationId × Frame) :=
  match bs with
  | b0 :: b1 :: rest =>
    let long := b0.getLsbD 7
    let len := if long then b1.toNat % 2 * 256 + fieldAt rest 0 1 else b1.toNat % 16
    let header := if long then 3 else 2
    if bs.length = header + len + 2 ∧ (long → 16 ≤ len) ∧ checkAgrees bs then
      (parsePayload (b1.toNat / 16) ((bs.drop header).take len)).map
        fun f => (⟨b0.toNat % 32, Nat.mod_lt _ (by decide)⟩, f)
    else none
  | _ => none

/-! ## Card record and tanker tag (R189) -/

/-- Check 1 of R37 on a card record: its permit record when it agrees with its contents and its permit id is not 0. -/
def parseCard (bs : List Byte) : Option Permit :=
  if bs.length = 12 ∧ checkAgrees bs ∧ fieldAt bs 0 4 ≠ 0 then
    (asFin 4 (fieldAt bs 7 1)).map fun cls => ⟨fieldAt bs 0 4, fieldAt bs 4 2, bs.getD 6 0, cls, fieldAt bs 8 2⟩
  else none

/-- Safe fills of a tag, three bytes each. -/
def takeFills : Nat → List Byte → List Nat
  | 0, _ => []
  | n + 1, bs => fieldAt bs 0 3 :: takeFills n (bs.drop 3)

/-- A readable tag's record (R35, R189); none for an unreadable tag. -/
def parseTag (bs : List Byte) : Option Tag :=
  let count := fieldAt bs 4 1 + 1
  let fills := takeFills count (bs.drop 5)
  if count ≤ 8 ∧ bs.length = 5 + 3 * count + 2 ∧ checkAgrees bs ∧ fills.all (fun f => 1 ≤ f && f ≤ 99999) then
    some ⟨fieldAt bs 0 4, fills⟩
  else none

/-! ## Socket frames (R194) -/

/-- Whether an unplug report's check value agrees: it covers the kind byte 2. -/
def unplugAgrees (check : BitVec 16) : Bool := crc16 [2] == check.toNat

/-- Whether a socket state report's check value agrees: it covers the kind byte 3 and the body. -/
def socketStateAgrees (body : List Byte) (check : BitVec 16) : Bool := crc16 (3 :: body) == check.toNat

/-- A sensor byte: above 2 is FAULT. -/
def sensorOf (b : Byte) : Sensor :=
  if b = 0 then .dry else if b = 1 then .wet else .fault

/-- The socket request the part sends (R194). -/
def socketRequestFrame : List Byte := withCheck [4]

/-! ## Panel answer frames (R192) -/

/-- Kind byte and body of an answer. -/
def Answer.content : Answer → List Byte
  | .accepted body => 129 :: body
  | .clamped => [130]
  | .pending => [131]
  | .refused r => 132 :: field 1 r.code
  | .configFault k => 132 :: field 1 Reason.configFault.code ++ optField 1 (k.map FaultKind.code)

/-- A panel frame: length of kind and body, kind, body, check value over all three (R192). -/
def panelFrame (content : List Byte) : List Byte := withCheck (beBytes 2 content.length ++ content)

/-- The answer's frame. -/
def Answer.frame (a : Answer) : List Byte := panelFrame a.content

end Sys2Proof.Machine
end

