-- ==== Sys2Proof/Machine/Link.lean ====
section
/-! DEFINITION. The link controller's transmitter and queue (1.2, 1.3), the composition of STATE (R30) and the
hand-over of frames (R8 to R10, R16). -/

namespace Sys2Proof.Machine

/-! ## Transmitter -/

def TxFrame.isStop (f : TxFrame) : Bool := f.tag == .stop
def TxFrame.isState (f : TxFrame) : Bool := f.tag == .state

/-- The front frame is in progress: from the start of its first attempt until it leaves (1.2.1). -/
def Link.inProgress (l : Link) : Bool := l.tx == .sending || l.tx == .backoff

/-- Slots to wait after attempt count `k` (R6). -/
def backoffSlots (station : StationId) (k : Nat) : Nat := 1 + (station.val * 3 + k * 5) % 16

/-- Beginning an attempt: SENDING, the line BUSY (R4); a hunting receiver takes the start byte of the own frame as of
any other (R12). DESIGN CHOICE (log 8): FRAME is entered, and the buffer emptied, with the attempt and not at the end of its
start byte, which no row reports. -/
def Link.beginAttempt (l : Link) : Link :=
  { l with
    tx := .sending
    lineIdle := false
    wait := 0
    rx := if l.rx = .hunt then .frame else l.rx
    buffer := if l.rx = .hunt then [] else l.buffer }

/-- A READY transmitter begins as soon as the line is IDLE (R4). -/
def Link.startIfReady (l : Link) : Link :=
  if l.tx = .ready ∧ l.lineIdle = true then l.beginAttempt else l

/-- The front frame leaves the queue: k is cleared and the next frame, if any, is READY (R7). -/
def Link.popFront (l : Link) : Link :=
  { l with
    queue := l.queue.tail
    attempts := 0
    wait := 0
    tx := if l.queue.tail.isEmpty then .empty else .ready }

/-! ## Queue places (R8 to R10) -/

/-- A queue that has taken its first frame has it READY with k = 0 (R4, R8). -/
def Link.wake (l : Link) : Link :=
  (if l.tx = .empty then { l with tx := .ready, attempts := 0, wait := 0 } else l).startIfReady

/-- The frames that wait: all but a frame in progress. -/
def Link.waiting (l : Link) : List TxFrame := if l.inProgress then l.queue.drop 1 else l.queue

/-- The head place: behind the frame in progress, or for a STATE behind a front STATE (R9), and behind waiting STOPs. -/
def headPlace (behindFront : Bool) (queue : List TxFrame) : Nat :=
  let base := if behindFront && !queue.isEmpty then 1 else 0
  base + ((queue.drop base).takeWhile TxFrame.isStop).length

def insertAt (n : Nat) (f : TxFrame) (queue : List TxFrame) : List TxFrame := queue.take n ++ f :: queue.drop n

/-- Replaces the first frame that satisfies `p`. -/
def replaceFirst (p : TxFrame → Bool) (f : TxFrame) : List TxFrame → List TxFrame
  | [] => []
  | g :: rest => if p g then f :: rest else g :: replaceFirst p f rest

/-- The newest frame that is not a STOP: the last to have entered (R10, log 12). -/
def newestNonStop (waiting : List TxFrame) : Option TxFrame :=
  waiting.foldl (fun best f =>
    if f.isStop then best
    else
      match best with
      | some g => if g.id < f.id then some f else best
      | none => some f) none

/-- A frame for the tail: accepted, or discarded at once by a full queue (R8, R10). -/
def Link.pushTail (f : TxFrame) (l : Link) : Link × Bool :=
  if l.queue.length < Config.txCapacity then ({ l with queue := l.queue ++ [f] }.wake, true) else (l, false)

/-- What a queue keeps when a STOP goes in front of it: at most one STATE waits outside the front (R9), so a front STATE not
in progress, which the STOP makes wait, is gone while a newer one waits behind it. DESIGN CHOICE (log 64): R9 does not say
which of the two stays. -/
def oneStateWaits : List TxFrame → List TxFrame
  | [] => []
  | g :: rest => if g.isState && rest.any TxFrame.isState then rest else g :: rest

/-- A STOP takes the head place of a queue (R8): behind the frame in progress, else in front of every frame. -/
def Link.enterStop (f : TxFrame) (queue : List TxFrame) (l : Link) : Link :=
  let kept := if l.inProgress then queue else oneStateWaits queue
  { l with queue := insertAt (headPlace l.inProgress kept) f kept }.wake

/-- A STOP: merged with a waiting STOP; otherwise at the head, displacing the newest waiting frame that is not a STOP
when the queue is full (R8, R9, R10). The second figure is the displaced frame. -/
def Link.pushStop (f : TxFrame) (l : Link) : Link × Option TxFrame :=
  if l.waiting.any TxFrame.isStop then (l, none)
  else if l.queue.length < Config.txCapacity then (l.enterStop f l.queue, none)
  else
    match newestNonStop l.waiting with
    | none => (l, none)
    | some g => (l.enterStop f (l.queue.filter (·.id != g.id)), some g)

/-- A STATE whose stop flag clears one announced before: at the head, an older STATE waiting behind the front removed
(R8, R9). -/
def Link.pushStateHead (f : TxFrame) (l : Link) : Link :=
  let queue := l.queue.take 1 ++ (l.queue.drop 1).filter (fun g => !g.isState)
  let frontState := match queue with
    | g :: _ => g.isState
    | [] => false
  if queue.length < Config.txCapacity then
    { l with queue := insertAt (headPlace (l.inProgress || frontState) queue) f queue }.wake
  else l

/-- Any other STATE: in the place of a STATE waiting behind the front, else in the place of a front STATE not on the
pair, else at the tail (R9, R8; log 11). A STATE turned away is dropped (R11). -/
def Link.pushStateTail (f : TxFrame) (l : Link) : Link :=
  match l.queue with
  | [] => (l.pushTail f).1
  | front :: rest =>
    if rest.any TxFrame.isState then { l with queue := front :: replaceFirst TxFrame.isState f rest }
    else if front.isState && l.tx != .sending then { l with queue := f :: rest }
    else (l.pushTail f).1

/-- The purge of R16: every frame that is not a STOP leaves; a STOP in progress keeps its attempt, and a STOP that
reaches the front is READY (R4). -/
def Link.purge (l : Link) : Link :=
  let stops := l.queue.filter TxFrame.isStop
  match l.queue with
  | front :: _ =>
    if front.isStop then { l with queue := stops }
    else
      { l with queue := stops, attempts := 0, wait := 0, tx := if stops.isEmpty then .empty else .ready }.startIfReady
  | [] => l

/-! ## Hand-over -/

/-- The frame a block hands over now, its content fixed (R3). -/
def State.frameNow (s : State) (tag : FrameTag) (payload : List Byte) : TxFrame :=
  ⟨s.link.nextId, tag, lineImage s.cfg.station tag.code payload⟩

/-- Counts a hand-over. -/
def Link.numbered (l : Link) : Link := { l with nextId := l.nextId + 1 }

/-- What becomes of a frame for the tail at its hand-over. -/
inductive Entry where
  /-- it is in the queue -/
  | taken
  /-- discarded at once by a full queue (R10) -/
  | full
  /-- refused entry in CLASH (R16) -/
  | clash
  /-- not taken while the RESTART line is asserted (R19); nothing is reported -/
  | lost
  deriving DecidableEq, Repr

/-- Hands over a frame for the tail. -/
def State.handTail (tag : FrameTag) (payload : List Byte) (s : State) : State × Entry :=
  if !s.linkOpen then (s.modLink Link.numbered, .lost)
  else if s.station = .clash then (s.modLink Link.numbered, .clash)
  else
    let r := s.link.pushTail (s.frameNow tag payload)
    ({ s with link := r.1.numbered }, if r.2 then .taken else .full)

/-- The headers on which this station's own steady share is above 0 (R30). -/
def State.sharedHeaders (s : State) : List HeaderId := allHeaders.filter fun h => decide (0 < (s.header h).ownShare)

/-- The STATE payload of this moment (R30, R188). -/
def State.statePayload (s : State) : List Byte :=
  let flags := s.sessionClass.val + 4 * s.ownStop.toNat + 8 * s.sessionOpen.toNat +
    16 * (s.station == .starting).toNat
  let mask := s.sharedHeaders.foldl (fun m h => m + 2 ^ h.val) 0
  beBytes 1 flags ++ beBytes 1 mask ++
    (if s.sessionOpen then beBytes 4 (s.sessionPermit.getD 0) else []) ++
    s.sharedHeaders.map fun h => BitVec.ofNat 8 (s.header h).ownShare

/-- The peer view composes a STATE and hands it over (R30, R31); each hand-over restarts the period timer. In CLASH it
is refused and dropped (R16, R32). Nothing is composed in CONFIG FAULT or while the RESTART line is asserted (R29). -/
def State.composeState (s : State) : State :=
  if !s.linkOpen then s
  else
    let f := s.frameNow .state s.statePayload
    let l :=
      if s.station = .clash then s.link
      else if s.link.lastStateStop && !s.ownStop then s.link.pushStateHead f
      else s.link.pushStateTail f
    { s with link := { l.numbered with lastStateStop := s.ownStop }, periodTimer := s.after Config.statePeriodMs }

end Sys2Proof.Machine
end

