-- ==== Sys2Proof/Machine/Shares.lean ====
section
/-! DEFINITION. The claim slot and the dispatcher's scan (R64, R65, R80 to R90): taking a slot, withdrawing, passing a
free slot on, retry triggers, abandonment, and the release of reservations (R66). -/

namespace Sys2Proof.Machine

/-! ## The dispatcher's arm tests (R65) -/

/-- The additive test: the arm's injector for the grade's code is not FAULT, or the bypass key is on. -/
def State.additiveTest (s : State) (b : Batch) (a : ArmId) : Bool :=
  match s.gradeCode b.grade with
  | none => true
  | some code =>
    match s.servingInjector a code with
    | some i => !s.isFault i || s.monitor.bypass
    | none => false

/-- A started batch keeps to arms of its last arm's K-factor. -/
def State.kTest (s : State) (b : Batch) (a : ArmId) : Bool :=
  !b.started ||
    match b.lastArm with
    | some l => (s.armCfg a).k == (s.armCfg l).k
    | none => true

/-- The arm tests of R65 for a batch. -/
def State.armPasses (s : State) (b : Batch) (a : ArmId) : Bool :=
  (s.armCfg a).enabled && decide ((s.armCfg a).header = s.gradeHeader b.grade) &&
    (b.named == none || b.named == some a) && (s.arm a).coupled && (s.arm a).inService &&
    (s.arm a).stage == .closed && (s.arm a).reserved == none && s.additiveTest b a && s.kTest b a

/-- The arm chosen for a batch (R65). -/
def State.chooseArm (s : State) (b : Batch) : Option ArmId :=
  match b.named, b.started, b.lastArm with
  | none, true, some l => if s.armPasses b l then some l else allArms.find? (s.armPasses b)
  | _, _, _ => allArms.find? (s.armPasses b)

/-- A batch in the queue is eligible: no reservation, its header's slot empty, its retry wait flag clear (R65). -/
def State.eligible (s : State) (c : CompId) (b : Batch) : Bool :=
  s.reservedArm c == none && (s.header (s.gradeHeader b.grade)).slot == none &&
    !(s.header (s.gradeHeader b.grade)).retryWait

/-! ## Taking a slot (R82) and withdrawing (R86) -/

/-- A claim's increase (R79). -/
def claimIncrease (c : ArmCfg) : ClaimKind → Nat
  | .low => c.lowShare
  | .stepUp => c.fullShare - c.lowShare

/-- The withdrawal path of R86, less its YIELD and its passing on: the STATE (left out under R82), the reservation and
retry wait flag or the RETRY WAIT, the retry timer, the slot FREE. -/
def State.withdrawClaim (h : HeaderId) (a : ArmId) (kind : ClaimKind) (announce : Bool) (s : State) : State :=
  let s := if announce then s.composeState else s
  let s :=
    match kind with
    | .low => (s.modArm a fun m => { m with reserved := none }).modHeader h fun x => { x with retryWait := true }
    | .stepUp => s.modArm a fun m => { m with stepUp := .retryWait }
  s.modHeader h fun x => { x with retryTimer := s.after Config.retryMs, slot := none }

/-- The CLAIM payload: header, claimed total less one, class (R187, R188). -/
def claimPayload (h : HeaderId) (total : Nat) (cls : PriorityClass) : List Byte :=
  beBytes 1 h.val ++ beBytes 1 (total - 1) ++ beBytes 1 cls.val

/-- A request takes its header's FREE slot (R82). A claim above capacity, or one whose CLAIM a full queue turns away
(R83), withdraws at once and leaves the slot FREE. -/
def State.takeSlot (a : ArmId) (kind : ClaimKind) (s : State) : State :=
  let h := (s.armCfg a).header
  let inc := claimIncrease (s.armCfg a) kind
  let total := (s.header h).ownShare + inc
  if (s.headerCfg h).capacity < total then s.withdrawClaim h a kind false
  else
    let claim : Claim := ⟨a, kind, inc, total, .queued, s.link.nextId⟩
    let s1 := s.modHeader h fun x => { x with slot := some claim }
    let s2 := match kind with
      | .low => s1
      | .stepUp => s1.modArm a fun m => { m with stepUp := .inClaim }
    let r := s2.handTail (.claim h) (claimPayload h total s2.sessionClass)
    match r.2 with
    | .full => r.1.withdrawClaim h a kind true
    | _ => r.1

/-! ## Passing a slot on (R81) and scanning (R64, R65) -/

/-- A WAITING arm takes its header's slot while it is FREE (R81). -/
def State.offerSlot (h : HeaderId) (s : State) (a : ArmId) : State :=
  if (s.header h).slot = none ∧ (s.armCfg a).header = h ∧ (s.arm a).stepUp = .waiting then s.takeSlot a .stepUp else s

/-- The WAITING arms of a header, lowest number first, until one holds the slot. -/
def State.passArms (h : HeaderId) (s : State) : State := allArms.foldl (State.offerSlot h) s

/-- One batch of the scan: reserved to the arm chosen, its low claim asked (R65). -/
def State.scanOne (s : State) (c : CompId) : State :=
  match s.batch c with
  | none => s
  | some b =>
    if s.eligible c b then
      match s.chooseArm b with
      | some a =>
        ((s.modArm a fun m => { m with reserved := some c }).takeSlot a .low).passArms (s.gradeHeader b.grade)
      | none => s
    else s

/-- A scan of the start queue, head to tail (R64, R65). -/
def State.scan (s : State) : State := if s.mayClaim then s.startQueue.foldl State.scanOne s else s

/-- A slot become FREE is passed on: to a WAITING arm, else to the dispatcher (R81), while claims may be taken
(log 14). -/
def State.passOn (h : HeaderId) (s : State) : State :=
  if s.mayClaim then
    let s := s.passArms h
    if (s.header h).slot = none then s.scan else s
  else s

/-- A STEP-UP request (R80): taken in LOW or REDUCED with step-up state NONE; it takes a FREE slot at once or waits. -/
def State.requestStepUp (a : ArmId) (s : State) : State :=
  if s.mayClaim ∧ ((s.arm a).stage = Stage.low ∨ (s.arm a).stage = Stage.reduced) ∧ (s.arm a).stepUp = StepUp.none then
    let h := (s.armCfg a).header
    if (s.header h).slot = none then
      let s := s.takeSlot a .stepUp
      if (s.header h).slot = none then s.passOn h else s
    else s.modArm a fun m => { m with stepUp := .waiting }
  else s

/-! ## Retry triggers (R90) and falls (R78) -/

/-- A RETRY WAIT arm of the header becomes WAITING. -/
def State.wakeArm (h : HeaderId) (a : ArmId) (s : State) : State :=
  if (s.armCfg a).header = h ∧ (s.arm a).stepUp = .retryWait then s.modArm a fun m => { m with stepUp := .waiting }
  else s

/-- A retry trigger on a header (R90, R91, R68): its retry timer stops, RETRY WAIT arms become WAITING, a FREE slot is
passed on, the dispatcher clears its retry wait flag and scans. -/
def State.retryTrigger (h : HeaderId) (s : State) : State :=
  let s := s.modHeader h fun x => { x with retryTimer := none }
  let s := s.eachArm (State.wakeArm h)
  let s := if (s.header h).slot = none then s.passOn h else s
  (s.modHeader h fun x => { x with retryWait := false }).scan

/-- A fall of own steady share on a header, already made, is announced (R78). -/
def State.announceFall (h : HeaderId) (s : State) : State := s.composeState.retryTrigger h

/-! ## Abandonment (R87, R88) and reservations (R66) -/

/-- The claim in a header's slot is abandoned: slot FREE, a LOW CLAIM's reservation released, a STEP-UP arm's state
NONE; a STATE follows where its CLAIM has gone out and `announce` asks it. -/
def State.dropClaim (h : HeaderId) (announce : Bool) (s : State) : State :=
  match (s.header h).slot with
  | none => s
  | some c =>
    let s := s.modHeader h fun x => { x with slot := none }
    let s :=
      match c.kind with
      | .low => s.modArm c.arm fun m => { m with reserved := none }
      | .stepUp => s.modArm c.arm fun m => { m with stepUp := .none }
    match announce, c.phase with
    | true, .settling _ => s.composeState
    | _, _ => s

/-- Abandonment of the claim in a header's slot, the slot passed on (R87). -/
def State.abandon (h : HeaderId) (s : State) : State :=
  match (s.header h).slot with
  | none => s
  | some _ => (s.dropClaim h true).passOn h

/-- Abandonment of an arm's STEP-UP in flight. -/
def State.abandonStepUp (a : ArmId) (s : State) : State :=
  match (s.header (s.armCfg a).header).slot with
  | some c => if c.arm = a ∧ c.kind = ClaimKind.stepUp then s.abandon (s.armCfg a).header else s
  | none => s

/-- Abandonment of a header's claim if it is a LOW CLAIM. -/
def State.abandonLow (s : State) (h : HeaderId) : State :=
  match (s.header h).slot with
  | some c => if c.kind = ClaimKind.low then s.abandon h else s
  | none => s

/-- The dispatcher releases an arm's reservation (R66): its claim is abandoned as for a HOLD, and the arm become free
triggers a scan. -/
def State.releaseReservation (a : ArmId) (s : State) : State :=
  match (s.arm a).reserved with
  | none => s
  | some _ =>
    let s1 :=
      match (s.header (s.armCfg a).header).slot with
      | some c =>
        if c.arm = a ∧ c.kind = ClaimKind.low then s.abandon (s.armCfg a).header
        else s.modArm a fun m => { m with reserved := none }
      | none => s.modArm a fun m => { m with reserved := none }
    s1.scan

/-- A reserved arm that has stopped passing the arm tests is released (R66): uncoupled, out of service, or its injector
FAULT with the bypass key off. -/
def State.recheckReservation (a : ArmId) (s : State) : State :=
  match (s.arm a).reserved with
  | none => s
  | some c =>
    match s.batch c with
    | none => s
    | some b =>
      if (s.arm a).coupled && (s.arm a).inService && s.additiveTest b a then s else s.releaseReservation a

end Sys2Proof.Machine
end

