-- ==== Sys2Proof/Machine/Stages.lean ====
section
/-! DEFINITION. Closes (R131 to R134), what a close does to the injector (R145), and permissive withdrawals (R158). -/

namespace Sys2Proof.Machine

/-! ## Ends of shots (R145) -/

/-- A shot in flight ends: output off, width timer stopped, IDLE; the cut marker is set where its end was forced. -/
def State.endShot (cut : Bool) (i : InjectorId) (s : State) : State :=
  if (s.injector i).firing then
    s.modInjector i fun x =>
      { x with
        firing := false
        width := none
        window := x.window.map fun w => { w with cut := w.cut || cut } }
  else s

/-- Every shot in flight on an arm is cut. -/
def State.cutArmShots (a : ArmId) (s : State) : State :=
  s.eachInjector fun i s => if (s.injectorCfg i).arm = a then s.endShot true i else s

/-- Every shot in flight on every arm is cut. -/
def State.cutAllShots (s : State) : State := s.eachInjector (State.endShot true)

/-! ## Closes -/

/-- A close passes to phase SETTLE: both solenoids off, settle and close limit timers started (R134). -/
def State.enterSettle (a : ArmId) (s : State) : State :=
  s.modArm a fun m =>
    { m with
      close := m.close.map fun c => { c with phase := .settle }
      stepDown := none
      settle := s.after Config.settleMs
      closeLimit := s.after Config.closeLimitMs }

/-- What entry to CLOSING ends on the arm: no-flow timer (R109), hold-off (R95), overdraw (R96, R97), yield mark (R94)
and step-up state (R80). -/
def Arm.quiet (m : Arm) : Arm :=
  { m with
    noFlow := none
    holdOff := none
    overdrawCount := 0
    overdrawTimer := none
    yieldMark := false
    stepUp := .none }

/-- A close begins on a flowing arm (R131): CONTROLLED from FULL steps down first (R132), any other starts in SETTLE
(R132, R133). The share is held; a STEP-UP in flight is abandoned. -/
def State.beginClose (a : ArmId) (kind : CloseKind) (cause : Reason) (manner : Manner) (s : State) : State :=
  let steps := manner == .controlled && (s.arm a).stage == .full
  let s := s.moveStage a .closing
  let s := s.modArm a fun m =>
    { m.quiet with
      close := some ⟨kind, cause, manner, if steps then .stepDown else .settle⟩
      leak := false
      stepDown := if steps then s.after Config.stepDownMs else none
      settle := if steps then none else s.after Config.settleMs
      closeLimit := if steps then none else s.after Config.closeLimitMs }
  let s := if manner = .fast then s.cutArmShots a else s
  s.abandonStepUp a

/-- The FAST demands that cut a step-down short (R133). -/
def cutsStepDown : Reason → Bool
  | .ground => true
  | .overfill => true
  | .localStop => true
  | .terminalStop => true
  | .uncoupled => true
  | _ => false

/-- A close demand reaches an arm (R131, R133): it begins a close on a flowing arm, is ignored in CLOSED and while the
RESTART line is asserted (R139), and on a closing arm can only cut a step-down short. -/
def State.closeDemand (a : ArmId) (kind : CloseKind) (cause : Reason) (manner : Manner) (s : State) : State :=
  if s.restart then s
  else
    match (s.arm a).stage with
    | .closed => s
    | .closing =>
      if manner = .fast ∧ cutsStepDown cause = true ∧ (s.arm a).close.any (·.phase == .stepDown) = true then
        s.enterSettle a
      else s
    | _ => s.beginClose a kind cause manner

/-! ## Withdrawals and restorations (R158) -/

/-- A permissive passes from held to withdrawn: FAST demands, shots ended, claims abandoned. -/
def State.withdraw (cause : Reason) (s : State) : State :=
  let s := s.eachArm fun a s => s.closeDemand a .stop cause .fast
  let s := s.cutAllShots
  allHeaders.foldl (fun s h => s.abandon h) s

/-- The withdrawal event of one permissive, if it has passed from held to withdrawn. -/
def State.withdrawIf (cause : Reason) (was now : Bool) (s : State) : State :=
  if !was && now then s.withdraw cause else s

/-- Every permissive restored is reported to the dispatcher, which scans. -/
def State.restoreIf (was : Bool) (s : State) : State := if was && !s.monitor.withdrawn then s.scan else s

end Sys2Proof.Machine
end

