-- ==== Sys2Proof/Machine/Deadman.lean ====
section
/-! DEFINITION. The deadman's shared moves (R162 to R165) and the idle timer (R49). -/

namespace Sys2Proof.Machine

/-! ## Idle timer (R49) -/

def State.stopIdle (s : State) : State := s.modSession fun x => { x with idle := none }

/-- The idle limit as a running timer. -/
def State.fullIdle (s : State) : Timer := s.after (s.cfg.idleLimit * 1000)

/-- Starts the idle timer when its three conditions have come to hold together. -/
def State.startIdle (s : State) : State :=
  if s.idleConditions && !s.restart && s.session.idle == none then s.modSession fun x => { x with idle := s.fullIdle }
  else s

/-- A panel request restarts a running idle timer. -/
def State.restartIdle (s : State) : State :=
  if s.session.idle = none then s else s.modSession fun x => { x with idle := s.fullIdle }

/-! ## Deadman -/

/-- RUNNING with the full interval: timer started, flags cleared, horn off. -/
def State.runDeadman (s : State) : State :=
  s.modMonitor fun m =>
    { m with
      deadman := .running
      deadmanTimer := s.after (s.cfg.deadman * 1000)
      counted := Vector.replicate 2 false
      horn := false }

/-- The deadman leaves STOPPED for RUNNING (R162); with both contacts CLOSED the jam timer starts (R164). -/
def State.startDeadman (s : State) : State :=
  if s.monitor.deadman = .stopped then
    s.runDeadman.modMonitor fun m => { m with jam := if m.bothClosed then s.after Config.jamMs else none }
  else s

/-- The deadman is STOPPED: timers stopped, the jam timer among them (log 52), flags clear, horn off (R162). R165 names the
horn alone; that the flags are cleared there too is log 55. -/
def Monitor.stopDeadman (m : Monitor) : Monitor :=
  { m with
    deadman := .stopped
    deadmanTimer := none
    counted := Vector.replicate 2 false
    jam := none
    horn := false }

/-- Whether the deadman goes to STOPPED when every arm is CLOSED: RUNNING and WARNING at a close completion or an empty
queue (R162), EXPIRED and JAMMED at an empty queue, JAMMED only with a contact OPEN (R165). -/
def Monitor.deadmanRests (m : Monitor) (completion queueEmpty : Bool) : Bool :=
  match m.deadman with
  | .stopped => false
  | .running => completion || queueEmpty
  | .warning => completion || queueEmpty
  | .expired => queueEmpty
  | .jammed => queueEmpty && !m.bothClosed

/-- A close completion (`completion`) or the start queue becoming empty, as the deadman takes it (R162, R165). -/
def State.settleDeadman (completion : Bool) (s : State) : State :=
  if s.allClosed && s.monitor.deadmanRests completion s.startQueue.isEmpty then
    (s.modMonitor Monitor.stopDeadman).restoreIf s.monitor.withdrawn
  else s

/-- After a batch has left the start queue otherwise than by its commit: with the queue empty the deadman may stop
(R162) and the idle timer may start (R49). -/
def State.afterDequeue (s : State) : State :=
  if s.startQueue.isEmpty then (s.settleDeadman false).startIdle else s

/-- The deadman expires or jams: timers stopped, the jam timer among them (log 52), flags clear, horn on, DEADMAN
withdrawn (R164). -/
def State.tripDeadman (trip : Deadman) (s : State) : State :=
  (s.modMonitor fun m =>
    { m with
      deadman := trip
      deadmanTimer := none
      counted := Vector.replicate 2 false
      jam := none
      horn := true }).withdrawIf .deadman s.monitor.deadmanOut true

/-- Where closures are counted (R163, R165): in RUNNING and WARNING, and in EXPIRED and JAMMED while every arm is CLOSED
and the queue holds a batch. -/
def State.countsClosures (s : State) : Bool :=
  match s.monitor.deadman with
  | .stopped => false
  | .running => true
  | .warning => true
  | .expired => s.allClosed && !s.startQueue.isEmpty
  | .jammed => s.allClosed && !s.startQueue.isEmpty

/-- A counted closure (R163): its flag is set; the second flag restarts the deadman, and DEADMAN is restored if it was
withdrawn (R165). -/
def State.countClosure (c : ContactId) (s : State) : State :=
  let counted := s.monitor.counted.set c true
  if counted[0] && counted[1] then s.runDeadman.restoreIf s.monitor.withdrawn
  else s.modMonitor fun m => { m with counted := counted }

end Sys2Proof.Machine
end

