-- ==== Sys2Proof/Machine/Volume.lean ====
section
/-! DEFINITION. The arithmetic of a slice (R103, R104, R108, R114 to R118): exact integers, floor divisions, rounding
halves away from zero (R1). -/

namespace Sys2Proof.Machine

/-- Division rounded to the nearest integer, halves away from zero (R1). -/
def roundDiv (x : Int) (d : Nat) : Int :=
  if 0 ≤ x then (2 * x + d) / (2 * d) else -((2 * -x + d) / (2 * d))

/-- CTL before the clamp, in ppm (R115). -/
def ctlFormed (alpha gamma : Nat) (reading : Int) : Int :=
  let dt := reading - 1500
  1000000 - roundDiv ((alpha : Int) * dt) 1000 - roundDiv ((gamma : Int) * (dt * dt)) 10000000

/-- CTL as used: clamped to 900,000 to 1,100,000 (R116). -/
def ctlUsed (alpha gamma : Nat) (reading : Int) : Nat :=
  (max 900000 (min 1100000 (ctlFormed alpha gamma reading))).toNat

/-- Whether the clamp acts (R116). -/
def ctlClamps (alpha gamma : Nat) (reading : Int) : Bool :=
  decide (ctlFormed alpha gamma reading < 900000 ∨ 1100000 < ctlFormed alpha gamma reading)

/-- Selection rate in L/min (R103). -/
def selectionRate (p k d : Nat) : Nat := p * 60000000 / (k * d)

/-- The meter factor of a slice (R104). -/
def selectMf (c : ArmCfg) (rate : Nat) : Nat := if rate < c.lowFlow then c.mfLow else c.mfHigh

/-- The gross numerator N (R114). -/
def grossNumerator (p mf rem : Nat) : Nat := p * 10 * mf + rem

/-- The reading a slice uses: the last good one, or 15.00 °C (R108). -/
def Arm.reading (m : Arm) : Int := m.lastGood.getD 1500

/-- Whether the reading is held (R108). -/
def Arm.readingHeld (m : Arm) : Bool := m.lastGood == none || m.lastDiscarded

/-- The slice timer's figure, held at its top (R99). -/
def State.sliceElapsed (s : State) (a : ArmId) : Nat :=
  match (s.arm a).sliceTimer with
  | some t => min (s.now - t) 4294967295
  | none => 0

/-- Everything a slice computes at its stages 1 to 4. -/
structure SliceFigures where
  pulses   : Nat
  bCount   : Nat
  duration : Nat
  reading  : Int
  held     : Bool
  mf       : Nat
  dG       : Nat
  grossRem : Nat
  clamped  : Bool
  dS       : Nat
  stdRem   : Nat
  rate     : Nat
  deriving DecidableEq, Repr

/-- Stages 1 to 4 of a slice (R101): the slice formed (a partial slice ends at its last A pulse, R102), factor
selected, gross and standard steps, slice rate. -/
def State.sliceFigures (s : State) (a : ArmId) (isPartial : Bool) : SliceFigures :=
  let m := s.arm a
  let c := s.armCfg a
  let h := s.headerCfg c.header
  let p := c.slice - m.sliceCounter
  let d := max 1 (if isPartial then m.lastA.getD 1 else s.sliceElapsed a)
  let mf := selectMf c (selectionRate p c.k d)
  let n := grossNumerator p mf m.live.grossRem
  let dG := n / c.k
  let mm := dG * ctlUsed h.alpha h.gamma m.reading + m.live.stdRem
  { pulses := p
    bCount := m.bCount
    duration := d
    reading := m.reading
    held := m.readingHeld
    mf := mf
    dG := dG
    grossRem := n % c.k
    clamped := ctlClamps h.alpha h.gamma m.reading
    dS := mm / 1000000
    stdRem := mm % 1000000
    rate := dG * 600 / d }

/-- A volume within its 48 bits, or a free value where the sum leaves the range (R113, log 22). -/
def fitVolume (draws x : Nat) : Nat := if x < 2 ^ 48 then x else (Config.freeVolume draws).toNat

/-- The weighted sum within its signed 64 bits, or a free value (R113, log 22). -/
def fitWeighted (draws : Nat) (x : Int) : Int :=
  if -2 ^ 63 ≤ x ∧ x < 2 ^ 63 then x else (Config.freeWeighted draws).toInt

/-- The additions of R118 to the accumulators; each figure has its own number among the free values drawn. -/
def Accum.add (draws : Nat) (f : SliceFigures) (acc : Accum) : Accum :=
  { acc with
    gross := fitVolume draws (acc.gross + f.dG)
    std := fitVolume (draws + 1) (acc.std + f.dS)
    weighted := fitWeighted (draws + 2) (acc.weighted + (f.dG : Int) * f.reading)
    grossRem := f.grossRem
    stdRem := f.stdRem }

/-- Stage 3: the increments enter the owner's live figures and the arm's totalizers (R118, R122), and the markers the
owner's line (R108, R116). -/
def State.addSlice (a : ArmId) (f : SliceFigures) (s : State) : State :=
  let s1 := s.modArm a fun m =>
    { m with
      live := m.live.add s.freeDraws f
      grossTotal := m.grossTotal + BitVec.ofNat 48 f.dG
      stdTotal := m.stdTotal + BitVec.ofNat 48 f.dS }
  let s2 := { s1 with freeDraws := s.freeDraws + 3 }
  let s3 := if f.held then s2.flagOwner a LineFlags.setTempHeld else s2
  if f.clamped then s3.flagOwner a LineFlags.setCtlClamped else s3

end Sys2Proof.Machine
end

