-- ==== Sys2Proof/Machine/Slice.lean ====
section
/-! DEFINITION. A slice completion through its nine stages (R101, R102): additive (R142 to R144, R147 to R150), the
dual-pulse check (R105, R106), the stage tests (R128 to R130), overdraw (R96, R97) and the yield mark (R94). -/

namespace Sys2Proof.Machine

/-! ## Stage 5: additive -/

/-- The expected count of an injector (R141). -/
def expectedCount (c : InjectorCfg) : Nat := max 1 (c.shot * c.feedbackK / 1000)

/-- A window's verdicts (R148). -/
def windowShort (c : InjectorCfg) (w : Window) : Bool :=
  decide (w.count * 100 < expectedCount c * (100 - c.tolerance)) && !w.cut

def windowOver (c : InjectorCfg) (w : Window) : Bool :=
  decide (expectedCount c * (100 + c.tolerance) < w.count * 100)

/-- The bad shot run after a judgment (R148). -/
def runAfter (c : InjectorCfg) (w : Window) (run : Nat) : Nat :=
  if windowShort c w || windowOver c w then min 3 (run + 1) else if w.cut then run else 0

/-- The effect of a newly set latch (R150), and the dispatcher told. -/
def State.faultEffect (a : ArmId) (c : CompId) (s : State) : State :=
  let s :=
    if s.monitor.bypass then s.flagLine c LineFlags.setBypassed
    else if (s.arm a).stage.flowing then s.closeDemand a .stop .additive .controlled
    else s
  s.recheckReservation a

/-- An OPEN window is closed and judged (R147, R148); a run of 3 sets the fault latch, which takes effect (R150). -/
def State.judgeWindow (i : InjectorId) (s : State) : State :=
  match (s.injector i).window with
  | none => s
  | some w =>
    let run := runAfter (s.injectorCfg i) w (s.injector i).badRun
    let s1 := s.modInjector i fun x => { x with window := none, badRun := run }
    if run = 3 then
      (s1.modSession fun x => { x with latches := x.latches.set i true }).faultEffect (s.injectorCfg i).arm w.batch
    else s1

/-- The shot itself (R143 steps 2 to 4). -/
def State.fireShot (a : ArmId) (c : CompId) (i : InjectorId) (s : State) : State :=
  let q := (s.injectorCfg i).shot
  (s.modArm a fun m =>
    { m with live := { m.live with owed := m.live.owed - q * 100, commanded := m.live.commanded + q } }).modInjector i
    fun x =>
      { x with
        firing := true
        shotPulses := 0
        width := s.after (s.injectorCfg i).width
        window := some ⟨c, 0, false⟩ }

/-- The conditions of R143 for a shot of injector `i` on arm `a` with its owner's record. -/
def State.shotDue (s : State) (a : ArmId) (b : Batch) (i : InjectorId) (atRelease : Bool) : Bool :=
  decide ((s.injectorCfg i).shot * 100 ≤ (s.arm a).live.owed) && !(s.injector i).firing && !s.isFault i &&
    (s.arm a).stage.flowing &&
    decide (((s.injectorCfg i).flush : Int) * 100 < remaining b (s.arm a).live) && !atRelease

/-- Stage 5 (R142, R143): owed additive accrues on the gross increment, a natural number without a top (log 50), and one
shot fires when it is due. -/
def State.dose (a : ArmId) (dG : Nat) (atRelease : Bool) (s : State) : State :=
  match s.ownerBatch a with
  | none => s
  | some (c, b) =>
    match s.gradeCode b.grade with
    | none => s
    | some code =>
      let s := s.modArm a fun m =>
        { m with live := { m.live with owed := m.live.owed + dG * (s.gradeCfg b.grade).ratio } }
      match s.servingInjector a code with
      | none => s
      | some i =>
        if s.shotDue a b i atRelease then
          let s := s.judgeWindow i
          if s.isFault i then s else s.fireShot a c i
        else s

/-! ## Stage 6: dual-pulse check -/

/-- The METER fault (R106): the arm leaves service, the dispatcher is told, a flowing arm closes under control. -/
def State.meterFault (a : ArmId) (s : State) : State :=
  let s := s.modArm a fun m => { m with meterCause := true }
  let s := s.recheckReservation a
  if (s.arm a).stage.flowing then s.closeDemand a .stop .meter .controlled else s

/-- Mismatch of the two counts (R105). -/
def mismatch (p b : Nat) : Nat := (b - p) + (p - b)

/-- Stage 6 (R105). -/
def State.dualPulse (a : ArmId) (f : SliceFigures) (s : State) : State :=
  let m := mismatch f.pulses f.bCount
  if 1 < m then
    let count := min 4294967295 ((s.arm a).live.pulseErr + m)
    let s := s.modArm a fun x => { x with live := { x.live with pulseErr := count } }
    if s.cfg.pulseLimit ≠ 0 ∧ s.cfg.pulseLimit < count then s.meterFault a else s
  else s

/-! ## Stage 7: the stage controller's tests -/

/-- A pending preset is applied (R129). -/
def State.applyPreset (a : ArmId) (atRelease : Bool) (s : State) : State :=
  match s.ownerBatch a with
  | none => s
  | some (c, b) =>
    match b.pendPreset with
    | none => s
    | some p =>
      let s := s.modBatch c fun b => { b with preset := p, pendPreset := none }
      if (s.arm a).stage.flowing && !atRelease && decide (p * 100 ≤ (s.arm a).live.gross) then
        s.closeDemand a .normal .preset .controlled
      else s

/-- Entry to SLOWDOWN (R130). -/
def State.enterSlowdown (a : ArmId) (s : State) : State :=
  let wasFull := (s.arm a).stage == .full
  let s := s.moveStage a .slowdown
  let s := s.modArm a fun m => { m with stepUp := .none, holdOff := none, overdrawCount := 0, overdrawTimer := none }
  let s := s.abandonStepUp a
  if wasFull then s.announceFall (s.armCfg a).header else s

/-- Step 3 of R128. -/
def State.slowdownTest (a : ArmId) (s : State) : State :=
  match (s.arm a).stage, s.armRemaining a with
  | .slowdown, _ => s
  | .closed, _ => s
  | .closing, _ => s
  | _, some r => if r ≤ ((s.armCfg a).slowVol : Int) * 100 then s.enterSlowdown a else s
  | _, none => s

/-- Step 4 of R128. -/
def State.closeAheadTest (a : ArmId) (s : State) : State :=
  match (s.arm a).stage, s.armRemaining a with
  | .slowdown, some r =>
    if r ≤ ((s.arm a).closeAhead : Int) then s.closeDemand a .normal .closeAhead .controlled else s
  | _, _ => s

/-- Step 5 of R128. -/
def State.startVolumeTest (a : ArmId) (s : State) : State :=
  if (s.arm a).stage = .low ∧ (s.armCfg a).startVol * 100 ≤ (s.arm a).live.gross then s.requestStepUp a else s

/-- Stage 7 (R128). -/
def State.stageTests (a : ArmId) (isPartial atRelease : Bool) (s : State) : State :=
  let flowed := (s.arm a).stage.flowing
  let s := s.applyPreset a atRelease
  if isPartial || !flowed || !(s.arm a).stage.flowing then s
  else ((s.slowdownTest a).closeAheadTest a).startVolumeTest a

/-! ## Stage 8: overdraw and yield -/

/-- The overdraw step from FULL to LOW (R96). -/
def State.overdrawStep (a : ArmId) (s : State) : State :=
  let s := s.moveStage a .low
  let s := s.modArm a fun m => { m with yieldMark := false, overdrawCount := 0, stepUp := .barred }
  s.announceFall (s.armCfg a).header

/-- The overdraw test of a full slice (R96, R97). -/
def State.overdrawTest (a : ArmId) (rate : Nat) (s : State) : State :=
  let m := s.arm a
  let exceeds := decide (110 * stageShare (s.armCfg a) m < rate)
  match m.stage with
  | .full =>
    if exceeds then
      if m.overdrawCount + 1 < 3 then s.modArm a fun m => { m with overdrawCount := m.overdrawCount + 1 }
      else s.overdrawStep a
    else s.modArm a fun m => { m with overdrawCount := 0 }
  | .low | .reduced =>
    s.modArm a fun m =>
      { m with overdrawTimer := if exceeds then (m.overdrawTimer <|> s.after Config.overdrawMs) else none }
  | _ => s

/-- Locked against yields (R93). -/
def State.yieldLocked (s : State) (a : ArmId) : Bool :=
  match s.armRemaining a with
  | some r => decide (r ≤ ((s.armCfg a).yieldLock : Int) * 100)
  | none => true

/-- The yield step from FULL to REDUCED (R94). -/
def State.yieldStep (a : ArmId) (s : State) : State :=
  let s := s.moveStage a .reduced
  let s := s.modArm a fun m => { m with overdrawCount := 0, holdOff := s.after Config.holdOffMs }
  s.announceFall (s.armCfg a).header

/-- A yield mark is decided (R94). -/
def State.decideYield (a : ArmId) (s : State) : State :=
  if (s.arm a).yieldMark then
    let steps := (s.arm a).stage == .full && !s.yieldLocked a
    let s := s.modArm a fun m => { m with yieldMark := false }
    if steps then s.yieldStep a else s
  else s

/-! ## Stage 9 and the whole slice -/

/-- A conversion is started on an IDLE converter (R107). One whose 20 ms are over has ended: the converter is IDLE again, as
the last sentence of R108 has it for a slice taken before a conversion that ends at the same moment, and the result is still
owed (logs 29, 47). A start that finds the converter CONVERTING is dropped. -/
def Arm.startConversion (now : Nat) (m : Arm) : Arm :=
  let ended := due now m.converter
  { m with
    converter := if ended ∨ m.converter = none then some (now + Config.conversionMs) else m.converter
    resultsOwed := if ended then m.resultsOwed + 1 else m.resultsOwed }

/-- The start of R107 on an arm's converter, as it leaves CLOSED and at stage 9 of every slice. -/
def State.startConversion (a : ArmId) (s : State) : State := s.modArm a (Arm.startConversion s.now)

/-- Stage 9 (R101, R102). -/
def State.reload (a : ArmId) (isPartial : Bool) (s : State) : State :=
  s.modArm a fun m =>
    { m with
      sliceCounter := (s.armCfg a).slice
      bCount := 0
      lastA := none
      sliceTimer := if isPartial then none else some s.now }

/-- Stage 4: a full slice's rate becomes the last slice rate (R103). -/
def State.noteRate (a : ArmId) (rate : Nat) (s : State) : State := s.modArm a fun m => { m with lastRate := rate }

/-- A full slice (R101). -/
def State.fullSlice (a : ArmId) (s : State) : State :=
  let f := s.sliceFigures a false
  let s := (s.addSlice a f).noteRate a f.rate
  let s := (s.dose a f.dG false).dualPulse a f
  let s := s.stageTests a false false
  let s := (s.overdrawTest a f.rate).decideYield a
  (s.reload a false).startConversion a

/-- The partial slice of a close completion (R102). -/
def State.closeSlice (a : ArmId) (s : State) : State :=
  let f := s.sliceFigures a true
  let s := ((s.addSlice a f).dose a f.dG false).dualPulse a f
  let s := (s.stageTests a true false).decideYield a
  (s.reload a true).startConversion a

/-- The partial slice at the release of the RESTART line (R102, R112, R139); the converter stays IDLE (R112,
log 41). -/
def State.releaseSlice (a : ArmId) (s : State) : State :=
  let f := s.sliceFigures a true
  let s := ((s.addSlice a f).dose a f.dG true).dualPulse a f
  (s.stageTests a true true).reload a true

end Sys2Proof.Machine
end

