-- ==== Sys2Proof/Machine/Commit.lean ====
section
/-! DEFINITION. The settle window's walk (R84), the commit (R85, R67, R70, R99) and the withdrawal with its YIELD
(R86, R92). -/

namespace Sys2Proof.Machine

/-! ## The walk (R84) -/

/-- A pending claim's increase: claimed total less the peer's steady share, floored at 0 (R24, R84). -/
def peerIncrease (p : Peer) (h : HeaderId) (c : PendingClaim) : Nat := c.total - p.shares[h]

/-- Increase of a peer's claim of a class on a header, if one is pending. -/
def State.pendingOf (s : State) (h : HeaderId) (cls : PriorityClass) (p : StationId) : Option Nat :=
  match (s.peer p).claims[h] with
  | some c => if c.cls = cls ∧ p ≠ s.cfg.station then some (peerIncrease (s.peer p) h c) else none
  | none => none

/-- Peers' claims that the walk takes before the own claim, in its order: higher classes by class and station, then the
own class by station up to the own number (R84). -/
def State.claimsAhead (s : State) (h : HeaderId) : List Nat :=
  let own := s.sessionClass
  let higher := [3, 2, 1, 0].filter fun c : PriorityClass => decide (own < c)
  (higher.flatMap fun c => allStations.filterMap (s.pendingOf h c)) ++
    (allStations.filter (fun p => decide (p < s.cfg.station))).filterMap (s.pendingOf h own)

/-- One claim of the walk: it fits and is subtracted, or is passed over (R84). -/
def walkClaim (budget : Int) (increase : Nat) : Int :=
  if (increase : Int) ≤ budget then budget - increase else budget

/-- The budget of a header (R84), signed. -/
def State.budget (s : State) (h : HeaderId) : Int :=
  ((s.headerCfg h).capacity : Int) - ((s.header h).ownShare + s.peerTotal h : Nat)

/-- The budget remaining when the walk reaches the own claim. -/
def State.walked (s : State) (h : HeaderId) : Int := (s.claimsAhead h).foldl walkClaim (s.budget h)

/-! ## The arm context's hand-over (R70) -/

/-- An owner's live accumulators are copied into its record, its saved flag set, the arm's owner cleared. -/
def State.saveOwner (a : ArmId) (s : State) : State :=
  match (s.arm a).owner with
  | none => s
  | some c =>
    (s.modBatch c fun b => { b with saved := true, savedAcc := (s.arm a).live }).modArm a fun m => { m with owner := none }

/-- Hand-over of arm `a`'s context to batch `c` (R70). -/
def State.handContext (a : ArmId) (c : CompId) (b : Batch) (s : State) : State :=
  if (s.arm a).owner = some c ∧ b.saved = false then s
  else
    let s := if (s.arm a).owner = some c then s else s.saveOwner a
    let s :=
      if b.saved then s.modArm a fun m => { m with live := b.savedAcc }
      else
        match s.ownerArm c with
        | some a2 =>
          let s := s.saveOwner a2
          s.modArm a fun m => { m with live := (s.arm a2).live }
        | none => if b.started then s else s.modArm a fun m => { m with live := Accum.zero }
    (s.modArm a fun m => { m with owner := some c }).modBatch c fun b => { b with saved := false }

/-! ## Commit -/

/-- What an arm's meter channel does as the arm leaves CLOSED (R99, R100, R103, R107, R109, R110). -/
def State.openChannel (a : ArmId) (s : State) : State :=
  let s := s.modArm a fun m =>
    { m with
      counting := true
      sliceCounter := (s.armCfg a).slice
      bCount := 0
      sliceTimer := some s.now
      lastA := none
      noFlow := s.after Config.noFlowMs
      flowCounter := some s.now
      lastRate := 0 }
  s.startConversion a

/-- The dispatcher's part of a low commit (R67) and the injector channel's (R151). -/
def State.activate (a : ArmId) (s : State) : State :=
  match (s.arm a).reserved with
  | none => s
  | some c =>
    let s := { s with startQueue := s.startQueue.filter (· != c) }
    let s := s.modArm a fun m => { m with reserved := none }
    match s.batch c with
    | none => s
    | some b =>
      let s := s.handContext a c b
      let s := s.modBatch c fun b => { b with state := .active, started := true, lastArm := some a }
      match s.gradeInjector a b.grade with
      | some i => if s.isFault i && s.monitor.bypass then s.flagLine c LineFlags.setBypassed else s
      | none => s

/-- The own claim fits: the commit of R85, for a LOW CLAIM with the arm's opening, for a STEP-UP with the arm's
overdraw timer and count cleared as it leaves LOW or REDUCED (R97). -/
def State.commit (h : HeaderId) (c : Claim) (s : State) : State :=
  let s :=
    match c.kind with
    | .low => ((((s.moveStage c.arm .low).openChannel c.arm).activate c.arm).stopIdle).startDeadman
    | .stepUp =>
      (s.moveStage c.arm .full).modArm c.arm fun m =>
        { m with stepUp := .none, overdrawCount := 0, overdrawTimer := none, holdOff := none }
  let s := s.composeState
  (s.modHeader h fun x => { x with slot := none }).passOn h

/-! ## Withdrawal after a walk -/

/-- The YIELD payload: header, units wanted less one, class (R187, R188). -/
def yieldPayload (h : HeaderId) (units : Nat) (cls : PriorityClass) : List Byte :=
  beBytes 1 h.val ++ beBytes 1 (units - 1) ++ beBytes 1 cls.val

/-- YIELD after a failed walk (R92): from a session of class above 0, while the header's yield timer is stopped. -/
def State.sendYield (h : HeaderId) (shortfall : Nat) (s : State) : State :=
  if 0 < s.sessionClass.val ∧ (s.header h).yieldTimer = none then
    let r := s.handTail (.yield h) (yieldPayload h (min shortfall 250) s.sessionClass)
    r.1.modHeader h fun x => { x with yieldTimer := s.after Config.yieldMs }
  else s

/-- The withdrawal of R86 with every step. -/
def State.withdrawFully (h : HeaderId) (c : Claim) (shortfall : Option Nat) (s : State) : State :=
  let s := s.withdrawClaim h c.arm c.kind true
  let s := match shortfall with
    | some n => s.sendYield h n
    | none => s
  let s := s.passOn h
  match c.kind with
  | .low => s.scan
  | .stepUp => s

/-- The evaluation at the end of the settle window (R84); a claim whose increase is 0 fits whatever is left. -/
def State.evaluate (h : HeaderId) (c : Claim) (s : State) : State :=
  let left := s.walked h
  if (c.increase : Int) ≤ max 0 left then s.commit h c
  else s.withdrawFully h c (some ((c.increase : Int) - left).toNat)

end Sys2Proof.Machine
end

