-- ==== Sys2Proof/Machine/Retention.lean ====
section
/-! DEFINITION. The retention memory's regions (R182, R195) and the write queue (R183, R184). -/

namespace Sys2Proof.Machine

/-! ## Addresses (R195) -/

def imageLength : Nat := 274
def totalsLength : Nat := 54
def slotLength : Nat := 383
def copyA : Nat := 274
def copyB : Nat := 328
def slotAddr (n : Nat) : Nat := 382 + slotLength * n

/-- Of two counts modulo 2^32, `x` is higher than `y` (R195). -/
def higherCount (x y : Nat) : Bool :=
  let d := (x + 4294967296 - y % 4294967296) % 4294967296
  decide (1 ≤ d ∧ d ≤ 2147483647)

/-! ## Totalizer copies -/

/-- A copy's 54 bytes: write count, the totalizers, check value. -/
def totalsRecord (count : Nat) (t : Totals) : List Byte :=
  withCheck (beBytes 4 count ++
    allArms.flatMap fun a => beBytes 6 t.gross[a].toNat ++ beBytes 6 t.std[a].toNat)

/-- A copy as read: its count and totalizers when its check value agrees. -/
def readTotals (mem : List Host.Cell) (addr : Nat) : Option (Nat × Totals) :=
  let bs := readBytes mem addr totalsLength
  if checkAgrees bs then
    some (fieldAt bs 0 4,
      ⟨vec4 fun a => BitVec.ofNat 48 (fieldAt bs (4 + 12 * a.val) 6),
       vec4 fun a => BitVec.ofNat 48 (fieldAt bs (10 + 12 * a.val) 6)⟩)
  else none

/-- The newer valid copy: whether it is copy B, its count and totalizers (R182, R195; log 21). -/
def newerTotals (mem : List Host.Cell) : Option (Bool × Nat × Totals) :=
  match readTotals mem copyA, readTotals mem copyB with
  | none, none => none
  | some a, none => some (false, a)
  | none, some b => some (true, b)
  | some a, some b => if higherCount b.1 a.1 then some (true, b) else some (false, a)

/-- A totalizer block write: to the copy that does not hold the newer valid block, its count one above (R182). -/
def writeTotals (mem : List Host.Cell) (t : Totals) : List Host.Cell :=
  match newerTotals mem with
  | none => writeBytes mem copyA (totalsRecord 1 t)
  | some (isB, count, _) =>
    writeBytes mem (if isB then copyA else copyB) (totalsRecord ((count + 1) % 4294967296) t)

/-! ## Note slots -/

/-- A valid slot's fields. -/
structure Slot where
  state  : Nat
  count  : Nat
  number : Nat
  next   : Nat
  record : List Byte
  deriving DecidableEq, Repr

/-- A slot's 383 bytes (R195). -/
def slotRecord (x : Slot) : List Byte :=
  withCheck (beBytes 1 x.state ++ beBytes 4 x.count ++ beBytes 3 x.number ++ beBytes 3 x.next ++
    x.record ++ List.replicate (370 - x.record.length) 0)

/-- Slot `n` as read: none when its check value fails. -/
def readSlot (mem : List Host.Cell) (n : Nat) : Option Slot :=
  let bs := readBytes mem (slotAddr n) slotLength
  if checkAgrees bs then
    some ⟨fieldAt bs 0 1, fieldAt bs 1 4, fieldAt bs 5 3, fieldAt bs 8 3, (bs.drop 11).take 370⟩
  else none

def slotNumbers : List Nat := [0, 1, 2, 3, 4, 5, 6, 7, 8, 9, 10, 11, 12, 13, 14, 15]

/-- A slot is free for a note write: BLANK or failing its check (R182; log 21). -/
def slotFree (mem : List Host.Cell) (n : Nat) : Bool :=
  match readSlot mem n with
  | none => true
  | some x => x.state != 1 && x.state != 2

/-- The TAKEN slot with the lowest issue count (R182): a later slot is taken for an earlier one whose count is higher, so of
counts that R195 leaves unordered the lower-numbered slot stays (log 62). -/
def lowestTaken (mem : List Host.Cell) : Option Nat :=
  (slotNumbers.foldl (fun best n =>
    match readSlot mem n with
    | some x =>
      if x.state = 2 then
        match best with
        | some (_, c) => if higherCount c x.count then some (n, x.count) else best
        | none => some (n, x.count)
      else best
    | none => best) (none : Option (Nat × Nat))).map (·.1)

/-- The slot a note write goes to (R182): a free one if there is one, else the TAKEN one with the lowest count. -/
def noteSlot (mem : List Host.Cell) : Option Nat := (slotNumbers.find? (slotFree mem)) <|> lowestTaken mem

/-- The ISSUED slot with a note number (R182), the lowest-numbered where several hold it (log 62). -/
def issuedSlot (mem : List Host.Cell) (number : Nat) : Option (Nat × Slot) :=
  slotNumbers.findSome? fun n =>
    (readSlot mem n).bind fun x => if x.state = 1 ∧ x.number = number then some (n, x) else none

/-- The memory after a write has been performed without fault; none when a note write finds no slot (R182, R184). -/
def performWrite (mem : List Host.Cell) (issueCount : Nat) : Write → Option (List Host.Cell)
  | .totals t => some (writeTotals mem t)
  | .note number record next =>
    (noteSlot mem).map fun n => writeBytes mem (slotAddr n) (slotRecord ⟨1, issueCount, number, next, record⟩)
  | .removal number =>
    match issuedSlot mem number with
    | some (n, x) => some (writeBytes mem (slotAddr n) (slotRecord { x with state := 2 }))
    | none => some mem

/-! ## The write queue (R183) -/

def Retention.hasRoom (r : Retention) : Bool := decide (r.queue.length < Config.writeCapacity)

/-- A removal that finds no ISSUED slot with its number: at the front it completes at once, without writing (R182; log 53). -/
def Write.needless (mem : List Host.Cell) : Write → Bool
  | .totals _ => false
  | .note _ _ _ => false
  | .removal number => (issuedSlot mem number).isNone

/-- A write enters at the tail; a write become the front is in progress, its 100 ms started (R184), and one with nothing
to write is complete there (R182). -/
def State.queueWrite (w : Write) (s : State) : State :=
  if s.retention.queue.isEmpty && w.needless s.retention.mem then s
  else
    s.modRetention fun r =>
      { r with
        queue := r.queue ++ [w]
        writeTimer := if r.queue.isEmpty then s.after Config.writeMs else r.writeTimer }

/-- The totalizer block of this moment (R123). -/
def State.totalsNow (s : State) : Totals := ⟨vec4 fun a => (s.arm a).grossTotal, vec4 fun a => (s.arm a).stdTotal⟩

/-- The totalizer block is handed to the write queue, or held when it is full (R123, R183). -/
def State.handTotals (s : State) : State :=
  if s.retention.hasRoom then s.queueWrite (.totals s.totalsNow)
  else s.modRetention fun r => { r with held := some s.totalsNow }

/-- The front write ends (R183, R184): performed when its read-back agrees, else RETENTION_FAULT is set and the memory
stays as it was (log 19); the next write that has something to write becomes the front (R182). -/
def State.endWrite (agrees : Bool) (s : State) : State :=
  match s.retention.queue with
  | [] => s
  | w :: waiting =>
    let done := performWrite s.retention.mem s.retention.issueCount w
    let good := (agrees || w.needless s.retention.mem) && done.isSome
    let counts := match w with
      | .note _ _ _ => done.isSome
      | _ => false
    let mem := if good then done.getD s.retention.mem else s.retention.mem
    let rest := waiting.dropWhile (Write.needless mem)
    s.modRetention fun r =>
      { r with
        mem := mem
        queue := rest
        writeTimer := if rest.isEmpty then none else s.after Config.writeMs
        issueCount := if counts then (r.issueCount + 1) % 4294967296 else r.issueCount
        fault := r.fault || !good }

/-- The freed place is offered first to the held totalizer block (R183). -/
def State.offerHeld (s : State) : State :=
  match s.retention.held with
  | some t =>
    if s.retention.hasRoom then (s.queueWrite (.totals t)).modRetention fun r => { r with held := none } else s
  | none => s

/-- Removal writes of the outbox enter while there is room (R177). -/
def State.drainOutbox : Nat → State → State
  | 0, s => s
  | n + 1, s =>
    match s.notes.outbox with
    | [] => s
    | number :: rest =>
      if s.retention.hasRoom then
        State.drainOutbox n ((s.queueWrite (.removal number)).modNotes fun x => { x with outbox := rest })
      else s

end Sys2Proof.Machine
end

