-- ==== Sys2Proof/Machine/Notes.lean ====
section
/-! DEFINITION. Notes: numbering (R170), assembly (R171, R121, R152), issue (R172), sending (R173) and removal (R175). -/

namespace Sys2Proof.Machine

/-! ## Numbering -/

/-- The number after `n`, from 999,999 to 1. -/
def followingNumber (n : Nat) : Nat := if 999999 ≤ n then 1 else n + 1

/-- Goes on advancing, at most `fuel` times, while a stored note holds the number (R170). -/
def skipHeld (store : List StoredNote) : Nat → Nat → Nat
  | 0, n => n
  | fuel + 1, n => if store.any (·.number == n) then skipHeld store fuel (followingNumber n) else n

/-- The next note number after an issue that took `n` (R170). -/
def advanceNumber (store : List StoredNote) (n : Nat) : Nat :=
  skipHeld store (store.length + 1) (followingNumber n)

/-! ## Assembly -/

/-- The average temperature of R121, when gross is above 0. -/
def averageTemp (f : Accum) : Option Int := if 0 < f.gross then some (roundDiv f.weighted f.gross) else none

/-- Measured µL (R152), by the feedback K of the last arm's injector for the grade's code. -/
def State.measured (s : State) (b : Batch) (f : Accum) : Nat :=
  match b.lastArm.bind (fun a => s.gradeInjector a b.grade) with
  | some i => f.feedback * 1000 / (s.injectorCfg i).feedbackK
  | none => 0

/-- The additive block of a line (R152, R190). -/
def State.additiveBlock (s : State) (b : Batch) (f : Accum) : List Byte :=
  match s.gradeCode b.grade with
  | some code => beBytes 1 code.val ++ field 5 f.commanded ++ field 5 (s.measured b f) ++ field 5 (f.owed / 100)
  | none => []

/-- A note line (R171, R190): fixed part, presence mask, optional parts. -/
def State.noteLine (s : State) (c : CompId) (b : Batch) : List Byte :=
  let f := s.figures c b
  let mask := (averageTemp f).isSome.toNat + 2 * (s.gradeCode b.grade).isSome.toNat
  beBytes 1 (c.val + 1) ++ beBytes 1 b.grade.val ++ optField 1 (b.lastArm.map (·.val)) ++ field 3 b.preset ++
    field 6 f.gross ++ field 6 f.std ++ field 4 f.flow ++ field 1 b.suspCount ++ beBytes 1 b.flags.value ++
    beBytes 1 mask ++
    (match averageTemp f with
      | some t => signedField 2 t
      | none => []) ++
    s.additiveBlock b f

/-- The batches left in the table, in compartment order. -/
def State.records (s : State) : List (CompId × Batch) := allComps.filterMap fun c => (s.batch c).map fun b => (c, b)

/-- The note record of this moment under a number (R171, R190). -/
def State.noteRecord (s : State) (number : Nat) : List Byte :=
  let permit := s.session.permit
  let start := s.session.start.getD (0, 0)
  beBytes 3 number ++ beBytes 1 s.cfg.station.val ++ beBytes 4 ((permit.map (·.id)).getD 0) ++
    beBytes 2 ((permit.map (·.carrier)).getD 0) ++ beBytes 4 ((s.session.tag.map (·.id)).getD 0) ++
    beBytes 2 start.1 ++ beBytes 3 start.2 ++ beBytes 2 s.clock.day ++ beBytes 3 s.clock.second ++
    reasonByte s.session.endReason ++ beBytes 1 (s.records.length - 1) ++
    s.records.flatMap fun cb => s.noteLine cb.1 cb.2

/-! ## Sending -/

/-- A send marker is cleared by the report of its own frame (R173). -/
def State.clearMarker (number id : Nat) (s : State) : State :=
  s.modNotes fun x =>
    { x with
      store := x.store.map fun n => if n.number = number ∧ n.marker = some id then { n with marker := none } else n }

/-- A NOTE frame is handed over and the note's marker set; a full queue or CLASH clears it again at once (R173, R11). -/
def State.sendNote (number : Nat) (record : List Byte) (s : State) : State :=
  let id := s.link.nextId
  let s := s.modNotes fun x =>
    { x with store := x.store.map fun n => if n.number = number then { n with marker := some id } else n }
  let r := s.handTail (.note number) record
  match r.2 with
  | .full => r.1.clearMarker number id
  | .clash => r.1.clearMarker number id
  | _ => r.1

/-- The issue of R172, the write queue having room: number and end time taken, the note stored, its write queued, its
NOTE handed over. -/
def State.issueNote (s : State) : State :=
  let number := s.notes.nextNumber
  let next := advanceNumber s.notes.store number
  let record := s.noteRecord number
  let s := s.modNotes fun x =>
    { x with store := x.store ++ [⟨number, record, none⟩], nextNumber := next, issueWaiting := false }
  (s.queueWrite (.note number record next)).sendNote number record

/-- An issue finds room: no removal waits in the outbox and the write queue has a place (R172, R177). -/
def State.issueFits (s : State) : Bool := s.notes.outbox.isEmpty && s.retention.hasRoom

end Sys2Proof.Machine
end

