-- ==== Sys2Proof/Machine/Session.lean ====
section
/-! DEFINITION. Ends of permit checks (R40), the effects of discarded frames (R11), entry to ENDING (R51) and its
completion (R52, R73, R74, R172), the day housekeeping (R45), CLASH (R16, R53). -/

namespace Sys2Proof.Machine

/-! ## Permit check -/

/-- A check ends with an outcome and the session returns to NONE (R40). -/
def State.checkFail (outcome : Reason) (s : State) : State :=
  if s.session.state = .checking then
    s.modSession fun x =>
      { x with state := .none, permit := none, tag := none, window := none, outcome := some outcome }
  else s

/-! ## Discard effects (R11) -/

/-- A claim whose CLAIM a report concerns: the one in its header's slot, still QUEUED, with that frame (R83, R88). -/
def State.claimOfFrame (s : State) (h : HeaderId) (id : Nat) : Option Claim :=
  match (s.header h).slot with
  | some c => if c.frameId = id ∧ c.phase = .queued then some c else none
  | none => none

/-- The effect of a discard for 16 attempts, a full queue or a STOP's displacement (R11). -/
def State.discarded (f : TxFrame) (s : State) : State :=
  match f.tag with
  | .state => s
  | .yield _ => s
  | .stop => s
  | .claim h =>
    match s.claimOfFrame h f.id with
    | some c => s.withdrawFully h c none
    | none => s
  | .permitClaim => if s.session.checkFrame = f.id then s.checkFail .linkBusy else s
  | .note number => s.clearMarker number f.id

/-- The effect of a purge in CLASH on the frame's owner (R11): the check ends CLASH, a note's marker is cleared; a CLAIM's
claim is abandoned by R87's own row. -/
def State.purged (s : State) (f : TxFrame) : State :=
  match f.tag with
  | .permitClaim => if s.session.checkFrame = f.id then s.checkFail .clash else s
  | .note number => s.clearMarker number f.id
  | _ => s

/-! ## Completion of ENDING (R52) -/

/-- A batch at step 1 of the completion (R73): none when it is dropped. -/
def settledBatch (b : Batch) : Option Batch :=
  match b.state with
  | .planned => none
  | .waiting => if b.started then some { b with state := .ended } else none
  | .suspended => some { b with state := .ended }
  | .active => some b
  | .done => some b
  | .ended => some b

/-- One compartment of step 1. -/
def State.settleComp (s : State) (c : CompId) : State := s.setBatch c ((s.batch c).bind settledBatch)

/-- Step 1 (R73): batches settled, the start queue emptied, retry wait flags clear; an emptied queue may rest the deadman
(R162). -/
def State.settleBatches (s : State) : State :=
  let queued := !s.startQueue.isEmpty
  let s := allComps.foldl State.settleComp s
  let s := { s with startQueue := [] }
  let s := allHeaders.foldl (fun s h => s.modHeader h fun x => { x with retryWait := false }) s
  if queued then s.settleDeadman false else s

/-- Some batch of the session has started. -/
def State.anyStarted (s : State) : Bool := s.records.any fun cb => cb.2.started

/-- Steps 3 to 5 (R52, R74, R154). -/
def State.closeSession (s : State) : State :=
  let s := s.modSession fun x => { x with latches := Vector.replicate 4 false }
  let s := s.eachInjector fun i s => s.modInjector i fun x => { x with badRun := 0 }
  let s := s.eachArm fun a s => s.modArm a fun m => { m with meterCause := false }
  let s := s.modSession fun x => { x with state := .none, permit := none, tag := none }
  let s := { s with batches := Vector.replicate 8 none }
  let s := s.eachArm fun a s => s.modArm a fun m => { m with owner := none }
  s.composeState

/-- A waiting issue is offered (R172): taken with steps 3 to 5 when there is room. -/
def State.offerIssue (s : State) : State :=
  if s.issueFits then s.issueNote.closeSession
  else s.modNotes fun x => { x with issueWaiting := true }

/-- The completion of ENDING, when every arm is CLOSED (R52). -/
def State.completeEnding (s : State) : State :=
  if s.session.state = .ending ∧ s.allClosed = true then
    let s := s.settleBatches
    if s.anyStarted then s.offerIssue else s.closeSession
  else s

/-! ## Entry to ENDING (R51) -/

/-- An ADMITTED session goes ENDING: timers stop, low claims are abandoned and reservations released, every flowing arm
closes under control, and with every arm CLOSED the completion follows at once. -/
def State.enterEnding (reason : Reason) (s : State) : State :=
  if s.session.state = .admitted then
    let s := s.modSession fun x =>
      { x with state := .ending, endReason := some reason, idle := none, socketTimer := none }
    let s := allHeaders.foldl State.abandonLow s
    let s := s.eachArm fun a s => s.modArm a fun m => { m with reserved := none }
    let s := s.eachArm fun a s => s.closeDemand a .stop .sessionEnd .controlled
    s.completeEnding
  else s

/-! ## Day housekeeping (R45) -/

/-- A reported day change: passed revocations are pruned, a session past its expiry day ends or its check fails. -/
def State.dayChange (s : State) : State :=
  let s := { s with revoked := s.revoked.filter fun r => decide (s.clock.day ≤ r.endDay) }
  match s.session.permit with
  | some p => if p.expiry < s.clock.day then (s.checkFail .expired).enterEnding .expired else s
  | none => s

/-! ## CLASH (R15, R16, R53, R87) -/

/-- Entry to CLASH: queue purged of all but STOPs, claims abandoned without a STATE, flowing arms closed with reason
CLASH, a check failed or an ADMITTED session ended CLASH (log 16). -/
def State.enterClash (s : State) : State :=
  if s.station = .clash then s
  else
    let gone := s.link.queue.filter fun f => !f.isStop
    let s := { s with station := .clash, link := s.link.purge }
    let s := gone.foldl State.purged s
    let s := allHeaders.foldl (fun s h => s.dropClaim h false) s
    let s := s.eachArm fun a s => s.closeDemand a .stop .clash .controlled
    (s.checkFail .clash).enterEnding .clash

/-! ## Write ends (R183) -/

/-- After a write end the freed place is offered to the held block, then the outbox, then a waiting issue, which is not
offered while the RESTART line is asserted (R172, R177, R183). -/
def State.offerPlace (s : State) : State :=
  let s := s.offerHeld
  let s := State.drainOutbox Config.writeCapacity s
  if s.notes.issueWaiting && !s.restart && s.issueFits then s.issueNote.closeSession else s

/-! ## Local stop in force and the stop set (R26, R27, R161) -/

/-- The stop set against the monitor's record: terminal stop raised withdraws TERMINAL_STOP, terminal stop ended restores
it (R27, R161). -/
def State.followStopSet (s : State) : State :=
  let raised := s.stopSetNonempty
  if raised = s.monitor.terminal then s
  else
    let t := s.modMonitor fun m => { m with terminal := raised }
    if raised then t.withdraw .terminalStop else t.restoreIf s.monitor.withdrawn

/-- A STOP is handed to the link controller (R159, R16); a displaced frame's owner is told (R10). -/
def State.handStop (s : State) : State :=
  if s.linkOpen then
    let r := s.link.pushStop (s.frameNow .stop [])
    let s := { s with link := r.1.numbered }
    match r.2 with
    | some f => s.discarded f
    | none => s
  else s

/-- Own number enters or leaves the stop set, a STATE carries the change, and the stop set is followed (R26, R160). -/
def State.setOwnStop (inForce : Bool) (s : State) : State :=
  if s.ownStop = inForce then s
  else { s with ownStop := inForce }.composeState.followStopSet

end Sys2Proof.Machine
end

