-- ==== Sys2Proof/Machine/Completion.lean ====
section
/-! DEFINITION. The completion of a close (R136, R137) and the batch's outcome (R72). -/

namespace Sys2Proof.Machine

/-- The learned close-ahead value: the old value plus half the overrun, truncated toward zero, clamped to 0 to 2,000
(R137). -/
def learned (old : Nat) (overrun : Int) : Nat := (max 0 (min 2000 ((old : Int) + overrun.tdiv 2))).toNat

/-- The SHORT test and the learning of a NORMAL close (R137). -/
def State.learn (a : ArmId) (cause : Reason) (leak : Bool) (s : State) : State :=
  match s.ownerBatch a with
  | none => s
  | some (c, b) =>
    let overrun := -remaining b (s.arm a).live
    let s := if overrun < -50 then s.flagLine c LineFlags.setShort else s
    if cause = .closeAhead ∧ leak = false then s.modArm a fun m => { m with closeAhead := learned m.closeAhead overrun }
    else s

/-- A close's outcome on its batch (R72). -/
def Batch.outcome (k : CloseKind) (cause : Reason) (b : Batch) : Batch :=
  match k with
  | .normal => { b with state := .done }
  | .stop => { b with state := .suspended, suspReason := some cause, suspCount := min 255 (b.suspCount + 1) }

/-- The outcome on the arm's owner. -/
def State.closeOutcome (a : ArmId) (k : CloseKind) (cause : Reason) (s : State) : State :=
  match (s.arm a).owner with
  | some c => s.modBatch c (Batch.outcome k cause)
  | none => s

/-- Step 3 of R136: counting OFF, the channel's and the close's timers stopped. -/
def Arm.quietChannel (m : Arm) : Arm :=
  { m with
    counting := false
    sliceTimer := none
    noFlow := none
    flowCounter := none
    stepDown := none
    settle := none
    closeLimit := none }

/-- The injector channels at a close completion (R145, R147): a shot still in flight is cut, open windows are judged. -/
def State.closeWindows (a : ArmId) (s : State) : State :=
  s.eachInjector fun i s => if (s.injectorCfg i).arm = a then (s.endShot true i).judgeWindow i else s

/-- The steps of R136 for a close of this kind and cause. -/
def State.completeClose (a : ArmId) (c : Close) (s : State) : State :=
  let leak := (s.arm a).leak
  let s := (s.closeSlice a).handTotals
  let s := s.modArm a Arm.quietChannel
  let s := if c.kind = .normal then s.learn a c.cause leak else s
  let s := (s.moveStage a .closed).modArm a fun m => { m with close := none, leak := false, heldShare := 0 }
  let s := s.announceFall (s.armCfg a).header
  let s := (s.closeOutcome a c.kind c.cause).scan
  let s := (s.closeWindows a).settleDeadman true
  s.completeEnding.startIdle

end Sys2Proof.Machine
end

