-- ==== Sys2Proof/Machine/ArmEvents.lean ====
section
/-! DEFINITION. The field events of an arm: pulses, converter, no-flow, flow time (chapter 6) and the valve's timers and
coupled input (chapter 8), one meaning for each row of the table. -/

namespace Sys2Proof.Machine

/-- One A pulse counted (R100): the counter lowered, the pulse's time kept, the running no-flow and settle timers
restarted (R109, R134). -/
def Arm.countPulse (elapsed now : Nat) (m : Arm) : Arm :=
  { m with
    sliceCounter := m.sliceCounter - 1
    lastA := some elapsed
    noFlow := m.noFlow.map fun _ => now + Config.noFlowMs
    settle := m.settle.map fun _ => now + Config.settleMs }

/-- An enabled channel that counts (R99, R100). -/
def State.counts (s : State) (a : ArmId) : Bool := (s.armCfg a).enabled && (s.arm a).counting

/-- A_PULSE (R100): a pulse that takes the counter from 1 completes a full slice (R101). -/
def execAPulse (a : ArmId) (s : State) : Host.Outcome State Fault Refusal :=
  .next <|
    if s.counts a then
      let last := decide ((s.arm a).sliceCounter ≤ 1)
      let s := s.modArm a (Arm.countPulse (s.sliceElapsed a) s.now)
      if last then s.fullSlice a else s
    else s

/-- B_PULSE (R100): the B count, held at its top (R99). -/
def execBPulse (a : ArmId) (s : State) : Host.Outcome State Fault Refusal :=
  .next <| if s.counts a then s.modArm a fun m => { m with bCount := min 1048575 (m.bCount + 1) } else s

/-- A conversion's result tested against the probe window (R107). It is that of a conversion that had ended at a slice's
stage 9, if one is owed, and the converter goes on with the next (R108, log 47); else it ends the conversion under way. -/
def Arm.convert (result : Int) (m : Arm) : Arm :=
  let good := decide (-5000 ≤ result ∧ result ≤ 8000)
  { m with
    converter := if m.resultsOwed = 0 then none else m.converter
    resultsOwed := m.resultsOwed - 1
    lastGood := if good then some result else m.lastGood
    lastDiscarded := !good }

/-- CONVERSION_COMPLETE (R107). -/
def execConversionComplete (a : ArmId) (result : Int) (s : State) : Host.Outcome State Fault Refusal :=
  .next <| if (s.arm a).converter = none ∧ (s.arm a).resultsOwed = 0 then s else s.modArm a (Arm.convert result)

/-- NO_FLOW_EXPIRY (R109): a controlled close NO_FLOW. -/
def execNoFlowExpiry (a : ArmId) (s : State) : Host.Outcome State Fault Refusal :=
  .next <|
    if (s.arm a).noFlow = none then s
    else (s.modArm a fun m => { m with noFlow := none }).closeDemand a .stop .noFlow .controlled

/-- FLOW_TIME_SECOND (R110): one second on the owner's flow time, held at its top. -/
def execFlowTimeSecond (a : ArmId) (s : State) : Host.Outcome State Fault Refusal :=
  .next <|
    if (s.arm a).flowCounter = none then s
    else
      s.modArm a fun m =>
        { m with live := { m.live with flow := min 4294967295 (m.live.flow + 1) }, flowCounter := some s.now }

/-- STEP_DOWN_EXPIRY (R132): the low solenoid goes off and the close enters SETTLE. -/
def execStepDownExpiry (a : ArmId) (s : State) : Host.Outcome State Fault Refusal :=
  .next <| if (s.arm a).stepDown = none then s else s.enterSettle a

/-- SETTLE_TIMER_EXPIRY (R136): the close completes. -/
def execSettleTimerExpiry (a : ArmId) (s : State) : Host.Outcome State Fault Refusal :=
  .next <|
    if (s.arm a).settle = none then s
    else
      match (s.arm a).close with
      | some c => s.completeClose a c
      | none => s

/-- CLOSE_LIMIT_EXPIRY (R135): VALVE_LEAK is declared. -/
def execCloseLimitExpiry (a : ArmId) (s : State) : Host.Outcome State Fault Refusal :=
  .next <|
    if (s.arm a).closeLimit = none then s
    else
      ((s.modArm a fun m => { m with closeLimit := none, leak := true, leakCause := true }).recheckReservation
        a).flagOwner a LineFlags.setValveLeak

/-- COUPLED_INPUT_CHANGE (R131, R64, R66). While the RESTART line is asserted and in CONFIG FAULT no arm acts on it
(log 35). -/
def execCoupledInputChange (a : ArmId) (coupled : Bool) (s : State) : Host.Outcome State Fault Refusal :=
  .next <|
    if s.station = .configFault ∨ (s.arm a).coupled = coupled then s
    else
      let s := s.modArm a fun m => { m with coupled := coupled }
      if s.restart then s
      else if coupled then s.scan
      else (s.closeDemand a .stop .uncoupled .fast).recheckReservation a

end Sys2Proof.Machine
end

