-- ==== Sys2Proof/Machine/Image.lean ====
section
/-! DEFINITION. The configuration image (R191): its fields clamped to their ranges, and its structural faults (R179). -/

namespace Sys2Proof.Machine

/-- A stored value clamped to a range, and whether the clamp changed it (R1, R179). -/
def clampField (lo hi n : Nat) : Nat × Bool := (max lo (min hi n), decide (n < lo ∨ hi < n))

/-- Sixteen figures by grade. -/
def vec16 {α : Type} (f : Fin 16 → α) : Vector α 16 :=
  #v[f 0, f 1, f 2, f 3, f 4, f 5, f 6, f 7, f 8, f 9, f 10, f 11, f 12, f 13, f 14, f 15]

/-- The low three bits of a field. -/
def lowThree (n : Nat) : Fin 8 := ⟨n % 8, Nat.mod_lt _ (by decide)⟩

/-- The low two bits of a field. -/
def lowTwo (n : Nat) : Fin 4 := ⟨n % 4, Nat.mod_lt _ (by decide)⟩

/-- Bit 7 of an entry's first byte (R191). -/
def enabledBit (n : Nat) : Bool := decide (128 ≤ n % 256)

/-- A header table entry from its 6 bytes. -/
def parseHeaderCfg (e : List Byte) : HeaderCfg × Bool :=
  let cap := clampField 1 250 (fieldAt e 1 1)
  let alpha := clampField 0 30000 (fieldAt e 2 2)
  let gamma := clampField 0 10000 (fieldAt e 4 2)
  (⟨enabledBit (fieldAt e 0 1), lowThree (fieldAt e 0 1), cap.1, alpha.1, gamma.1⟩, cap.2 || alpha.2 || gamma.2)

/-- A grade's additive code: 0 to 3, none for 255 and for 4 to 254, which 255 replaces (R179). -/
def gradeCodeOf (n : Nat) : Option AdditiveCode × Bool :=
  (asFin 4 n, decide (4 ≤ n ∧ n ≤ 254))

/-- A grade table entry from its 4 bytes. -/
def parseGradeCfg (e : List Byte) : GradeCfg × Bool :=
  let code := gradeCodeOf (fieldAt e 1 1)
  let ratio := clampField 1 5000 (fieldAt e 2 2)
  (⟨enabledBit (fieldAt e 0 1), lowThree (fieldAt e 0 1), code.1, ratio.1⟩, code.2 || ratio.2)

/-- An arm table entry from its 25 bytes; S is taken as stored (R179). -/
def parseArmCfg (e : List Byte) : ArmCfg × Bool :=
  let k := clampField 1000 999999 (fieldAt e 1 3)
  let mfHigh := clampField 9500 10500 (fieldAt e 4 2)
  let mfLow := clampField 9500 10500 (fieldAt e 6 2)
  let low := clampField 1 10 (fieldAt e 12 1)
  let full := clampField 2 30 (fieldAt e 13 1)
  let start := clampField 0 99999 (fieldAt e 14 3)
  let slow := clampField 0 99999 (fieldAt e 17 3)
  let ahead := clampField 0 2000 (fieldAt e 20 2)
  let lock := clampField 0 99999 (fieldAt e 22 3)
  ({ enabled := enabledBit (fieldAt e 0 1)
     header := lowThree (fieldAt e 0 1)
     k := k.1
     mfHigh := mfHigh.1
     mfLow := mfLow.1
     lowFlow := fieldAt e 8 2
     slice := fieldAt e 10 2
     lowShare := low.1
     fullShare := full.1
     startVol := start.1
     slowVol := slow.1
     closeAhead := ahead.1
     yieldLock := lock.1 },
    k.2 || mfHigh.2 || mfLow.2 || low.2 || full.2 || start.2 || slow.2 || ahead.2 || lock.2)

/-- An injector table entry from its 12 bytes. -/
def parseInjectorCfg (e : List Byte) : InjectorCfg × Bool :=
  let code := clampField 0 3 (fieldAt e 1 1)
  let shot := clampField 100 50000 (fieldAt e 2 2)
  let width := clampField 10 500 (fieldAt e 4 2)
  let fbK := clampField 1 9999 (fieldAt e 6 2)
  let tol := clampField 1 50 (fieldAt e 8 1)
  let flush := clampField 0 99999 (fieldAt e 9 3)
  ({ enabled := enabledBit (fieldAt e 0 1)
     arm := lowTwo (fieldAt e 0 1)
     code := lowTwo code.1
     shot := shot.1
     width := width.1
     feedbackK := fbK.1
     tolerance := tol.1
     flush := flush.1 },
    code.2 || shot.2 || width.2 || fbK.2 || tol.2 || flush.2)

/-- The deadman interval: a stored 0 gives 120 s (R179; log 18). -/
def deadmanField (n : Nat) : Nat × Bool := if n = 0 then (120, false) else clampField 30 300 n

/-- The entry of `size` bytes with index `n` in the table at `off`. -/
def entry (bs : List Byte) (off size n : Nat) : List Byte := (bs.drop (off + size * n)).take size

/-- The image with every numeric field clamped, and whether some clamp changed a value (R179, R191). -/
def parseImage (bs : List Byte) : ConfigImage × Bool :=
  let station := clampField 0 31 (fieldAt bs 0 1)
  let headers := vec8 fun h => parseHeaderCfg (entry bs 1 6 h.val)
  let grades := vec16 fun g => parseGradeCfg (entry bs 49 4 g.val)
  let arms := vec4 fun a => parseArmCfg (entry bs 113 25 a.val)
  let injectors := vec4 fun i => parseInjectorCfg (entry bs 213 12 i.val)
  let deadman := deadmanField (fieldAt bs 261 2)
  let idle := clampField 60 1800 (fieldAt bs 263 2)
  let noFlow := clampField 10 10 (fieldAt bs 265 1)
  let settle := clampField 2 2 (fieldAt bs 266 1)
  let limit := clampField 30 30 (fieldAt bs 267 1)
  let pulse := clampField 0 1000 (fieldAt bs 268 2)
  let minBatch := clampField 10 1000 (fieldAt bs 270 2)
  ({ station := ⟨station.1 % 32, Nat.mod_lt _ (by decide)⟩
     headers := vec8 fun h => headers[h].1
     grades := vec16 fun g => grades[g].1
     arms := vec4 fun a => arms[a].1
     injectors := vec4 fun i => injectors[i].1
     deadman := deadman.1
     idleLimit := idle.1
     pulseLimit := pulse.1
     minBatch := minBatch.1 },
    station.2 || headers.toList.any (·.2) || grades.toList.any (·.2) || arms.toList.any (·.2) ||
      injectors.toList.any (·.2) || deadman.2 || idle.2 || noFlow.2 || settle.2 || limit.2 || pulse.2 || minBatch.2)

/-- The first structural fault of an image, in R179's order; the check value is tested as read. -/
def imageFault (bs : List Byte) (c : ConfigImage) : Option FaultKind :=
  let arms := c.arms.toList.filter (·.enabled)
  let grades := c.grades.toList.filter (·.enabled)
  let injectors := c.injectors.toList.filter (·.enabled)
  if checkAgrees bs = false then some .badCheck
  else if arms.any (fun a => !c.headers[a.header].enabled) then some .armHeader
  else if arms.any (fun a => decide (a.fullShare ≤ a.lowShare)) then some .armShares
  else if arms.any (fun a => a.slice == 0) then some .armSlice
  else if grades.any (fun g => !c.headers[g.header].enabled) then some .gradeHeader
  else if injectors.any (fun i => !c.arms[i.arm].enabled) then some .injectorArm
  else none

end Sys2Proof.Machine
end

