-- ==== Sys2Proof/Machine/ColdStart.lean ====
section
/-! DEFINITION. The cold start (R178): its five stages, and the stage 5 that waits for the RESTART line (log 37). -/

namespace Sys2Proof.Machine

/-! ## Stage 3: the note region -/

/-- The valid slots: those whose check value agrees, whatever their state (R178, R182; log 21). -/
def validSlots (mem : List Host.Cell) : List Slot := slotNumbers.filterMap (readSlot mem)

/-- A slot into a list ordered by issue count, lowest first (R195). DESIGN CHOICE (log 62): R195 orders neither equal counts nor
counts half the range apart; a slot goes in front of every slot that its own count is not higher than. -/
def insertSlot (x : Slot) : List Slot → List Slot
  | [] => [x]
  | y :: rest => if higherCount x.count y.count then y :: insertSlot x rest else x :: y :: rest

/-- Slots ordered by issue count; of counts that R195 leaves unordered the lower-numbered slot comes first, so that the
highest-numbered of equal counts is the last (log 62). -/
def sortSlots (l : List Slot) : List Slot := l.foldr insertSlot []

/-- A slot's note record, less the bytes of 0 that follow it (R195). DESIGN CHOICE (log 63): the line count of a valid slot is
taken modulo 8, and a record whose lines do not end within its 370 bytes is kept whole. -/
def trimRecord (record : List Byte) : List Byte :=
  match scanNoteLines (fieldAt record 25 1 % 8 + 1) (record.drop 26) with
  | some (_, rest) => record.take (record.length - rest.length)
  | none => record

/-- The store, the next note number and the next issue count that the note region gives (R178 stage 3, R170; the slot of the
highest count where R195 gives none, log 62). DESIGN CHOICE (log 66): a note is known by its slot's number, whatever number
its record's head holds, and of two ISSUED slots with one number each gives its note. -/
def readNotes (mem : List Host.Cell) : List StoredNote × Nat × Nat :=
  let slots := sortSlots (validSlots mem)
  let store := (slots.filter (·.state == 1)).map fun x => StoredNote.mk x.number (trimRecord x.record) none
  match slots.getLast? with
  | some x => (store, skipHeld store (store.length + 1) x.next, (x.count + 1) % 4294967296)
  | none => (store, 1, 1)

/-! ## Stage 2: the totalizers -/

/-- Every totalizer 0. -/
def Totals.zero : Totals := ⟨Vector.replicate 4 0, Vector.replicate 4 0⟩

/-! ## Stages 4 and 5 -/

/-- The part after stages 1 to 4 with an accepted image: every piece of state at its cold-start value, the inputs at
their levels, the station state STARTING already (log 45). A zero totalizer block owed to the write queue is held until
stage 5 (log 37); a failed read of the region owes none (log 56). -/
def State.accepted (cfg : ConfigImage) (clamped : Bool) (mem : List Host.Cell) (reads : ColdReads)
    (inputs : FieldInputs) (s : State) : State :=
  let found := newerTotals mem
  let totals := if reads.totals then (found.map (·.2.2)).getD Totals.zero else Totals.zero
  let notes := if reads.notes then readNotes mem else ([], 1, 1)
  { State.refusedStart s.now mem .badCheck s.pending with
    station := .starting
    faultKind := none
    cfg := cfg
    cfgClamped := clamped
    restart := inputs.restart
    stage5Waits := true
    freeDraws := s.freeDraws
    arms := vec4 fun a =>
      Arm.cold cfg.arms[a].closeAhead cfg.arms[a].slice totals.gross[a] totals.std[a] inputs.coupled[a]
    monitor :=
      { Monitor.cold with stopInput := inputs.stop, contacts := inputs.contacts, bypass := inputs.bypass }
    notes := ⟨notes.1, notes.2.1, [], false⟩
    retention :=
      { Retention.cold mem with
        held := if reads.totals && found.isNone then some Totals.zero else none
        issueCount := notes.2.2
        fault := !reads.totals || !reads.notes || found.isNone } }

/-- The listen period begins with its STATE (R28). -/
def State.beginListen (s : State) : State :=
  { s with station := .starting, listenTimer := s.after Config.listenMs }.composeState

/-- Stage 5: inputs sampled (R156, R26), a socket request sent, the clock started, the listen period begun. -/
def State.stage5 (s : State) : State :=
  let s := s.modMonitor fun m => { m with stopLatch := m.stopInput, terminal := m.stopInput }
  let s :=
    { s with
      restart := false
      stage5Waits := false
      ownStop := s.monitor.stopInput
      socketRequests := s.socketRequests + 1
      clock := { s.clock with origin := s.now } }
  s.offerHeld.beginListen

/-- The whole cold start on the memory as `preload` left it. -/
def State.coldStart (preload : List Byte) (reads : ColdReads) (inputs : FieldInputs) (s : State) : State :=
  let mem := writeBytes s.retention.mem 0 preload
  let image := readBytes mem 0 imageLength
  let parsed := parseImage image
  match (if reads.config then imageFault image parsed.1 else some .badCheck) with
  | some kind =>
    { State.refusedStart s.now mem kind s.pending with
      cfgClamped := reads.config && parsed.2
      restart := inputs.restart
      freeDraws := s.freeDraws }
  | none =>
    let s := s.accepted parsed.1 parsed.2 mem reads inputs
    if inputs.restart then s else s.stage5

/-- COLD_START (R178). -/
def execColdStart (preload : List Byte) (reads : ColdReads) (inputs : FieldInputs) (s : State) :
    Host.Outcome State Fault Refusal :=
  .next <| s.coldStart preload reads inputs

end Sys2Proof.Machine
end

