-- ==== Sys2Proof/Machine/Receive.lean ====
section
/-! DEFINITION. Reception (R12 to R15), the rack link's line events (R2, R4 to R7) and what each received kind does. -/

namespace Sys2Proof.Machine

/-- A complete frame (R12, R13): the receiver, in HUNT or FRAME, goes to SKIP with the frame in its buffer; a good frame
goes to `deliver`. Nothing is taken in SKIP, in CONFIG FAULT or while the RESTART line is asserted (R12, R19); what the
pair carries while this station is SENDING is its own frame, held aside as read-back (R7, R12). -/
def State.receive (frame : List Byte) (deliver : StationId → Frame → State → State) (s : State) : State :=
  if !s.linkOpen || s.link.rx == .skip || s.link.tx == .sending then s
  else
    let s := s.modLink fun l => { l with rx := .skip, buffer := frame }
    match parseFrame frame with
    | none => s
    | some (src, f) => if src = s.cfg.station then s.enterClash else deliver src f s

/-- The peer's heard time is refreshed and its entry FRESH (R14, R21). -/
def State.hear (p : StationId) (s : State) : State :=
  s.modPeer p fun x => { x with fresh := .fresh, heard := some s.now }

/-! ## STATE (R22) -/

/-- The entry a STATE leaves (R22): shares, permit, class, stop flag; the peer's pending claims removed. -/
def stateEntry (cls : PriorityClass) (stop isOpen : Bool) (shares : Vector Nat 8) (permit : Option Nat) (x : Peer) :
    Peer :=
  { x with
    shares := shares
    permit := if isOpen then permit else none
    cls := cls
    stop := stop
    claims := Vector.replicate 8 none }

/-- A header's retry trigger when the peer's share has fallen from `old` to `new` (R22, R90). -/
def State.shareFell (old new : Vector Nat 8) (s : State) (h : HeaderId) : State :=
  if new[h] < old[h] then s.retryTrigger h else s

/-- The permit offer of R22 (R39, R46). -/
def State.permitOffer (p : StationId) (permit : Option Nat) (s : State) : State :=
  if permit.isSome && permit == s.sessionPermit then
    match s.session.state with
    | .none => s
    | .checking => s.checkFail .inUse
    | .admitted => if p < s.cfg.station then s.enterEnding .duplicate else s
    | .ending => s
  else s

/-- A STATE delivered from a peer: the entry, the stop set, the falls by header, the permit offer (R22; log 15). -/
def State.deliverState (p : StationId) (cls : PriorityClass) (stop isOpen : Bool) (shares : Vector Nat 8)
    (permit : Option Nat) (s : State) : State :=
  let old := (s.peer p).shares
  let s := s.modPeer p (stateEntry cls stop isOpen shares permit)
  let s := s.followStopSet
  let s := allHeaders.foldl (State.shareFell old shares) s
  s.permitOffer p (if isOpen then permit else none)

/-! ## Other kinds -/

/-- A CLAIM is stored as the peer's pending claim on the header (R24). -/
def State.deliverClaim (p : StationId) (h : HeaderId) (total : Nat) (cls : PriorityClass) (s : State) : State :=
  s.modPeer p fun x => { x with claims := x.claims.set h (some ⟨total, cls, s.now⟩) }

/-- Remaining volume of an arm a YIELD may mark: FULL on the header, not locked, not marked (R93). -/
def State.yieldVolume (s : State) (h : HeaderId) (a : ArmId) : Option Int :=
  if (s.armCfg a).header = h ∧ (s.arm a).stage = .full ∧ (s.arm a).yieldMark = false ∧ s.yieldLocked a = false then
    s.armRemaining a
  else none

/-- The arm a YIELD marks: the largest remaining volume, the lower number of equals (R93). -/
def State.yieldArm (s : State) (h : HeaderId) : Option ArmId :=
  (allArms.foldl (fun best a =>
    match s.yieldVolume h a, best with
    | some r, some (_, r') => if r' < r then some (a, r) else best
    | some r, none => some (a, r)
    | none, _ => best) (none : Option (ArmId × Int))).map (·.1)

/-- A YIELD of a higher class marks one arm (R93). -/
def State.deliverYield (h : HeaderId) (cls : PriorityClass) (s : State) : State :=
  if s.sessionClass < cls then
    match s.yieldArm h with
    | some a => s.modArm a fun m => { m with yieldMark := true }
    | none => s
  else s

/-- A PERMIT-CLAIM against the session's own permit (R39, R46). -/
def State.deliverPermitClaim (p : StationId) (permit : Nat) (s : State) : State :=
  if s.sessionPermit = some permit then
    match s.session.state with
    | .none => s
    | .checking => if p < s.cfg.station then s.checkFail .inUse else s
    | .admitted => s.composeState
    | .ending => s.composeState
  else s

/-- The first entry with the earliest end day, which the full list gives up (R44). -/
def earliestDay (l : List Revocation) : Nat := l.foldl (fun d r => min d r.endDay) (l.headD ⟨0, 0⟩).endDay

/-- Removes the first entry that ends on a day. -/
def removeFirstEnding (d : Nat) : List Revocation → List Revocation
  | [] => []
  | r :: rest => if r.endDay = d then rest else r :: removeFirstEnding d rest

/-- The revocation list after a REVOKE (R43, R44). -/
def revokeList (permit endDay : Nat) (l : List Revocation) : List Revocation :=
  if l.any (·.permit == permit) then
    l.map fun r => if r.permit = permit then { r with endDay := max r.endDay endDay } else r
  else
    let added := l ++ [⟨permit, endDay⟩]
    if l.length < Config.revocationCapacity then added else removeFirstEnding (earliestDay added) added

/-- A REVOKE: the list, then the session (R43, R40, R47). -/
def State.deliverRevoke (permit endDay : Nat) (s : State) : State :=
  let s := { s with revoked := revokeList permit endDay s.revoked }
  if s.sessionPermit = some permit then (s.checkFail .revoked).enterEnding .revoked else s

/-- A TIME sets the clock; a day change is reported (R18). -/
def State.deliverTime (day second : Nat) (s : State) : State :=
  let changed := !s.clock.dateKnown || s.clock.day != day
  let s := { s with clock := ⟨day, second, true, s.now⟩ }
  if changed then s.dayChange else s

/-- A STOP places its sender in the stop set (R25). -/
def State.deliverStop (p : StationId) (s : State) : State :=
  (s.modPeer p fun x => { x with stop := true }).followStopSet

/-- A NOTE-REQUEST for this station (R174). -/
def State.deliverNoteRequest (target : StationId) (s : State) : State :=
  if target = s.cfg.station then
    match s.notes.store with
    | [] => s
    | n :: _ => if n.marker = none then s.sendNote n.number n.record else s
  else s

/-- A removal write is offered to the write queue, or joins the outbox (R175, R177). -/
def State.offerRemoval (number : Nat) (s : State) : State :=
  if s.retention.hasRoom then s.queueWrite (.removal number)
  else s.modNotes fun x => { x with outbox := x.outbox ++ [number] }

/-- A NOTE-TAKEN for this station (R175). -/
def State.deliverNoteTaken (target : StationId) (number : Nat) (s : State) : State :=
  if target = s.cfg.station && s.notes.store.any (·.number == number) then
    (s.modNotes fun x => { x with store := x.store.filter (·.number != number) }).offerRemoval number
  else s

/-! ## Line events -/

/-- A line-idle event cuts a frame short (R12): the receiver is in FRAME, or a BUSY line has brought it a first character in
HUNT that no command has told to be another than the start byte (log 8). -/
def Link.cutShort (l : Link) : Bool := l.rx == .frame || (l.rx == .hunt && !l.lineIdle)

/-- The line-idle event (R2, R4, R12): the line IDLE, the receiver hunting, the buffer emptied of a frame cut short, a READY
transmitter beginning its attempt. -/
def Link.idleEvent (l : Link) : Link :=
  { l with
    lineIdle := true
    buffer := if l.cutShort then [] else l.buffer
    rx := RxState.hunt }.startIfReady

/-- The line becomes BUSY (R2, R6): whole slots counted are kept off the wait. -/
def Link.busyEvent (slots : Nat) (l : Link) : Link :=
  if l.lineIdle then
    { l with lineIdle := false, wait := if l.tx = .backoff then max 1 (l.wait - slots) else l.wait }
  else l

/-- A collision (R5, R6): k is raised; below 16 the wait is set; at 16 a STOP starts again from 0 with the wait of 16,
and any other frame leaves the queue. The second figure is the discarded frame. -/
def Link.collide (station : StationId) (l : Link) : Link × Option TxFrame :=
  let k := l.attempts + 1
  if k < Config.attemptLimit then
    ({ l with tx := .backoff, attempts := k, wait := backoffSlots station k }, none)
  else
    match l.queue with
    | f :: _ =>
      if f.isStop then
        ({ l with tx := .backoff, attempts := 0, wait := backoffSlots station Config.attemptLimit }, none)
      else (l.popFront, some f)
    | [] => (l.popFront, none)

/-- The owner is told its frame has been sent (R7): windows start, a claim that has ended draws a STATE (R88), a note's
marker is cleared (R173). -/
def State.frameSent (f : TxFrame) (s : State) : State :=
  match f.tag with
  | .state => s
  | .yield _ => s
  | .stop => s
  | .claim h =>
    match s.claimOfFrame h f.id with
    | some c =>
      s.modHeader h fun x => { x with slot := some { c with phase := .settling (s.now + Config.settleWindowMs) } }
    | none => s.composeState
  | .permitClaim =>
    if s.session.state = .checking ∧ s.session.checkFrame = f.id then
      s.modSession fun x => { x with window := s.after Config.permitWindowMs }
    else s
  | .note number => s.clearMarker number f.id

end Sys2Proof.Machine
end

