-- ==== Sys2Proof/Machine/FrameEvents.lean ====
section
/-! DEFINITION. The ten received kinds (R14), one meaning for each. Each takes a complete frame through the checks of
R13 and the clash test of R15, refreshes the sender's entry (R21) and does what its kind does; a frame whose kind is
not its row's goes no further (log 9). -/

namespace Sys2Proof.Machine

/-- STATE_RECEIVED (R22). -/
def execStateReceived (frame : List Byte) (s : State) : Host.Outcome State Fault Refusal :=
  .next <| s.receive frame fun p f s =>
    match f with
    | .state cls stop isOpen _ shares permit => (s.hear p).deliverState p cls stop isOpen shares permit
    | _ => s

/-- CLAIM_RECEIVED (R24). -/
def execClaimReceived (frame : List Byte) (s : State) : Host.Outcome State Fault Refusal :=
  .next <| s.receive frame fun p f s =>
    match f with
    | .claim h total cls => (s.hear p).deliverClaim p h total cls
    | _ => s

/-- YIELD_RECEIVED (R93). -/
def execYieldReceived (frame : List Byte) (s : State) : Host.Outcome State Fault Refusal :=
  .next <| s.receive frame fun p f s =>
    match f with
    | .yield h _ cls => (s.hear p).deliverYield h cls
    | _ => s

/-- PERMIT_CLAIM_RECEIVED (R39, R46). -/
def execPermitClaimReceived (frame : List Byte) (s : State) : Host.Outcome State Fault Refusal :=
  .next <| s.receive frame fun p f s =>
    match f with
    | .permitClaim permit => (s.hear p).deliverPermitClaim p permit
    | _ => s

/-- REVOKE_RECEIVED (R43, R44, R47). -/
def execRevokeReceived (frame : List Byte) (s : State) : Host.Outcome State Fault Refusal :=
  .next <| s.receive frame fun p f s =>
    match f with
    | .revoke permit endDay => (s.hear p).deliverRevoke permit endDay
    | _ => s

/-- TIME_RECEIVED (R18). -/
def execTimeReceived (frame : List Byte) (s : State) : Host.Outcome State Fault Refusal :=
  .next <| s.receive frame fun p f s =>
    match f with
    | .time day second => (s.hear p).deliverTime day second
    | _ => s

/-- STOP_RECEIVED (R25). -/
def execStopReceived (frame : List Byte) (s : State) : Host.Outcome State Fault Refusal :=
  .next <| s.receive frame fun p f s =>
    match f with
    | .stop => (s.hear p).deliverStop p
    | _ => s

/-- NOTE_RECEIVED (R14): the sender's heard time only. -/
def execNoteReceived (frame : List Byte) (s : State) : Host.Outcome State Fault Refusal :=
  .next <| s.receive frame fun p f s =>
    match f with
    | .note => s.hear p
    | _ => s

/-- NOTE_REQUEST_RECEIVED (R174). -/
def execNoteRequestReceived (frame : List Byte) (s : State) : Host.Outcome State Fault Refusal :=
  .next <| s.receive frame fun p f s =>
    match f with
    | .noteRequest target => (s.hear p).deliverNoteRequest target
    | _ => s

/-- NOTE_TAKEN_RECEIVED (R175). -/
def execNoteTakenReceived (frame : List Byte) (s : State) : Host.Outcome State Fault Refusal :=
  .next <| s.receive frame fun p f s =>
    match f with
    | .noteTaken target number => (s.hear p).deliverNoteTaken target number
    | _ => s

end Sys2Proof.Machine
end

