-- ==== Sys2Proof/Machine/InjectorEvents.lean ====
section
/-! DEFINITION. The injector channels' field events: feedback pulses and the width timer (R145, R146). -/

namespace Sys2Proof.Machine

/-- A feedback pulse in an OPEN window (R146). -/
def State.countFeedback (i : InjectorId) (s : State) : State :=
  (s.modInjector i fun x =>
    { x with
      window := x.window.map fun w => { w with count := min 4294967295 (w.count + 1) }
      shotPulses := if x.firing then x.shotPulses + 1 else x.shotPulses }).modArm (s.injectorCfg i).arm
    fun m => { m with live := { m.live with feedback := m.live.feedback + 1 } }

/-- FEEDBACK_PULSE (R145, R146): counted while a window is OPEN and the RESTART line is not asserted; the expected count
ends the shot. -/
def execFeedbackPulse (i : InjectorId) (s : State) : Host.Outcome State Fault Refusal :=
  .next <|
    if s.restart = true ∨ (s.injector i).window = none then s
    else
      let s := s.countFeedback i
      if (s.injector i).firing = true ∧ expectedCount (s.injectorCfg i) ≤ (s.injector i).shotPulses then
        s.endShot false i
      else s

/-- WIDTH_TIMER_EXPIRY (R145). -/
def execWidthTimerExpiry (i : InjectorId) (s : State) : Host.Outcome State Fault Refusal :=
  .next <| if (s.injector i).width = none then s else s.endShot false i

end Sys2Proof.Machine
end

