-- ==== Sys2Proof/Machine/LinkEvents.lean ====
section
/-! DEFINITION. The rack link's events (R2, R4 to R7, R12), one meaning for each row of the table. An event that
cannot occur in the state at hand changes nothing (log 7). -/

namespace Sys2Proof.Machine

/-- LINE_IDLE (R2): nothing in CONFIG FAULT, and none while this station drives the pair; while the RESTART line is
asserted the line condition alone follows (R19). -/
def execLineIdle (s : State) : Host.Outcome State Fault Refusal :=
  .next <|
    if s.station = .configFault ∨ s.link.tx = .sending then s
    else if s.restart then s.modLink fun l => { l with lineIdle := true }
    else s.modLink Link.idleEvent

/-- LINE_BUSY (R2, R6). -/
def execLineBusy (slots : Nat) (s : State) : Host.Outcome State Fault Refusal :=
  .next <| if s.station = .configFault then s else s.modLink (Link.busyEvent slots)

/-- COLLISION (R5, R6): the attempt in SENDING ends; a frame given up has the discard effect of its kind (R11). -/
def execCollision (s : State) : Host.Outcome State Fault Refusal :=
  .next <|
    if s.link.tx = .sending then
      let r := s.link.collide s.cfg.station
      let s := { s with link := r.1 }
      match r.2 with
      | some f => s.discarded f
      | none => s
    else s

/-- BACKOFF_END (R6): the last slot has been counted on an IDLE line, and the next attempt begins. -/
def execBackoffEnd (s : State) : Host.Outcome State Fault Refusal :=
  .next <| if s.link.tx = .backoff ∧ s.link.lineIdle = true then s.modLink Link.beginAttempt else s

/-- READ_BACK_COMPLETION (R7): the frame leaves the queue and its owner is told; the receiver goes to SKIP (R12). DESIGN
CHOICE (log 58): of the received copy that R12 holds aside none is kept, and the buffer stays as the attempt left it. -/
def execReadBackCompletion (s : State) : Host.Outcome State Fault Refusal :=
  .next <|
    if s.link.tx = .sending then
      match s.link.queue with
      | f :: _ => (s.modLink fun l => { l.popFront with rx := .skip }).frameSent f
      | [] => s
    else s

/-- BROKEN_CHARACTER (R12): the frame being taken is dropped and the receiver goes to SKIP. DESIGN CHOICE (log 61): the buffer
is emptied of the dropped frame's characters, of which R12 says nothing. -/
def execBrokenCharacter (s : State) : Host.Outcome State Fault Refusal :=
  .next <|
    if s.linkOpen && s.link.rx != .skip then s.modLink fun l => { l with rx := .skip, buffer := [] } else s

/-- START_BYTE_MISMATCH (R12): a first character that is not the start byte. The receiver is in HUNT, or in the FRAME that
the part's own attempt has entered ahead of its start byte, lost to a collision within it (R5, log 8). -/
def execStartByteMismatch (s : State) : Host.Outcome State Fault Refusal :=
  .next <| if s.linkOpen && s.link.rx != .skip then s.modLink fun l => { l with rx := .skip } else s

end Sys2Proof.Machine
end

