-- ==== Sys2Proof/Machine/Operands.lean ====
section
/-! DEFINITION. The operand forms of panel requests and their encoded ranges (R192), what lies outside being answered
REFUSED FORMAT; the request that a complete frame of the panel line is, and the report that a frame of the socket line is. -/

namespace Sys2Proof.Machine

/-- A grade byte, 0 to 15. -/
def gradeOk (g : Byte) : Bool := decide (g.toNat ≤ 15)

/-- A preset, 1 to 99,999 L. -/
def presetOk (p : BitVec 24) : Bool := decide (1 ≤ p.toNat ∧ p.toNat ≤ 99999)

/-- The arm of PLAN: 0 to 3, or 255 for none. -/
def namedArmOk (a : Byte) : Bool := decide (a.toNat ≤ 3) || a == 255

/-- The arm of STATUS: 0 to 3. -/
def armOk (a : Byte) : Bool := decide (a.toNat ≤ 3)

def toGrade (g : Byte) : GradeId := ⟨g.toNat % 16, Nat.mod_lt _ (by decide)⟩

def toArm (a : Byte) : ArmId := ⟨a.toNat % 4, Nat.mod_lt _ (by decide)⟩

/-- The named arm of PLAN. -/
def toNamedArm (a : Byte) : Option ArmId := if a = 255 then none else some (toArm a)

/-- The request of a kind code with a body (R192): none where the kind is no request kind, or the body's length is not the
one the kind gives, or the second byte of a STATUS of the session kind is not 0. -/
def requestBody : Nat → List Byte → Option Instr
  | 1, card => if card.length = 12 then some (.present card) else none
  | 2, [c, grade, p2, p1, p0, arm] => some (.plan c grade (BitVec.ofNat 24 (beValue [p2, p1, p0])) arm)
  | 3, [c, p2, p1, p0] => some (.amend c (BitVec.ofNat 24 (beValue [p2, p1, p0])))
  | 4, [c] => some (.cancel c)
  | 5, [c] => some (.start c)
  | 6, [c] => some (.resume c)
  | 7, [c] => some (.hold c)
  | 8, [] => some .finish
  | 9, [kind, x] =>
    if kind = 0 then (if x = 0 then some .statusSession else none)
    else if kind = 1 then some (.statusCompartment x)
    else if kind = 2 then some (.statusArm x)
    else none
  | 10, [n2, n1, n0] => some (.noteCopy (BitVec.ofNat 24 (beValue [n2, n1, n0])))
  | 11, [] => some .clearStop
  | _, _ => none

/-- The command that a complete frame of the panel line is (R185, R192): its request, when its length, its check value,
its kind and its body's length are right; otherwise PANEL_FORMAT_ERROR. -/
def requestOf (frame : List Byte) : Instr :=
  let len := fieldAt frame 0 2
  if 1 ≤ len ∧ frame.length = len + 4 ∧ checkAgrees frame then
    (requestBody (fieldAt frame 2 1) ((frame.drop 3).take (len - 1))).getD .panelFormatError
  else .panelFormatError

/-- The report that a frame of the socket line is, told by its kind byte (R194): 1 a tag report, whose check value is the tag's
own, 2 an unplug report, 3 a socket state report. None for a frame that is ignored: one of an unknown kind, one cut short
(log 67), and the part's own kind 4, which the monitor does not send. A tag cut short is unreadable (R35). -/
def socketReportOf : List Byte → Option Instr
  | [] => none
  | kind :: rest =>
    if kind = 1 then some (.tagReport rest)
    else if kind = 2 ∧ rest.length = 2 then some (.unplugReport (BitVec.ofNat 16 (fieldAt rest 0 2)))
    else if kind = 3 ∧ rest.length = 11 then
      some (.socketStateReport (rest.take 9) (BitVec.ofNat 16 (fieldAt rest 9 2)))
    else none

/-- A compartment byte as a compartment of the session's tag, 1 to its count (R57 test b). -/
def State.compartment (s : State) (c : Byte) : Option CompId :=
  match s.session.tag with
  | some t =>
    if h : 1 ≤ c.toNat ∧ c.toNat ≤ t.fills.length ∧ c.toNat ≤ 8 then some ⟨c.toNat - 1, by omega⟩ else none
  | none => none

/-- The safe fill of a compartment in the session's tanker tag. -/
def State.safeFill (s : State) (c : CompId) : Nat :=
  match s.session.tag with
  | some t => t.fills.getD c.val 0
  | none => 0

/-- A preset clamped to the compartment's safe fill (R58). -/
def State.clampPreset (s : State) (c : CompId) (preset : Nat) : Nat := min preset (s.safeFill c)

/-- Tests a to c of R57 on a request that names a compartment: its record, or the reason of refusal. -/
def State.namedBatch (s : State) (c : Byte) : Except Reason (CompId × Batch) :=
  if s.session.state ≠ .admitted then .error .noSession
  else
    match s.compartment c with
    | none => .error .badCompartment
    | some i =>
      match s.batch i with
      | none => .error .noBatch
      | some b => .ok (i, b)

end Sys2Proof.Machine
end

