-- ==== Sys2Proof/Machine/Panel.lean ====
section
/-! DEFINITION. How the panel port takes a request and answers it (R185, R186, R180, R181), and the shared moves of the
batch requests (R57 to R63). -/

namespace Sys2Proof.Machine

/-- An answer: the port is ANSWERING until its last character (R185). -/
def State.answer (a : Answer) (s : State) : State :=
  { s with panel := { s.panel with port := .answering, answer := some a } }

/-- Where the port stands by the end of a frame (R185): an ANSWERING port stays ANSWERING, one that still discards the frame
stays IDLE, and any other has been put in RECEIVING by the frame's first character. -/
def Panel.atFrameEnd (p : Panel) : PortState :=
  if p.port = .answering then .answering else if p.discarding then .idle else .receiving

/-- The end of a frame on the panel line, complete or cut (R185): taken in RECEIVING; discarded in ANSWERING; in IDLE it is
the end of a frame begun in ANSWERING, and ends the discarding. -/
def State.frameEnd (take : State → State) (s : State) : State :=
  match s.panel.atFrameEnd with
  | .receiving => take s
  | .answering => s
  | .idle => { s with panel := { s.panel with discarding := false } }

/-- A complete request frame (R185): REFUSED FORMAT outside its fields' ranges (R192); REFUSED CONFIG_FAULT in CONFIG
FAULT (R180); REFUSED STARTING while the RESTART line is asserted (R181); else the idle timer restarts (R49) and the
owner answers, on the part with the timer restarted (log 54). -/
def State.request (fieldsOk : Bool) (owner : State → State × Answer) (s : State) : State :=
  s.frameEnd fun s =>
    if !fieldsOk then s.answer (.refused .format)
    else if s.station = .configFault then s.answer (.configFault s.faultKind)
    else if s.restart then s.answer (.refused .starting)
    else (owner s.restartIdle).1.answer (owner s.restartIdle).2

/-- A request that only reads, or the refusal of a request: the part stays as it was. -/
def unchanged (a : Answer) (s : State) : State × Answer := (s, a)

/-! ## Admission (R37, R38) -/

/-- The ten local checks of R37: the card's permit and the socket's tag, or the reason of refusal. -/
def State.admission (s : State) (card : List Byte) : Except Reason (Permit × Tag) :=
  match parseCard card with
  | none => .error .badCard
  | some p =>
    if s.station = .clash then .error .clash
    else if s.station = .starting then .error .starting
    else if s.session.state ≠ .none then .error .busy
    else if s.clock.dateKnown = false then .error .noDate
    else if p.expiry < s.clock.day then .error .expired
    else if s.revoked.any (·.permit == p.id) then .error .revoked
    else if s.retention.fault then .error .storeFault
    else if Config.storeCapacity ≤ s.notes.store.length then .error .noteStoreFull
    else
      match s.socketView with
      | none => .error .noTanker
      | some t =>
        if s.monitor.ground = false then .error .noTanker
        else if s.permitInUse p.id then .error .inUse
        else .ok (p, t)

/-- Entry to CHECKING (R38): the record set, a PERMIT-CLAIM handed over; a full queue ends the check at once (R11). -/
def State.beginCheck (p : Permit) (t : Tag) (s : State) : State :=
  let s := s.modSession fun x =>
    { x with
      state := .checking
      permit := some p
      tag := some t
      start := none
      endReason := none
      outcome := none
      window := none
      checkFrame := s.link.nextId }
  let r := s.handTail .permitClaim (beBytes 4 p.id)
  match r.2 with
  | .full => r.1.checkFail .linkBusy
  | .clash => r.1.checkFail .clash
  | _ => r.1

/-- The session controller's answer to PRESENT (R37, R38). -/
def State.presentCard (card : List Byte) (s : State) : State × Answer :=
  match s.admission card with
  | .error r => (s, .refused r)
  | .ok (p, t) => (s.beginCheck p t, .pending)

/-- The session controller's answer to FINISH (R50). -/
def State.finishSession (s : State) : State × Answer :=
  match s.session.state with
  | .none => (s, .refused .noSession)
  | .checking => (s, .refused .noSession)
  | .admitted => if s.allClosed then (s.enterEnding .finished, .accepted []) else (s, .refused .busy)
  | .ending => (s, .refused .wrongState)

/-! ## PLAN (R58) -/

/-- Test 3 of R58: the header's product group is in the permit's set. -/
def State.qualified (s : State) (g : GradeId) : Bool :=
  s.session.permit.any fun p => p.groups.getLsbD (s.headerCfg (s.gradeHeader g)).group.val

/-- An enabled arm on a header, and the named one when one is named (R58 test 4). -/
def State.planArm (s : State) (h : HeaderId) (named : Option ArmId) (a : ArmId) : Bool :=
  (s.armCfg a).enabled && decide ((s.armCfg a).header = h) && (named == none || named == some a)

/-- Test 5 of R58. -/
def State.planInjector (s : State) (g : GradeId) (named : Option ArmId) : Bool :=
  match s.gradeCode g with
  | none => true
  | some code =>
    allInjectors.any fun i =>
      (s.injectorCfg i).enabled && decide ((s.injectorCfg i).code = code) &&
        s.planArm (s.gradeHeader g) named (s.injectorCfg i).arm

/-- A batch record as PLAN creates it (R58). -/
def Batch.planned (g : GradeId) (preset : Nat) (named : Option ArmId) : Batch where
  grade := g
  preset := preset
  pendPreset := none
  named := named
  state := .planned
  started := false
  suspReason := none
  suspCount := 0
  lastArm := none
  saved := false
  savedAcc := Accum.zero
  flags := LineFlags.empty

/-- The batch table's answer to PLAN (R57, R58). -/
def State.planBatch (c : Byte) (g : GradeId) (preset : Nat) (named : Option ArmId) (s : State) : State × Answer :=
  if s.session.state ≠ .admitted then (s, .refused .noSession)
  else
    match s.compartment c with
    | none => (s, .refused .badCompartment)
    | some i =>
      if (s.batch i).isSome then (s, .refused .duplicate)
      else if (s.gradeCfg g).enabled = false then (s, .refused .badGrade)
      else if s.qualified g = false then (s, .refused .notQualified)
      else if allArms.any (s.planArm (s.gradeHeader g) named) = false then (s, .refused .noArm)
      else if s.planInjector g named = false then (s, .refused .noInjector)
      else if s.clampPreset i preset < s.cfg.minBatch then (s, .refused .tooSmall)
      else
        (s.setBatch i (some (Batch.planned g (s.clampPreset i preset) named)),
          if s.clampPreset i preset = preset then .accepted [] else .clamped)

/-! ## AMEND (R59) -/

/-- The arm that carries a batch is CLOSING. -/
def State.carrierClosing (s : State) (c : CompId) : Bool :=
  (s.ownerArm c).any fun a => (s.arm a).stage == .closing

/-- The gross of a batch's current copy. -/
def State.grossOf (s : State) (c : CompId) (b : Batch) : Nat := (s.figures c b).gross

/-- The four tests of R59 on the clamped preset: the reason of refusal, if one holds. -/
def State.amendTest (s : State) (c : CompId) (b : Batch) (preset : Nat) : Option Reason :=
  if b.state = .done ∨ b.state = .ended then some .wrongState
  else if b.state = .active ∧ s.carrierClosing c = true then some .tooLate
  else if preset < s.cfg.minBatch then some .tooSmall
  else if (b.state = .waiting ∨ b.state = .suspended) ∧ preset * 100 ≤ s.grossOf c b then some .tooLate
  else none

/-- The batch table's answer to AMEND. -/
def State.amendBatch (c : Byte) (preset : Nat) (s : State) : State × Answer :=
  match s.namedBatch c with
  | .error r => (s, .refused r)
  | .ok (i, b) =>
    match s.amendTest i b (s.clampPreset i preset) with
    | some r => (s, .refused r)
    | none =>
      if b.state = .active then
        (s.modBatch i fun b => { b with pendPreset := some (s.clampPreset i preset) }, .pending)
      else
        (s.modBatch i fun b => { b with preset := s.clampPreset i preset },
          if s.clampPreset i preset = preset then .accepted [] else .clamped)

/-! ## Leaving the queue (R60, R61, R63) -/

/-- A batch leaves the start queue; the others keep their order. -/
def State.unqueue (c : CompId) (s : State) : State := { s with startQueue := s.startQueue.filter (· != c) }

/-- The reservation a batch holds, if any, is released (R66). -/
def State.releaseFor (c : CompId) (s : State) : State :=
  match s.reservedArm c with
  | some a => s.releaseReservation a
  | none => s

/-- A batch enters SUSPENDED with a reason (R56). -/
def Batch.suspend (r : Reason) (b : Batch) : Batch :=
  { b with state := .suspended, suspReason := some r, suspCount := min 255 (b.suspCount + 1) }

/-- The batch table's answer to CANCEL (R60). -/
def State.cancelBatch (c : Byte) (s : State) : State × Answer :=
  match s.namedBatch c with
  | .error r => (s, .refused r)
  | .ok (i, b) =>
    if b.state = .planned then (s.setBatch i none, .accepted [])
    else if b.state = .waiting ∧ b.started = false then
      ((((s.unqueue i).setBatch i none).releaseFor i).afterDequeue, .accepted [])
    else (s, .refused .wrongState)

/-! ## START and RESUME (R62) -/

/-- Tests 1 and 2 of R62. -/
def State.startBar (s : State) : Option Reason :=
  if s.station = .clash then some .clash else if s.station = .starting then some .starting else none

/-- An accepted START or RESUME: the batch WAITING in the queue as given, the idle timer stopped, the deadman started
while no arm is open (R162), and a scan. -/
def State.enqueue (c : CompId) (queue : List CompId) (s : State) : State :=
  let s := s.modBatch c fun b => { b with state := .waiting, suspReason := none }
  let s := { s with startQueue := queue }.stopIdle
  (if s.allClosed then s.startDeadman else s).scan

/-- The answer to START. -/
def State.startBatch (c : Byte) (s : State) : State × Answer :=
  match s.startBar with
  | some r => (s, .refused r)
  | none =>
    match s.namedBatch c with
    | .error r => (s, .refused r)
    | .ok (i, b) =>
      if b.state ≠ .planned then (s, .refused .wrongState)
      else if s.monitor.withdrawn then (s, .refused .stopped)
      else (s.enqueue i (s.startQueue ++ [i]), .accepted [])

/-- Test 9 of R62: every enabled arm on the header with the last arm's K-factor is out of service. -/
def State.noServingArm (s : State) (b : Batch) : Bool :=
  allArms.all fun a =>
    !((s.armCfg a).enabled && decide ((s.armCfg a).header = s.gradeHeader b.grade) &&
      b.lastArm.any (fun l => (s.armCfg a).k == (s.armCfg l).k)) || !(s.arm a).inService

/-- The answer to RESUME. -/
def State.resumeBatch (c : Byte) (s : State) : State × Answer :=
  match s.startBar with
  | some r => (s, .refused r)
  | none =>
    match s.namedBatch c with
    | .error r => (s, .refused r)
    | .ok (i, b) =>
      if b.state ≠ .suspended then (s, .refused .wrongState)
      else if s.monitor.withdrawn then (s, .refused .stopped)
      else if b.preset * 100 ≤ s.grossOf i b then (s, .refused .tooLate)
      else if s.noServingArm b then (s, .refused .noArm)
      else (s.enqueue i (i :: s.startQueue), .accepted [])

/-! ## HOLD (R63) -/

/-- The arm that carries an ACTIVE batch in a flowing stage. -/
def State.flowingArm (s : State) (c : CompId) : Option ArmId :=
  (s.ownerArm c).filter fun a => (s.arm a).stage.flowing

/-- A WAITING batch stopped: PLANNED again if it never started, else SUSPENDED HELD. -/
def Batch.holdWaiting (b : Batch) : Batch := if b.started then b.suspend .held else { b with state := .planned }

/-- Whether HOLD acts on a batch: ACTIVE and not CLOSING, or WAITING. -/
def State.holds (s : State) (c : CompId) : Bool :=
  match s.batch c with
  | some b => (b.state == .active && (s.flowingArm c).isSome) || b.state == .waiting
  | none => false

/-- HOLD of one batch, less the release of its reservation: a controlled close HELD, or removal from the queue. -/
def State.holdBatch (c : CompId) (s : State) : State :=
  match s.batch c with
  | none => s
  | some b =>
    match b.state, s.flowingArm c with
    | .active, some a => s.closeDemand a .stop .held .controlled
    | .waiting, _ => (s.unqueue c).modBatch c Batch.holdWaiting
    | _, _ => s

/-- HOLD of the batches listed: each is stopped in turn, a slot that its close sets FREE passed on at once (R81), then the
reservations of those that waited are released (log 36). -/
def State.holdAll (cs : List CompId) (s : State) : State :=
  (cs.foldl (fun s c => s.releaseFor c) (cs.foldl (fun s c => s.holdBatch c) s)).afterDequeue

/-- The answer to HOLD of one compartment. -/
def State.holdOne (c : Byte) (s : State) : State × Answer :=
  match s.namedBatch c with
  | .error r => (s, .refused r)
  | .ok (i, b) =>
    if s.holds i then (s.holdAll [i], .accepted [])
    else if b.state = .active then (s, .refused .tooLate)
    else (s, .refused .wrongState)

/-- The answer to HOLD all. -/
def State.holdEvery (s : State) : State × Answer :=
  if s.session.state ≠ .admitted then (s, .refused .noSession)
  else if allComps.any s.holds then (s.holdAll (allComps.filter s.holds), .accepted [])
  else (s, .refused .wrongState)

/-! ## CLEAR-STOP (R160) and NOTE-COPY (R176) -/

/-- The permissive monitor's answer to CLEAR-STOP. -/
def State.clearLatch (s : State) : State × Answer :=
  if s.monitor.stopInput then (s, .refused .stopped)
  else if s.monitor.stopLatch then
    (((s.modMonitor fun m => { m with stopLatch := false }).setOwnStop false).restoreIf s.monitor.withdrawn,
      .accepted [])
  else (s, .refused .wrongState)

/-- The note store's answer to NOTE-COPY. -/
def State.copyNote (number : Nat) (s : State) : State × Answer :=
  match s.notes.store.find? (·.number == number) with
  | some n => (s, .accepted n.record)
  | none => (s, .refused .wrongState)

end Sys2Proof.Machine
end

