-- ==== Sys2Proof/Machine/Status.lean ====
section
/-! DEFINITION. The bodies of STATUS answers (R42, R76, R111, R124, R140, R155, R168, R176), laid out as R193 gives. A
figure that does not apply is all ones in its width (log 23). -/

namespace Sys2Proof.Machine

/-! ## Codes of state-valued figures (R193) -/

def SessionState.code : SessionState → Nat
  | .none => 0 | .checking => 1 | .admitted => 2 | .ending => 3

def Freshness.code : Freshness → Nat
  | .fresh => 0 | .stale => 1 | .gone => 255

def Sensor.code : Sensor → Nat
  | .dry => 0 | .wet => 1 | .fault => 2

def Deadman.code : Deadman → Nat
  | .stopped => 0 | .running => 1 | .warning => 2 | .expired => 3 | .jammed => 4

def BatchState.code : BatchState → Nat
  | .planned => 0 | .waiting => 1 | .active => 2 | .suspended => 3 | .done => 4 | .ended => 5

def Stage.code : Stage → Nat
  | .closed => 0 | .low => 1 | .reduced => 2 | .full => 3 | .slowdown => 4 | .closing => 5

def CloseKind.code : CloseKind → Nat
  | .normal => 0 | .stop => 1

def Manner.code : Manner → Nat
  | .controlled => 0 | .fast => 1

def ClosePhase.code : ClosePhase → Nat
  | .stepDown => 0 | .settle => 1

def StepUp.code : StepUp → Nat
  | .none => 0 | .waiting => 1 | .inClaim => 2 | .retryWait => 3 | .barred => 4

/-- A time left in whole seconds, two bytes, all ones when stopped. -/
def State.timeField (s : State) (t : Timer) : List Byte := optField 2 (secondsLeft s.now t)

/-- A compartment number, 1 to 8, or absent. -/
def compField (c : Option CompId) : List Byte := optField 1 (c.map fun c => c.val + 1)

/-- An arm number, or absent. -/
def armField (a : Option ArmId) : List Byte := optField 1 (a.map (·.val))

/-- Two flags as bits 0 and 1. -/
def twoBits (b0 b1 : Bool) : List Byte := beBytes 1 (b0.toNat + 2 * b1.toNat)

/-! ## Session kind -/

/-- One peer of the rack summary (R23). -/
def State.peerRow (s : State) (p : StationId) : List Byte :=
  let x := s.peer p
  beBytes 1 p.val ++ beBytes 1 x.fresh.code ++ beBytes 1 x.cls.val ++ flagByte x.stop ++
    allHeaders.flatMap fun h => field 1 x.shares[h]

/-- The rack summary: FRESH and STALE peers in station order. -/
def State.rackSummary (s : State) : List Byte :=
  let ps := allStations.filter s.countsPeer
  beBytes 1 ps.length ++ ps.flatMap s.peerRow

/-- The stop set as 32 bits, bit s for station s. -/
def State.stopSetValue (s : State) : Nat :=
  allStations.foldl (fun n p => if s.inStopSet p then n + 2 ^ p.val else n) 0

/-- Figures of the session record (R42); the compartment count is stored less one (R187). -/
def State.sessionFigures (s : State) : List Byte :=
  let x := s.session
  beBytes 1 x.state.code ++ reasonByte x.outcome ++ optField 4 (x.permit.map (·.id)) ++
    optField 2 (x.permit.map (·.carrier)) ++ optField 1 (x.permit.map (·.cls.val)) ++
    optField 4 (x.tag.map (·.id)) ++ optField 1 (x.tag.map (·.fills.length - 1)) ++
    optField 2 (x.start.map (·.1)) ++ optField 3 (x.start.map (·.2)) ++ reasonByte x.endReason ++
    s.timeField x.idle ++ s.timeField x.socketTimer

/-- Figures of the permissive monitor (R168). -/
def State.monitorFigures (s : State) : List Byte :=
  let m := s.monitor
  beBytes 1 m.value ++ flagByte m.ground ++ m.sensors.toList.flatMap (fun x => beBytes 1 x.code) ++
    flagByte m.stopInput ++ flagByte m.stopLatch ++ beBytes 4 s.stopSetValue ++ beBytes 1 m.deadman.code ++
    s.timeField m.deadmanTimer ++ twoBits m.counted[0] m.counted[1] ++ flagByte m.horn ++ flagByte m.bypass

/-- Figures of the note store and the fault flags (R176, R179, R184). -/
def State.storeFigures (s : State) : List Byte :=
  beBytes 1 s.notes.store.length ++ s.notes.store.flatMap (fun n => field 3 n.number) ++
    field 3 s.notes.nextNumber ++ flagByte s.cfgClamped ++ flagByte s.retention.fault

/-- STATUS of the session kind. -/
def State.sessionStatus (s : State) : List Byte :=
  s.sessionFigures ++ s.rackSummary ++ s.monitorFigures ++ s.storeFigures

/-! ## Compartment kind -/

/-- STATUS of the compartment kind for a held record (R76, R155). -/
def State.compartmentFigures (s : State) (c : CompId) (b : Batch) : List Byte :=
  let f := s.figures c b
  beBytes 1 b.state.code ++ beBytes 1 b.grade.val ++ field 3 b.preset ++ optField 3 b.pendPreset ++
    armField b.named ++ armField b.lastArm ++ armField (s.reservedArm c) ++
    optField 1 ((s.queuePos c).map (· + 1)) ++ reasonByte b.suspReason ++ beBytes 1 b.suspCount ++
    beBytes 1 b.flags.value ++ field 6 f.gross ++ field 6 f.std ++ field 4 f.flow ++
    field 6 (remaining b f).toNat ++
    (if (s.gradeCode b.grade).isSome then field 8 f.owed ++ field 5 f.commanded ++ field 4 f.feedback else [])

/-- The answer to STATUS of a compartment (R76). -/
def State.compartmentStatus (c : Byte) (s : State) : Answer :=
  if s.sessionOpen = false then .refused .noSession
  else
    match s.compartment c with
    | none => .refused .badCompartment
    | some i =>
      match s.batch i with
      | none => .refused .noBatch
      | some b => .accepted (s.compartmentFigures i b)

/-! ## Arm kind -/

/-- Meter channel figures (R111) and totalizers (R124). -/
def State.meterFigures (s : State) (a : ArmId) : List Byte :=
  let m := s.arm a
  flagByte m.inService ++ (if m.inService then allOnes 1 else twoBits m.meterCause m.leakCause) ++
    field 4 m.lastRate ++ field 2 ((s.armCfg a).slice - m.sliceCounter) ++
    flagByte m.lastGood.isSome ++ signedField 2 (m.lastGood.getD 0) ++ flagByte m.lastDiscarded ++
    s.timeField m.noFlow ++ beBytes 6 m.grossTotal.toNat ++ beBytes 6 m.stdTotal.toNat

/-- The timer of a close's phase. -/
def Arm.phaseTimer (m : Arm) : Timer :=
  match m.close with
  | some c =>
    match c.phase with
    | .stepDown => m.stepDown
    | .settle => m.settle
  | none => none

/-- Close figures, which apply while CLOSING (R140). -/
def State.closeFigures (s : State) (a : ArmId) : List Byte :=
  let m := s.arm a
  let c := m.close
  optField 1 (c.map (·.kind.code)) ++ reasonByte (c.map (·.cause)) ++ optField 1 (c.map (·.manner.code)) ++
    optField 1 (c.map (·.phase.code)) ++ s.timeField m.phaseTimer ++ s.timeField m.closeLimit ++
    (if m.stage = Stage.closing then flagByte m.leak else allOnes 1)

/-- Stage controller figures (R140). -/
def State.stageFigures (s : State) (a : ArmId) : List Byte :=
  let m := s.arm a
  beBytes 1 m.stage.code ++ twoBits (s.lowSolenoid a) (s.mainSolenoid a) ++ compField m.owner ++
    compField m.reserved ++
    optField 6 ((s.ownerBatch a).map fun cb => (remaining cb.2 (s.figures cb.1 cb.2)).toNat) ++
    field 2 m.closeAhead ++ s.closeFigures a ++ beBytes 1 m.stepUp.code ++ s.timeField m.holdOff

/-- One injector's figures (R155). -/
def State.injectorRow (s : State) (i : InjectorId) : List Byte :=
  let x := s.injector i
  beBytes 1 i.val ++ beBytes 1 (s.injectorCfg i).code.val ++ flagByte x.firing ++ flagByte (s.isFault i) ++
    beBytes 1 x.badRun ++ flagByte x.window.isSome ++ optField 4 (x.window.map (·.count)) ++
    (match x.window with
      | some w => flagByte w.cut
      | none => allOnes 1)

/-- Injector figures of an arm (R155). -/
def State.injectorFigures (s : State) (a : ArmId) : List Byte :=
  let is := allInjectors.filter fun i => (s.injectorCfg i).enabled && decide ((s.injectorCfg i).arm = a)
  beBytes 1 is.length ++ is.flatMap s.injectorRow

/-- STATUS of the arm kind; a disabled arm returns its enabled flag alone (R111). -/
def State.armStatus (s : State) (a : ArmId) : List Byte :=
  if (s.armCfg a).enabled then
    flagByte true ++ s.meterFigures a ++ s.stageFigures a ++ s.injectorFigures a ++ flagByte s.monitor.bypass
  else flagByte false

end Sys2Proof.Machine
end

