-- ==== Sys2Proof/Machine/PanelEvents.lean ====
section
/-! DEFINITION. The panel line's requests and events (R185, R186, R192), one meaning for each row of the table. -/

namespace Sys2Proof.Machine

/-- PRESENT (R37, R38). A card record of another length is no request of its kind (R192). -/
def execPresent (card : List Byte) (s : State) : Host.Outcome State Fault Refusal :=
  .next <| s.request (card.length == 12) (State.presentCard card)

/-- FINISH (R50). -/
def execFinish (s : State) : Host.Outcome State Fault Refusal := .next <| s.request true State.finishSession

/-- PLAN (R58). -/
def execPlan (c grade : Byte) (preset : BitVec 24) (arm : Byte) (s : State) : Host.Outcome State Fault Refusal :=
  .next <| s.request (gradeOk grade && presetOk preset && namedArmOk arm)
    (State.planBatch c (toGrade grade) preset.toNat (toNamedArm arm))

/-- AMEND (R59). -/
def execAmend (c : Byte) (preset : BitVec 24) (s : State) : Host.Outcome State Fault Refusal :=
  .next <| s.request (presetOk preset) (State.amendBatch c preset.toNat)

/-- CANCEL (R60). -/
def execCancel (c : Byte) (s : State) : Host.Outcome State Fault Refusal :=
  .next <| s.request true (State.cancelBatch c)

/-- START (R62). -/
def execStart (c : Byte) (s : State) : Host.Outcome State Fault Refusal := .next <| s.request true (State.startBatch c)

/-- RESUME (R62). -/
def execResume (c : Byte) (s : State) : Host.Outcome State Fault Refusal :=
  .next <| s.request true (State.resumeBatch c)

/-- HOLD (R63): the compartment byte 255 is all (R192). -/
def execHold (c : Byte) (s : State) : Host.Outcome State Fault Refusal :=
  .next <| s.request true (if c = 255 then State.holdEvery else State.holdOne c)

/-- STATUS of the session kind (R42). -/
def execStatusSession (s : State) : Host.Outcome State Fault Refusal :=
  .next <| s.request true fun s => (s, .accepted s.sessionStatus)

/-- STATUS of the compartment kind (R76). -/
def execStatusCompartment (c : Byte) (s : State) : Host.Outcome State Fault Refusal :=
  .next <| s.request true fun s => (s, s.compartmentStatus c)

/-- STATUS of the arm kind (R111). -/
def execStatusArm (arm : Byte) (s : State) : Host.Outcome State Fault Refusal :=
  .next <| s.request (armOk arm) fun s => (s, .accepted (s.armStatus (toArm arm)))

/-- NOTE-COPY (R176). -/
def execNoteCopy (number : BitVec 24) (s : State) : Host.Outcome State Fault Refusal :=
  .next <| s.request true (State.copyNote number.toNat)

/-- CLEAR-STOP (R160). -/
def execClearStop (s : State) : Host.Outcome State Fault Refusal := .next <| s.request true State.clearLatch

/-- PANEL_FORMAT_ERROR (R185): a frame that is no request, or a framing error. -/
def execPanelFormatError (s : State) : Host.Outcome State Fault Refusal :=
  .next <| s.frameEnd (State.answer (.refused .format))

/-- PANEL_FRAME_CUT (R185): answered at the moment it is cut. -/
def execPanelFrameCut (s : State) : Host.Outcome State Fault Refusal :=
  .next <| s.frameEnd (State.answer (.refused .format))

/-- PANEL_ANSWER_COMPLETE (R185): the port returns to IDLE, and goes on discarding a frame that characters in ANSWERING
have begun and that is not at its end yet (log 57). -/
def execPanelAnswerComplete (s : State) (frameUnderWay : Bool := false) : Host.Outcome State Fault Refusal :=
  .next <| if s.panel.port = .answering then { s with panel := ⟨.idle, none, frameUnderWay⟩ } else s

end Sys2Proof.Machine
end

