-- ==== Sys2Proof/Machine/PeerEvents.lean ====
section
/-! DEFINITION. The clock and the peer view's own events: the second (R17), ageing (R21), pending claims (R24), the
listen period (R28, R29) and the STATE period (R31). A timer command acts while its timer runs (log 2). -/

namespace Sys2Proof.Machine

/-- The clock one second on (R17): the day wraps from 65,535 to 0. -/
def Clock.tick (now : Nat) (c : Clock) : Clock :=
  if c.second < 86399 then { c with second := c.second + 1, origin := now }
  else { c with second := 0, day := (c.day + 1) % 65536, origin := now }

/-- The clock runs: not in CONFIG FAULT (R19), and from stage 5 of the cold start (R18). -/
def State.clockRuns (s : State) : Bool := s.station != .configFault && !s.stage5Waits

/-- CLOCK_SECOND (R17): a rollover is reported while the date is known. -/
def execClockSecond (s : State) : Host.Outcome State Fault Refusal :=
  .next <|
    if s.clockRuns then
      let rolls := decide (86399 ≤ s.clock.second)
      let s := { s with clock := s.clock.tick s.now }
      if rolls && s.clock.dateKnown then s.dayChange else s
    else s

/-- PEER_STALE (R21). -/
def execPeerStale (p : StationId) (s : State) : Host.Outcome State Fault Refusal :=
  .next <| if (s.peer p).fresh = .fresh then s.modPeer p fun x => { x with fresh := .stale } else s

/-- A peer that goes GONE: shares 0, permit absent; class and stop flag kept (R21). -/
def Peer.gone (x : Peer) : Peer := { x with fresh := .gone, shares := Vector.replicate 8 0, permit := none }

/-- A header's retry trigger for a peer gone with share on it (R21, R90). -/
def State.peerLeft (old : Vector Nat 8) (s : State) (h : HeaderId) : State :=
  if 0 < old[h] then s.retryTrigger h else s

/-- PEER_GONE (R21), the reports by header number (log 46). -/
def execPeerGone (p : StationId) (s : State) : Host.Outcome State Fault Refusal :=
  .next <|
    if (s.peer p).fresh = .stale then
      let old := (s.peer p).shares
      allHeaders.foldl (State.peerLeft old) (s.modPeer p Peer.gone)
    else s

/-- PENDING_CLAIM_EXPIRY (R24). -/
def execPendingClaimExpiry (p : StationId) (h : HeaderId) (s : State) : Host.Outcome State Fault Refusal :=
  .next <| s.modPeer p fun x => { x with claims := x.claims.set h none }

/-- LISTEN_PERIOD_END (R28, R29): STARTING becomes RUNNING, and the dispatcher scans. -/
def execListenPeriodEnd (s : State) : Host.Outcome State Fault Refusal :=
  .next <|
    if s.listenTimer = none then s
    else
      { s with
        listenTimer := none
        station := if s.station = StationState.starting then StationState.running else s.station }.scan

/-- STATE_PERIOD_EXPIRY (R31). -/
def execStatePeriodExpiry (s : State) : Host.Outcome State Fault Refusal :=
  .next <| if s.periodTimer = none then s else { s with periodTimer := none }.composeState

end Sys2Proof.Machine
end

