-- ==== Sys2Proof/Machine/PermissiveEvents.lean ====
section
/-! DEFINITION. The permissive monitor's inputs and timers (R159, R163 to R166), one meaning for each row of the table.
In CONFIG FAULT no input is taken (R156); while the RESTART line is asserted inputs are followed and start nothing
(log 35), and before stage 5 of a cold start they are not sampled yet (log 37). -/

namespace Sys2Proof.Machine

/-- LOCAL_STOP_ACTIVE (R159): latch, withdrawal, STOP, report; under RESTART the latch alone. -/
def execLocalStopActive (s : State) : Host.Outcome State Fault Refusal :=
  .next <|
    if s.station = .configFault ∨ s.monitor.stopInput = true then s
    else if s.stage5Waits then s.modMonitor fun m => { m with stopInput := true }
    else
      let was := s.monitor.stopInForce
      let s := (s.modMonitor fun m => { m with stopInput := true, stopLatch := true }).withdrawIf .localStop was true
      if s.restart then s else s.handStop.setOwnStop true

/-- LOCAL_STOP_NORMAL (R159): the latch holds the stop in force. -/
def execLocalStopNormal (s : State) : Host.Outcome State Fault Refusal :=
  .next <| if s.station = .configFault then s else s.modMonitor fun m => { m with stopInput := false }

/-- The other contact. -/
def otherContact (c : ContactId) : ContactId := if c = 0 then 1 else 0

/-- CONTACT_CLOSURE (R163, R164): counted with the other contact OPEN; with both CLOSED the jam timer starts in RUNNING
and WARNING. -/
def execContactClosure (c : ContactId) (s : State) : Host.Outcome State Fault Refusal :=
  .next <|
    if s.station = .configFault ∨ s.monitor.contacts[c] = true then s
    else
      let s := s.modMonitor fun m => { m with contacts := m.contacts.set c true }
      if s.restart then s
      else if s.monitor.contacts[otherContact c] then
        if s.monitor.deadman = .running ∨ s.monitor.deadman = .warning then
          s.modMonitor fun m => { m with jam := s.after Config.jamMs }
        else s
      else if s.countsClosures then s.countClosure c
      else s

/-- CONTACT_OPENING (R164, R165): the jam timer stops; a JAMMED deadman at rest goes to STOPPED. -/
def execContactOpening (c : ContactId) (s : State) : Host.Outcome State Fault Refusal :=
  .next <|
    if s.station = .configFault ∨ s.monitor.contacts[c] = false then s
    else
      let was := s.monitor.withdrawn
      let s := s.modMonitor fun m => { m with contacts := m.contacts.set c false, jam := none }
      if s.restart = false ∧ s.monitor.deadman = .jammed ∧ s.allClosed = true ∧ s.startQueue.isEmpty = true then
        (s.modMonitor Monitor.stopDeadman).restoreIf was
      else s

/-- DEADMAN_WARNING (R163): 15 s are left and the horn sounds. -/
def execDeadmanWarning (s : State) : Host.Outcome State Fault Refusal :=
  .next <|
    if s.monitor.deadman = .running ∧ s.monitor.deadmanTimer ≠ none then
      s.modMonitor fun m =>
        { m with deadman := .warning, deadmanTimer := s.after Config.warningMs, horn := true }
    else s

/-- DEADMAN_EXPIRY (R164). -/
def execDeadmanExpiry (s : State) : Host.Outcome State Fault Refusal :=
  .next <|
    if s.monitor.deadman = .warning ∧ s.monitor.deadmanTimer ≠ none then s.tripDeadman .expired else s

/-- JAM_TIMER_EXPIRY (R164). -/
def execJamTimerExpiry (s : State) : Host.Outcome State Fault Refusal :=
  .next <| if s.monitor.jam = none then s else s.tripDeadman .jammed

/-- The bypass key turned off on an arm (R151): a flowing arm whose owner is served by a FAULT injector closes. -/
def State.bypassOff (a : ArmId) (s : State) : State :=
  match s.ownerBatch a with
  | none => s
  | some (_, b) =>
    if (s.arm a).stage.flowing && (s.gradeInjector a b.grade).any s.isFault then
      s.closeDemand a .stop .additive .controlled
    else s

/-- BYPASS_KEY_CHANGE (R166, R151, R66, R64); at a turn off the arms close in order 0 to 3, a slot set free by one being
passed on before the next, and then reservations are released in the same order, each with its scan (log 51). -/
def execBypassKeyChange (on : Bool) (s : State) : Host.Outcome State Fault Refusal :=
  .next <|
    if s.station = .configFault ∨ s.monitor.bypass = on then s
    else
      let s := s.modMonitor fun m => { m with bypass := on }
      if s.restart then s
      else if on then s.scan
      else ((s.eachArm State.bypassOff).eachArm State.recheckReservation).scan

end Sys2Proof.Machine
end

