-- ==== Sys2Proof/Machine/Restart.lean ====
section
/-! DEFINITION. Assertion and release of the RESTART line (R181), with each block's own rule (R19, R29, R40, R54, R75,
R87, R98, R112, R139, R153, R167). -/

namespace Sys2Proof.Machine

/-! ## Assertion -/

/-- An arm at the assertion, less its stage (R98, R112, R139): timers stopped, counting OFF, marks cleared. -/
def Arm.atAssertion (m : Arm) : Arm :=
  { m with
    stepUp := .none
    yieldMark := false
    holdOff := none
    overdrawCount := 0
    overdrawTimer := none
    counting := false
    sliceTimer := none
    noFlow := none
    flowCounter := none
    converter := none
    stepDown := none
    settle := none
    closeLimit := none }

/-- A header at the assertion: its claim abandoned, its timers stopped (R87, R98). -/
def Header.atAssertion (x : Header) : Header := { x with slot := none, retryTimer := none, yieldTimer := none }

/-- A flowing arm enters CLOSING with cause RESTART, its share held; a closing one keeps its close (R139). -/
def State.stopArm (a : ArmId) (s : State) : State :=
  let flows := (s.arm a).stage.flowing
  let s := if flows then s.moveStage a .closing else s
  s.modArm a fun m =>
    if flows then { m.atAssertion with close := some ⟨.stop, .restart, .fast, .settle⟩, leak := false }
    else m.atAssertion

/-- The link controller at the assertion: nothing driven, the queue emptied without reports (R19). -/
def Link.emptied (l : Link) : Link := { l with queue := [], tx := .empty, attempts := 0, wait := 0 }

/-- The station state at the assertion (R29). -/
def StationState.atAssertion : StationState → StationState
  | .running => .starting
  | .starting => .starting
  | .clash => .clash
  | .configFault => .configFault

/-- Every block takes the assertion. -/
def State.assertRestart (s : State) : State :=
  let s :=
    { s with
      restart := true
      station := s.station.atAssertion
      listenTimer := none
      periodTimer := none
      link := s.link.emptied }
  let s := (s.checkFail .restart).modSession fun x => { x with idle := none, socketTimer := none, window := none }
  let s := { s with headers := vec8 fun h => (s.header h).atAssertion }
  let s := (s.eachArm State.stopArm).cutAllShots
  s.modMonitor fun m => { m with deadmanTimer := none, jam := none, horn := false }

/-- RESTART_ASSERTED (R181): in CONFIG FAULT the line alone is followed (R180). -/
def execRestartAsserted (s : State) : Host.Outcome State Fault Refusal :=
  .next <|
    if s.restart then s
    else if s.station = .configFault then { s with restart := true }
    else s.assertRestart

/-! ## Release -/

/-- Stage 1 for one arm: its partial slice, its windows judged, CLOSED, no VALVE_LEAK cause, no yield mark
(R112, R153, R139, R93). -/
def State.releaseArm (a : ArmId) (s : State) : State :=
  let s :=
    if (s.arm a).stage.isOpen then
      let s := s.releaseSlice a
      let s := s.eachInjector fun i s => if (s.injectorCfg i).arm = a then s.judgeWindow i else s
      (s.moveStage a .closed).modArm a fun m => { m with close := none, leak := false, heldShare := 0 }
    else s
  s.modArm a fun m => { m with leakCause := false, yieldMark := false }

/-- A batch at stage 3 (R75). -/
def Batch.atRelease (b : Batch) : Batch :=
  match b.state with
  | .active => { b with state := .suspended, suspReason := some .restart, suspCount := min 255 (b.suspCount + 1) }
  | .waiting =>
    if b.started then
      { b with state := .suspended, suspReason := some .restart, suspCount := min 255 (b.suspCount + 1) }
    else { b with state := .planned }
  | .planned => b
  | .suspended => b
  | .done => b
  | .ended => b

/-- Stage 3: batches suspended and requeued, reservations and retry waits cleared, figures saved (R75). -/
def State.releaseBatches (s : State) : State :=
  let s :=
    { s with
      batches := vec8 fun c => (s.batch c).map Batch.atRelease
      startQueue := []
      arms := vec4 fun a => { s.arm a with reserved := none }
      headers := vec8 fun h => { s.header h with retryWait := false } }
  s.eachArm State.saveOwner

/-- The link controller at release (R19). -/
def Link.released (l : Link) : Link :=
  { l.emptied with lineIdle := false, rx := .skip, buffer := [], lastStateStop := false }

/-- Stage 4: shares, peers, stop set, link, deadman, shot pulses and send markers (R98, R33, R27, R19, R167, R154,
R173). -/
def State.releaseBlocks (s : State) : State :=
  let inForce := s.monitor.stopInForce
  { s with
    headers := vec8 fun h => { s.header h with ownShare := 0, slot := none }
    injectors := vec4 fun i => { s.injector i with shotPulses := 0 }
    peers := Vector.replicate 32 Peer.cold
    ownStop := inForce
    link := s.link.released
    monitor := { s.monitor.stopDeadman with terminal := inForce }
    notes := { s.notes with store := s.notes.store.map fun n => { n with marker := none } } }

/-- Stage 7: the idle and socket timers (R54). -/
def State.releaseTimers (s : State) : State :=
  if s.session.state = .admitted then
    s.modSession fun x =>
      { x with
        idle := if s.allClosed then s.fullIdle else none
        socketTimer := if s.socketView = none then s.after Config.socketMs else none }
  else s

/-- The front frame is held as if it were on the pair: no STATE handed over takes its place (R9). -/
def Link.holdFront (l : Link) : Link := if l.tx = .ready then { l with tx := .sending } else l

/-- The held front frame is READY again. -/
def Link.freeFront (l : Link) : Link := if l.tx = .sending then { l with tx := .ready } else l

/-- Stage 6: the completion of an ENDING session. Its STATE without the permit waits behind the listen period's STATE,
which carries it, so that peers see the permit announced and then withdrawn (R33, R54; log 44). -/
def State.endingAtRelease (s : State) : State :=
  ((s.modLink Link.holdFront).completeEnding).modLink Link.freeFront

/-- The warm restart, stage by stage (R181); a socket request is sent (R194). -/
def State.releaseRestart (s : State) : State :=
  let s := (s.eachArm State.releaseArm).handTotals
  let s := s.releaseBatches.releaseBlocks
  let s := { s with restart := false, socketRequests := s.socketRequests + 1 }.beginListen
  s.endingAtRelease.releaseTimers

/-- The release that a cold start's stage 5 has waited for: the line condition BUSY (R2), the totalizer block handed over
as at every release (R123), then stage 5 (R178; log 37). DESIGN CHOICE (log 60): the release and stage 5 send one socket
request between them. -/
def State.releaseStage5 (s : State) : State := (s.modLink Link.released).handTotals.stage5

/-- RESTART_RELEASED (R181, R178): CONFIG FAULT stays (R180), its socket request sent as at every release (R35, R194). -/
def execRestartReleased (s : State) : Host.Outcome State Fault Refusal :=
  .next <|
    if s.restart = false then s
    else if s.station = .configFault then { s with restart := false, socketRequests := s.socketRequests + 1 }
    else if s.stage5Waits then s.releaseStage5
    else s.releaseRestart

end Sys2Proof.Machine
end

