-- ==== Sys2Proof/Machine/RetentionEvents.lean ====
section
/-! DEFINITION. The ends of retention writes (R183, R184) and the issue of a waiting note (R172). -/

namespace Sys2Proof.Machine

/-- RETENTION_WRITE_END (R183, R184): `agrees` is the outcome of the read-back's comparison. -/
def execRetentionWriteEnd (agrees : Bool) (s : State) : Host.Outcome State Fault Refusal :=
  .next <| if s.retention.queue.isEmpty then s else (s.endWrite agrees).offerPlace

/-- RETENTION_WRITE_TIMEOUT (R184): the write fails. -/
def execRetentionWriteTimeout (s : State) : Host.Outcome State Fault Refusal :=
  .next <| if s.retention.queue.isEmpty then s else (s.endWrite false).offerPlace

/-- NOTE_ISSUE (R172): a waiting issue that finds room; steps 3 to 5 of the completion follow at the same event. -/
def execNoteIssue (s : State) : Host.Outcome State Fault Refusal :=
  .next <|
    if s.notes.issueWaiting && !s.restart && s.issueFits then s.issueNote.closeSession else s

end Sys2Proof.Machine
end

