-- ==== Sys2Proof/Machine/SessionEvents.lean ====
section
/-! DEFINITION. The session's own events: the claim window (R41), its timers (R48, R49), and the socket line's reports
(R35, R48, R157, R194). -/

namespace Sys2Proof.Machine

/-- PERMIT_CLAIM_WINDOW_END (R41): the session is ADMITTED. -/
def execPermitClaimWindowEnd (s : State) : Host.Outcome State Fault Refusal :=
  .next <|
    if s.session.state = .checking ∧ s.session.window ≠ none then
      let s := s.modSession fun x =>
        { x with
          state := .admitted
          window := none
          start := some (s.clock.day, s.clock.second)
          outcome := some .admitted }
      s.startIdle.composeState.scan
    else s

/-- IDLE_TIMER_EXPIRY (R49). -/
def execIdleTimerExpiry (s : State) : Host.Outcome State Fault Refusal :=
  .next <| if s.session.idle = none then s else s.enterEnding .idle

/-- SOCKET_TIMER_EXPIRY (R48). -/
def execSocketTimerExpiry (s : State) : Host.Outcome State Fault Refusal :=
  .next <| if s.session.socketTimer = none then s else s.enterEnding .tankerGone

/-! ## The socket line -/

/-- A readable tag's id against the session's (R40, R48). -/
def State.tagSeen (id : Nat) (s : State) : State :=
  let same := s.session.tag.any (·.id == id)
  match s.session.state with
  | .none => s
  | .checking => if same then s else s.checkFail .noTanker
  | .admitted =>
    if same then s.modSession fun x => { x with socketTimer := none } else s.enterEnding .tankerChanged
  | .ending => s

/-- TAG_REPORT (R35): an unreadable tag leaves the socket view as it is. In CONFIG FAULT too the view follows it. -/
def execTagReport (tag : List Byte) (s : State) : Host.Outcome State Fault Refusal :=
  .next <|
    match parseTag tag with
    | none => s
    | some t => { s with socketView := some t }.tagSeen t.id

/-- Ground proof and sensors set together; GROUND and then OVERFILL may be withdrawn, or every permissive restored (R157,
R158; log 32). -/
def State.setSocket (ground : Bool) (sensors : Vector Sensor 8) (s : State) : State :=
  let was := s.monitor
  let s := s.modMonitor fun m => { m with ground := ground, sensors := sensors }
  let s := s.withdrawIf .ground was.groundOut s.monitor.groundOut
  let s := s.withdrawIf .overfill was.overfillOut s.monitor.overfillOut
  s.restoreIf was.withdrawn

/-- The socket unplugged, as the session takes it (R40, R48, R54). -/
def State.unplugged (s : State) : State :=
  match s.session.state with
  | .none => s
  | .checking => s.checkFail .noTanker
  | .admitted =>
    if s.session.socketTimer = none ∧ s.restart = false then
      s.modSession fun x => { x with socketTimer := s.after Config.socketMs }
    else s
  | .ending => s

/-- UNPLUG_REPORT (R35, R157); one whose check value does not agree is ignored (R194). In CONFIG FAULT the socket view
follows it (R35) and the permissive monitor takes nothing (R156). -/
def execUnplugReport (check : BitVec 16) (s : State) : Host.Outcome State Fault Refusal :=
  .next <|
    if unplugAgrees check = false then s
    else
      let s := { s with socketView := none }.unplugged
      if s.station = .configFault then s else s.setSocket false (Vector.replicate 8 .fault)

/-- The reported sensors (R194). -/
def bodySensors (body : List Byte) : Vector Sensor 8 := vec8 fun k => sensorOf (body.getD (k.val + 1) 2)

/-- SOCKET_STATE_REPORT (R157, R194). A body of another length than 9 bytes is that of a frame cut short and is ignored
(R194, log 67). -/
def execSocketStateReport (body : List Byte) (check : BitVec 16) (s : State) : Host.Outcome State Fault Refusal :=
  .next <|
    if s.station = .configFault ∨ body.length ≠ 9 then s
    else if socketStateAgrees body check then s.setSocket (body.getD 0 0 == 1) (bodySensors body)
    else s.setSocket false (Vector.replicate 8 .fault)

end Sys2Proof.Machine
end

