-- ==== Sys2Proof/Machine/ShareEvents.lean ====
section
/-! DEFINITION. The share negotiator's timers (R84, R91, R92, R95, R97), one meaning for each row of the table. -/

namespace Sys2Proof.Machine

/-- SETTLE_WINDOW_END (R84): the claim whose window runs is walked. -/
def execSettleWindowEnd (h : HeaderId) (s : State) : Host.Outcome State Fault Refusal :=
  .next <|
    match (s.header h).slot with
    | some c =>
      match c.phase with
      | .settling _ => s.evaluate h c
      | .queued => s
    | none => s

/-- RETRY_TIMER_EXPIRY (R91). -/
def execRetryTimerExpiry (h : HeaderId) (s : State) : Host.Outcome State Fault Refusal :=
  .next <| if (s.header h).retryTimer = none then s else s.retryTrigger h

/-- YIELD_TIMER_EXPIRY (R92). -/
def execYieldTimerExpiry (h : HeaderId) (s : State) : Host.Outcome State Fault Refusal :=
  .next <| s.modHeader h fun x => { x with yieldTimer := none }

/-- HOLD_OFF_EXPIRY (R95): a STEP-UP is requested for an arm still REDUCED. -/
def execHoldOffExpiry (a : ArmId) (s : State) : Host.Outcome State Fault Refusal :=
  .next <|
    if (s.arm a).holdOff = none then s
    else
      let s := s.modArm a fun m => { m with holdOff := none }
      if (s.arm a).stage = Stage.reduced then s.requestStepUp a else s

/-- OVERDRAW_TIMER_EXPIRY (R97): a FAST close OVERDRAW. -/
def execOverdrawTimerExpiry (a : ArmId) (s : State) : Host.Outcome State Fault Refusal :=
  .next <|
    if (s.arm a).overdrawTimer = none then s
    else (s.modArm a fun m => { m with overdrawTimer := none }).closeDemand a .stop .overdraw .fast

end Sys2Proof.Machine
end

