-- ==== Sys2Proof/Machine/Dispatch.lean ====
section
/-! DEFINITION. The dispatch of commands: one arm for each constructor of Instr, in the table's order. -/

namespace Sys2Proof.Machine

def exec (i : Instr) (s : State) : Host.Outcome State Fault Refusal :=
  match i with
  | .coldStart preload reads inputs => Sys2Proof.Machine.execColdStart preload reads inputs s
  | .restartAsserted => Sys2Proof.Machine.execRestartAsserted s
  | .restartReleased => Sys2Proof.Machine.execRestartReleased s
  | .lineIdle => Sys2Proof.Machine.execLineIdle s
  | .collision => Sys2Proof.Machine.execCollision s
  | .backoffEnd => Sys2Proof.Machine.execBackoffEnd s
  | .readBackCompletion => Sys2Proof.Machine.execReadBackCompletion s
  | .brokenCharacter => Sys2Proof.Machine.execBrokenCharacter s
  | .stateReceived frame => Sys2Proof.Machine.execStateReceived frame s
  | .claimReceived frame => Sys2Proof.Machine.execClaimReceived frame s
  | .yieldReceived frame => Sys2Proof.Machine.execYieldReceived frame s
  | .permitClaimReceived frame => Sys2Proof.Machine.execPermitClaimReceived frame s
  | .revokeReceived frame => Sys2Proof.Machine.execRevokeReceived frame s
  | .timeReceived frame => Sys2Proof.Machine.execTimeReceived frame s
  | .stopReceived frame => Sys2Proof.Machine.execStopReceived frame s
  | .noteReceived frame => Sys2Proof.Machine.execNoteReceived frame s
  | .noteRequestReceived frame => Sys2Proof.Machine.execNoteRequestReceived frame s
  | .noteTakenReceived frame => Sys2Proof.Machine.execNoteTakenReceived frame s
  | .clockSecond => Sys2Proof.Machine.execClockSecond s
  | .peerStale peer => Sys2Proof.Machine.execPeerStale peer s
  | .peerGone peer => Sys2Proof.Machine.execPeerGone peer s
  | .pendingClaimExpiry peer header => Sys2Proof.Machine.execPendingClaimExpiry peer header s
  | .listenPeriodEnd => Sys2Proof.Machine.execListenPeriodEnd s
  | .statePeriodExpiry => Sys2Proof.Machine.execStatePeriodExpiry s
  | .present card => Sys2Proof.Machine.execPresent card s
  | .finish => Sys2Proof.Machine.execFinish s
  | .plan compartment grade preset arm => Sys2Proof.Machine.execPlan compartment grade preset arm s
  | .amend compartment preset => Sys2Proof.Machine.execAmend compartment preset s
  | .cancel compartment => Sys2Proof.Machine.execCancel compartment s
  | .start compartment => Sys2Proof.Machine.execStart compartment s
  | .resume compartment => Sys2Proof.Machine.execResume compartment s
  | .hold compartment => Sys2Proof.Machine.execHold compartment s
  | .statusSession => Sys2Proof.Machine.execStatusSession s
  | .statusCompartment compartment => Sys2Proof.Machine.execStatusCompartment compartment s
  | .statusArm arm => Sys2Proof.Machine.execStatusArm arm s
  | .noteCopy number => Sys2Proof.Machine.execNoteCopy number s
  | .clearStop => Sys2Proof.Machine.execClearStop s
  | .panelFormatError => Sys2Proof.Machine.execPanelFormatError s
  | .panelFrameCut => Sys2Proof.Machine.execPanelFrameCut s
  | .panelAnswerComplete frameUnderWay => Sys2Proof.Machine.execPanelAnswerComplete s frameUnderWay
  | .permitClaimWindowEnd => Sys2Proof.Machine.execPermitClaimWindowEnd s
  | .idleTimerExpiry => Sys2Proof.Machine.execIdleTimerExpiry s
  | .socketTimerExpiry => Sys2Proof.Machine.execSocketTimerExpiry s
  | .tagReport tag => Sys2Proof.Machine.execTagReport tag s
  | .unplugReport check => Sys2Proof.Machine.execUnplugReport check s
  | .socketStateReport body check => Sys2Proof.Machine.execSocketStateReport body check s
  | .settleWindowEnd header => Sys2Proof.Machine.execSettleWindowEnd header s
  | .retryTimerExpiry header => Sys2Proof.Machine.execRetryTimerExpiry header s
  | .yieldTimerExpiry header => Sys2Proof.Machine.execYieldTimerExpiry header s
  | .holdOffExpiry arm => Sys2Proof.Machine.execHoldOffExpiry arm s
  | .overdrawTimerExpiry arm => Sys2Proof.Machine.execOverdrawTimerExpiry arm s
  | .aPulse arm => Sys2Proof.Machine.execAPulse arm s
  | .bPulse arm => Sys2Proof.Machine.execBPulse arm s
  | .conversionComplete arm result => Sys2Proof.Machine.execConversionComplete arm result s
  | .noFlowExpiry arm => Sys2Proof.Machine.execNoFlowExpiry arm s
  | .flowTimeSecond arm => Sys2Proof.Machine.execFlowTimeSecond arm s
  | .stepDownExpiry arm => Sys2Proof.Machine.execStepDownExpiry arm s
  | .settleTimerExpiry arm => Sys2Proof.Machine.execSettleTimerExpiry arm s
  | .noteIssue => Sys2Proof.Machine.execNoteIssue s
  | .closeLimitExpiry arm => Sys2Proof.Machine.execCloseLimitExpiry arm s
  | .coupledInputChange arm coupled => Sys2Proof.Machine.execCoupledInputChange arm coupled s
  | .feedbackPulse injector => Sys2Proof.Machine.execFeedbackPulse injector s
  | .widthTimerExpiry injector => Sys2Proof.Machine.execWidthTimerExpiry injector s
  | .localStopActive => Sys2Proof.Machine.execLocalStopActive s
  | .localStopNormal => Sys2Proof.Machine.execLocalStopNormal s
  | .contactClosure contact => Sys2Proof.Machine.execContactClosure contact s
  | .contactOpening contact => Sys2Proof.Machine.execContactOpening contact s
  | .deadmanWarning => Sys2Proof.Machine.execDeadmanWarning s
  | .deadmanExpiry => Sys2Proof.Machine.execDeadmanExpiry s
  | .jamTimerExpiry => Sys2Proof.Machine.execJamTimerExpiry s
  | .bypassKeyChange on => Sys2Proof.Machine.execBypassKeyChange on s
  | .retentionWriteEnd agrees => Sys2Proof.Machine.execRetentionWriteEnd agrees s
  | .retentionWriteTimeout => Sys2Proof.Machine.execRetentionWriteTimeout s
  | .lineBusy slots => Sys2Proof.Machine.execLineBusy slots s
  | .startByteMismatch => Sys2Proof.Machine.execStartByteMismatch s

end Sys2Proof.Machine
end

