-- ==== Sys2Proof/Machine/Ticks.lean ====
section
/-! DEFINITION. The expiries of the part's own timers (00_scope.md 4.3): which are due at this moment of the timebase, in
the order of the table of commands (log 1, log 3). -/

namespace Sys2Proof.Machine

/-- A STALE or FRESH entry's age has reached a limit (R21). -/
def State.aged (s : State) (p : StationId) (limit : Nat) : Bool :=
  match (s.peer p).heard with
  | some t => decide (t + limit ≤ s.now)
  | none => false

/-- A pending claim has run its 500 ms (R24). -/
def State.claimAged (s : State) (p : StationId) (h : HeaderId) : Bool :=
  match (s.peer p).claims[h] with
  | some c => decide (c.heard + Config.pendingClaimMs ≤ s.now)
  | none => false

/-- A settle window has run out (R84). -/
def State.windowDue (s : State) (h : HeaderId) : Bool :=
  match (s.header h).slot with
  | some c =>
    match c.phase with
    | .settling ends => decide (ends ≤ s.now)
    | .queued => false
  | none => false

/-- A flow-time counter has accumulated 1,000 ms (R110). -/
def State.secondDue (s : State) (a : ArmId) : Bool :=
  match (s.arm a).flowCounter with
  | some t => decide (t + 1000 ≤ s.now)
  | none => false

/-- The deadman timer's time left has reached 15 s (R163). -/
def State.warningDue (s : State) : Bool :=
  match s.monitor.deadmanTimer with
  | some d => s.monitor.deadman == .running && decide (d ≤ s.now + Config.warningMs)
  | none => false

/-- An expiry with the command that carries it out. -/
abbrev Expiry := Bool × Instr

/-- One expiry for each numbered thing, in order. -/
def expiriesOf {α : Type} (things : List α) (isDue : α → Bool) (command : α → Instr) : List Expiry :=
  things.map fun x => (isDue x, command x)

/-- Expiries of the clock and the peer view. -/
def State.peerExpiries (s : State) : List (List Expiry) :=
  [[(s.clockRuns && decide (s.clock.origin + 1000 ≤ s.now), .clockSecond)],
    expiriesOf allStations (fun p => (s.peer p).fresh == .fresh && s.aged p Config.staleMs) .peerStale,
    expiriesOf allStations (fun p => (s.peer p).fresh == .stale && s.aged p Config.goneMs) .peerGone,
    allStations.flatMap fun p => expiriesOf allHeaders (s.claimAged p) (.pendingClaimExpiry p),
    [(due s.now s.listenTimer, .listenPeriodEnd), (due s.now s.periodTimer, .statePeriodExpiry)]]

/-- Expiries of the session. -/
def State.sessionExpiries (s : State) : List (List Expiry) :=
  [[(s.session.state == .checking && due s.now s.session.window, .permitClaimWindowEnd),
    (due s.now s.session.idle, .idleTimerExpiry), (due s.now s.session.socketTimer, .socketTimerExpiry)]]

/-- Expiries of the headers and arms. -/
def State.flowExpiries (s : State) : List (List Expiry) :=
  [expiriesOf allHeaders s.windowDue .settleWindowEnd,
    expiriesOf allHeaders (fun h => due s.now (s.header h).retryTimer) .retryTimerExpiry,
    expiriesOf allHeaders (fun h => due s.now (s.header h).yieldTimer) .yieldTimerExpiry,
    expiriesOf allArms (fun a => due s.now (s.arm a).holdOff) .holdOffExpiry,
    expiriesOf allArms (fun a => due s.now (s.arm a).overdrawTimer) .overdrawTimerExpiry,
    expiriesOf allArms (fun a => due s.now (s.arm a).noFlow) .noFlowExpiry,
    expiriesOf allArms s.secondDue .flowTimeSecond,
    expiriesOf allArms (fun a => due s.now (s.arm a).stepDown) .stepDownExpiry,
    expiriesOf allArms (fun a => due s.now (s.arm a).settle) .settleTimerExpiry,
    expiriesOf allArms (fun a => due s.now (s.arm a).closeLimit) .closeLimitExpiry]

/-- Expiries of the injectors, the deadman and the write queue. -/
def State.fieldExpiries (s : State) : List (List Expiry) :=
  [expiriesOf allInjectors (fun i => due s.now (s.injector i).width) .widthTimerExpiry,
    [(s.warningDue, .deadmanWarning),
      (s.monitor.deadman == .warning && due s.now s.monitor.deadmanTimer, .deadmanExpiry),
      (due s.now s.monitor.jam, .jamTimerExpiry),
      (!s.retention.queue.isEmpty && due s.now s.retention.writeTimer, .retentionWriteTimeout)]]

/-- Every expiry, in order. -/
def State.expiries (s : State) : List Expiry :=
  (List.flatten [s.peerExpiries, s.sessionExpiries, s.flowExpiries, s.fieldExpiries]).flatten

/-- The first expiry that is due. -/
def State.dueCommand (s : State) : Option Instr := (s.expiries.find? (·.1)).map (·.2)

/-- One millisecond of the timebase. -/
def State.tick (s : State) : State := { s with now := s.now + 1 }

end Sys2Proof.Machine
end

