-- ==== Sys2Proof/Safety.lean ====
section
/-! DEFINITION. What counts as a sound state of the part, in the terms statements use: the law of own steady shares, the
law of flow under a withdrawn permissive, the law of admission, the stop set against TERMINAL_STOP, the bounds of the two
queues and the form of the retention memory. Each is meant to be kept by every step. -/

namespace Sys2Proof.Machine

/-- The sum of the stage shares of the arms on a header (R77). -/
def State.stageSum (s : State) (h : HeaderId) : Nat :=
  (allArms.map fun a => if (s.armCfg a).header = h then stageShare (s.armCfg a) (s.arm a) else 0).sum

/-- Own steady share on every header is the sum of the stage shares of its arms (R77). -/
def ShareLaw (s : State) : Prop := ∀ h, (s.header h).ownShare = s.stageSum h

/-- No arm is open and flowing: every arm CLOSED or CLOSING (8.1). -/
def State.noFlow (s : State) : Prop := ∀ a, (s.arm a).stage.flowing = false

/-- Every claim slot FREE (R79). -/
def State.slotsFree (s : State) : Prop := ∀ h, (s.header h).slot = none

/-- The part takes no part in loading: the RESTART line asserted, or CONFIG FAULT (R180, R181). -/
def State.down (s : State) : Prop := s.restart = true ∨ s.station = .configFault

/-- With a permissive withdrawn no arm flows and no claim is held (R158, R87); while the part is down it is not RUNNING,
does not listen, and the same holds (R29, R139, R180). A stage 5 that waits does so for the RESTART line (R178). -/
structure FlowLaw (s : State) : Prop where
  withdrawn : s.monitor.withdrawn = true → s.noFlow ∧ s.slotsFree
  down : s.down → s.station ≠ .running ∧ s.listenTimer = none ∧ s.noFlow ∧ s.slotsFree
  waits : s.stage5Waits = true → s.restart = true ∧ s.station ≠ .configFault

/-- A session CHECKING or ADMITTED has a permit that is neither revoked nor past its expiry day, the date being known
(R37, R45, R47). -/
def AdmissionLaw (s : State) : Prop :=
  s.session.state = .checking ∨ s.session.state = .admitted →
    s.clock.dateKnown = true ∧
      ∃ p, s.session.permit = some p ∧ s.clock.day ≤ p.expiry ∧ ∀ r ∈ s.revoked, r.permit ≠ p.id

/-- TERMINAL_STOP stands exactly while the stop set is non-empty (R27, R161); while stage 5 waits for the RESTART line
the set is empty (R178). -/
structure StopLaw (s : State) : Prop where
  terminal : s.monitor.terminal = s.stopSetNonempty
  waits : s.stage5Waits = true → s.restart = true ∧ s.station ≠ .configFault ∧ s.stopSetNonempty = false

/-- The transmit queue holds at most 8 frames, the attempt count stays below 16, the transmitter is EMPTY exactly with
an empty queue, and BACKOFF has 1 to 16 slots to wait (R4, R6, R8). -/
structure Link.Sound (l : Link) : Prop where
  room : l.queue.length ≤ 8
  attempts : l.attempts < 16
  empty : l.tx = .empty ↔ l.queue = []
  slots : l.tx = .backoff → 1 ≤ l.wait ∧ l.wait ≤ 16

/-- Every frame in the transmit queue has a serial number already given out (log 31). -/
def Link.Numbered (l : Link) : Prop := ∀ f ∈ l.queue, f.id < l.nextId

/-- Behind the front frame at most one STATE and at most one STOP wait (R9; log 64). -/
structure Link.Orderly (l : Link) : Prop where
  states : ((l.queue.drop 1).filter TxFrame.isState).length ≤ 1
  stops : ((l.queue.drop 1).filter TxFrame.isStop).length ≤ 1

/-- The write queue holds at most 4 writes, and its timer runs exactly while a write is in progress (R183, R184). -/
structure Retention.Sound (r : Retention) : Prop where
  room : r.queue.length ≤ 4
  timer : r.writeTimer = none ↔ r.queue = []

/-- The retention memory is in its canonical form (log 5). -/
def MemoryLaw (s : State) : Prop := Memory.wf s.retention.mem = true

/-! ## Words of the statements -/

/-- The receiver takes a complete frame (R12, R13): frames are received, the transmitter is not SENDING, and the frame is
a good one from another station. -/
structure State.Takes (s : State) (frame : List Byte) (p : StationId) (f : Frame) : Prop where
  opened : s.linkOpen = true
  hunts : s.link.rx ≠ .skip
  quiet : s.link.tx ≠ .sending
  good : parseFrame frame = some (p, f)
  other : p ≠ s.cfg.station

/-- The receiver in SKIP with the frame in its buffer (R12). -/
def State.dropped (s : State) (frame : List Byte) : State :=
  { s with link := { s.link with rx := .skip, buffer := frame } }

/-- A good frame delivered: the receiver in SKIP, its sender's entry FRESH and heard now (R12, R14, R21). -/
def State.heardFrom (s : State) (frame : List Byte) (p : StationId) : State :=
  { s.dropped frame with peers := s.peers.set p { s.peers[p] with fresh := .fresh, heard := some s.now } }

/-- The panel port takes a request to its owner: not ANSWERING, no frame being discarded, not CONFIG FAULT, the RESTART line
not asserted (R181, R185). -/
structure State.Asks (s : State) : Prop where
  port : s.panel.port ≠ .answering
  clear : s.panel.discarding = false
  station : s.station ≠ .configFault
  restart : s.restart = false

/-- A request has been taken: a running idle timer has its full limit again, a stopped one stays stopped (R49). -/
def State.asked (s : State) : State :=
  { s with session := { s.session with idle := s.session.idle.map fun _ => s.now + s.cfg.idleLimit * 1000 } }

/-- The first of a list of tests that holds. -/
def firstOf (tests : List (Bool × Reason)) : Option Reason := (tests.find? (·.1)).map (·.2)

/-- The part with an answer on the panel line (R185). -/
def State.answered (s : State) (a : Answer) : State := { s with panel := ⟨.answering, some a, false⟩ }

/-- The transmit queue less its front frame (R7). -/
def Link.frontGone (l : Link) (rest : List TxFrame) : Link :=
  { l with
    queue := rest
    attempts := 0
    wait := 0
    tx := if rest = [] then .empty else .ready }

/-- Everything that is not the link controller or the STATE period timer is as it was. -/
def State.SameButLink (s t : State) : Prop := t = { s with link := t.link, periodTimer := t.periodTimer }

/-- Nothing of the session, its batches and the retention memory has changed. -/
structure State.SameLoad (s t : State) : Prop where
  cfg : t.cfg = s.cfg
  session : t.session = s.session
  batches : t.batches = s.batches
  startQueue : t.startQueue = s.startQueue
  notes : t.notes = s.notes
  retention : t.retention = s.retention
  clock : t.clock = s.clock
  peers : t.peers = s.peers
  revoked : t.revoked = s.revoked

/-- The low claim an arm had in its header's slot, of a frame already numbered, is not in it any more (R66, R87). -/
def State.ClaimGone (s t : State) (a : ArmId) : Prop :=
  ∀ x, (s.header (s.armCfg a).header).slot = some x → x.arm = a → x.kind = .low → x.frameId < s.link.nextId →
    (t.header (s.armCfg a).header).slot ≠ some x

/-- A permissive has been withdrawn (R158): every flowing arm is CLOSING, FAST, with this cause, in SETTLE with both
solenoids off and its share held; other arms keep their stage; every shot is ended and every claim slot FREE. -/
structure State.FastStopped (s t : State) (cause : Reason) : Prop where
  closes : ∀ a, (s.arm a).stage.flowing = true →
    (t.arm a).stage = .closing ∧ (t.arm a).close = some ⟨.stop, cause, .fast, .settle⟩ ∧
      (t.arm a).settle = some (s.now + 2000) ∧ (t.arm a).closeLimit = some (s.now + 30000) ∧
      (t.arm a).heldShare = stageShare (s.armCfg a) (s.arm a) ∧ t.lowSolenoid a = false ∧ t.mainSolenoid a = false
  stays : ∀ a, (s.arm a).stage.flowing = false → (t.arm a).stage = (s.arm a).stage
  shots : ∀ i, (t.injector i).firing = false
  slots : t.slotsFree
  owner : ∀ a, (t.arm a).owner = (s.arm a).owner ∧ (t.arm a).live = (s.arm a).live

/-- A close in STEP-DOWN has been cut (R133): SETTLE with its two timers, both solenoids off, kind, cause and manner kept. -/
def State.StepDownCut (s t : State) (a : ArmId) : Prop :=
  ∀ cl, (s.arm a).stage = .closing → (s.arm a).close = some cl → cl.phase = .stepDown →
    (t.arm a).stage = .closing ∧ (t.arm a).close = some { cl with phase := .settle } ∧ (t.arm a).stepDown = none ∧
      (t.arm a).settle = some (s.now + 2000) ∧ (t.arm a).closeLimit = some (s.now + 30000) ∧
      t.lowSolenoid a = false ∧ t.mainSolenoid a = false

/-- A REVOKE in the revocation list (R43, R44): a held entry takes the later end day and keeps its place; otherwise the entry
is added as the newest, and a full list gives up the first with the earliest end day, the added one included. -/
structure RevokedBy (old new : List Revocation) (permit endDay : Nat) : Prop where
  held : (∃ r ∈ old, r.permit = permit) →
    new = old.map fun r => if r.permit = permit then { r with endDay := max r.endDay endDay } else r
  added : (∀ r ∈ old, r.permit ≠ permit) → old.length < 64 → new = old ++ [⟨permit, endDay⟩]
  full : (∀ r ∈ old, r.permit ≠ permit) → 64 ≤ old.length →
    ∃ before r after, old ++ [(⟨permit, endDay⟩ : Revocation)] = before ++ r :: after ∧
      (∀ q ∈ before, r.endDay < q.endDay) ∧ (∀ q ∈ after, r.endDay ≤ q.endDay) ∧ new = before ++ after

/-! ### Frames handed over -/

/-- The link controller takes a frame from this station (R8, R16, R19). -/
structure State.Sends (s : State) : Prop where
  opened : s.linkOpen = true
  clear : s.station ≠ .clash
  room : s.link.queue.length < 8

/-- A STOP has entered a queue with no STOP waiting, the transmitter in `tx` (R8, R9): behind the frame in progress, else in
front of every frame. A front STATE that it makes wait while a newer one waits behind is gone (log 64). -/
structure StopEntered (tx : TxState) (f : TxFrame) (old new : List TxFrame) : Prop where
  empty : old = [] → new = [f]
  behind : tx = .sending ∨ tx = .backoff → ∀ front rest, old = front :: rest → new = front :: f :: rest
  first : tx ≠ .sending → tx ≠ .backoff → ∀ front rest, old = front :: rest →
    (front.tag ≠ .state ∨ (∀ g ∈ rest, g.tag ≠ .state)) → new = f :: old
  newer : tx ≠ .sending → tx ≠ .backoff → ∀ front rest, old = front :: rest →
    front.tag = .state → (∃ g ∈ rest, g.tag = .state) → new = f :: rest

/-- A STATE has entered a queue, the transmitter in `tx` (R8, R9, R10). One that clears no stop flag takes the place of the
STATE that waits behind the front (log 11), else that of a front STATE not on the pair, else the tail, and a full queue turns
it away. One that does clear it (`clears`) enters behind the frame in progress or the front STATE, if there is one, and the
STOPs at the head, the STATE that waited behind the front being gone. -/
structure StateEntered (tx : TxState) (clears : Bool) (f : TxFrame) (old new : List TxFrame) : Prop where
  empty : old = [] → new = [f]
  inPlace : clears = false → ∀ front before g after, old = front :: before ++ g :: after → g.tag = .state →
    (∀ x ∈ before, x.tag ≠ .state) → new = front :: before ++ f :: after
  atFront : clears = false → tx ≠ .sending → ∀ front rest, old = front :: rest → front.tag = .state →
    (∀ x ∈ rest, x.tag ≠ .state) → new = f :: rest
  atTail : clears = false → ∀ front rest, old = front :: rest → (front.tag ≠ .state ∨ tx = .sending) →
    (∀ x ∈ rest, x.tag ≠ .state) → new = if old.length < 8 then old ++ [f] else old
  behindFront : clears = true → ∀ front rest stops more, old = front :: rest →
    (tx = .sending ∨ tx = .backoff ∨ front.tag = .state) → rest.filter (fun x => !x.isState) = stops ++ more →
    (∀ x ∈ stops, x.tag = .stop) → (∀ x, more.head? = some x → x.tag ≠ .stop) → (stops ++ more).length < 7 →
    new = front :: stops ++ f :: more
  beforeFront : clears = true → ∀ front rest stops more, old = front :: rest → tx ≠ .sending → tx ≠ .backoff →
    front.tag ≠ .state → front :: rest.filter (fun x => !x.isState) = stops ++ more → (∀ x ∈ stops, x.tag = .stop) →
    (∀ x, more.head? = some x → x.tag ≠ .stop) → (stops ++ more).length < 8 → new = stops ++ f :: more
  full : clears = true → ∀ front rest, old = front :: rest → 7 ≤ (rest.filter fun x => !x.isState).length → new = old

/-- A STATE of this moment's figures is in the transmit queue (R30, R31). -/
def State.Announced (t : State) : Prop :=
  ∃ f ∈ t.link.queue, f.tag = .state ∧ f.image = lineImage t.cfg.station 1 t.statePayload

/-- A note's head within its ranges (R190; R192's end reason codes, the 255 of an absent reason not among them, log 65). -/
structure NoteHeadInRange (bs : List Byte) : Prop where
  number : 1 ≤ fieldAt bs 0 3 ∧ fieldAt bs 0 3 ≤ 999999
  station : fieldAt bs 3 1 ≤ 31
  permit : 1 ≤ fieldAt bs 4 4
  seconds : fieldAt bs 16 3 ≤ 86399 ∧ fieldAt bs 21 3 ≤ 86399
  reason : fieldAt bs 24 1 ∈ [2, 6, 7, 17, 28, 29, 30, 31]
  lines : fieldAt bs 25 1 ≤ 7

/-- A note line of the length its presence mask gives, every figure in its range (R190; the mask's and the flags' unused bits
clear, log 24; the last arm 0 to 3 and never the 255 of an absent arm, log 59). -/
structure NoteLineInRange (line : List Byte) : Prop where
  mask : fieldAt line 24 1 < 4
  length : line.length = 25 + (if fieldAt line 24 1 % 2 = 1 then 2 else 0) + (if 2 ≤ fieldAt line 24 1 then 16 else 0)
  comp : 1 ≤ fieldAt line 0 1 ∧ fieldAt line 0 1 ≤ 8
  grade : fieldAt line 1 1 ≤ 15
  arm : fieldAt line 2 1 ≤ 3
  preset : 1 ≤ fieldAt line 3 3 ∧ fieldAt line 3 3 ≤ 99999
  flags : fieldAt line 23 1 < 32
  temperature : fieldAt line 24 1 % 2 = 1 → -5000 ≤ (BitVec.ofNat 16 (fieldAt line 25 2)).toInt ∧
    (BitVec.ofNat 16 (fieldAt line 25 2)).toInt ≤ 8000
  additive : 2 ≤ fieldAt line 24 1 → fieldAt line (if fieldAt line 24 1 % 2 = 1 then 27 else 25) 1 ≤ 3

/-! ### Claims -/

/-- The STEP-UP claim an arm takes with its header's FREE slot while own steady share there is `own` (R79, R82). -/
def State.stepUpClaim (s : State) (a : ArmId) (own id : Nat) : Claim :=
  let inc := (s.armCfg a).fullShare - (s.armCfg a).lowShare
  ⟨a, .stepUp, inc, own + inc, .queued, id⟩

/-- The LOW CLAIM an arm takes with its header's FREE slot (R79, R82). -/
def State.lowClaim (s : State) (a : ArmId) : Claim :=
  let c := s.armCfg a
  ⟨a, .low, c.lowShare, s.headers[c.header].ownShare + c.lowShare, .queued, s.link.nextId⟩

/-- An arm passes the tests of R65 for a batch that has not started. -/
structure State.PassesTests (s : State) (b : Batch) (a : ArmId) : Prop where
  enabled : (s.armCfg a).enabled = true
  header : (s.armCfg a).header = (s.gradeCfg b.grade).header
  named : b.named = none ∨ b.named = some a
  coupled : (s.arm a).coupled = true
  service : (s.arm a).inService = true
  closed : (s.arm a).stage = .closed
  free : (s.arm a).reserved = none
  additive : (s.gradeCfg b.grade).additive = none ∨ ∃ j, s.gradeInjector a b.grade = some j ∧
    (s.session.latches[j] = false ∨ s.monitor.bypass = true)

/-- A scan gives the one batch of the queue, `k`, which has not started, the arm `a` (R64, R65): claims may be taken, the
batch is without a reservation, its header's slot FREE with room for the LOW CLAIM, and `a` the lowest arm that passes. -/
structure State.ScanGives (s : State) (k : CompId) (b : Batch) (a : ArmId) : Prop where
  may : s.mayClaim = true
  queued : s.startQueue = [k] ∧ s.batches[k] = some b ∧ b.started = false
  unreserved : ∀ i, (s.arm i).reserved ≠ some k
  passes : s.PassesTests b a
  lowest : ∀ i, s.PassesTests b i → a ≤ i
  slot : s.headers[(s.armCfg a).header].slot = none ∧ s.headers[(s.armCfg a).header].retryWait = false
  fits : (s.lowClaim a).total ≤ (s.headerCfg (s.armCfg a).header).capacity
  room : s.link.queue.length < 8

/-- A claim's CLAIM frame (R82, R188). -/
def State.claimFrame (s : State) (c : Claim) : TxFrame :=
  let h := (s.armCfg c.arm).header
  ⟨c.frameId, .claim h, lineImage s.cfg.station 2
    (beBytes 1 h.val ++ beBytes 1 (c.total - 1) ++ beBytes 1 s.sessionClass.val)⟩

/-- A slot set FREE has been passed on (R81), no batch being left for it: to the lowest of the arms that wait for it,
whose total fits the capacity, with `room` places for frames before its CLAIM; to none where none waits. -/
structure State.PassedOn (s t : State) (h : HeaderId) (own room : Nat) (waits : ArmId → Prop) : Prop where
  free : (∀ a, ¬ waits a) → t.headers[h].slot = none
  taken : ∀ a, waits a → (∀ b, waits b → a ≤ b) → s.mayClaim = true → s.linkOpen = true →
    s.link.queue.length + room < 8 →
    own + ((s.armCfg a).fullShare - (s.armCfg a).lowShare) ≤ (s.headerCfg h).capacity →
    ∃ id, t.headers[h].slot = some (s.stepUpClaim a own id) ∧ (t.arm a).stepUp = .inClaim ∧
      s.claimFrame (s.stepUpClaim a own id) ∈ t.link.queue

/-- An arm that a retry trigger on its header makes or finds WAITING (R90). -/
def State.Waits (s : State) (h : HeaderId) (a : ArmId) : Prop :=
  (s.armCfg a).header = h ∧ ((s.arm a).stepUp = .waiting ∨ (s.arm a).stepUp = .retryWait)

/-- Retry timers stopped and retry wait flags clear on the headers `on` (R90, R91). -/
def State.triggered (s : State) (on : HeaderId → Bool) : State :=
  { s with headers := vec8 fun h =>
      if on h then { s.header h with retryTimer := none, retryWait := false } else s.header h }

/-- What retry triggers on the headers `on` do with the start queue empty (R81, R90, R91): with no arm waiting there
nothing more than `triggered`; a RETRY WAIT arm becomes WAITING behind a slot that is held; a FREE slot goes to the
lowest arm that waits for it, with its CLAIM at the tail of the queue, the others WAITING. -/
structure State.Retried (s t : State) (on : HeaderId → Bool) : Prop where
  quiet : (∀ a h, on h = true → ¬ s.Waits h a) → t = s.triggered on
  wakes : ∀ a h, on h = true → s.Waits h a → s.headers[h].slot ≠ none → (t.arm a).stepUp = .waiting
  passes : ∀ a h, on h = true → (∀ k, on k = true → k = h) → s.Waits h a → (∀ b, s.Waits h b → a ≤ b) →
    s.headers[h].slot = none → s.mayClaim = true → s.Sends →
    (s.stepUpClaim a s.headers[h].ownShare s.link.nextId).total ≤ (s.headerCfg h).capacity →
    let c := s.stepUpClaim a s.headers[h].ownShare s.link.nextId
    t.headers[h] = { s.headers[h] with slot := some c, retryTimer := none, retryWait := false } ∧
      (t.arm a).stepUp = .inClaim ∧ t.link.queue = s.link.queue ++ [s.claimFrame c] ∧
      ∀ b, b ≠ a → s.Waits h b → (t.arm b).stepUp = .waiting

/-- The peers' claims on a header that the walk takes before the own claim, in its order (R84): higher classes first, then
the own class below the own number, each class by station. -/
structure State.WalkOrder (s : State) (h : HeaderId) (order : List StationId) : Prop where
  members : ∀ q : StationId, q ∈ order ↔ q ≠ s.cfg.station ∧ ∃ x, s.peers[q].claims[h] = some x ∧
    (s.sessionClass < x.cls ∨ (x.cls = s.sessionClass ∧ q < s.cfg.station))
  sorted : order.Pairwise fun p q : StationId => ∀ x y, s.peers[p].claims[h] = some x → s.peers[q].claims[h] = some y →
    y.cls < x.cls ∨ (x.cls = y.cls ∧ p < q)

/-- What those claims leave of the budget (R84): each claim's increase over its peer's steady share, floored at 0, is taken
where it fits and passed over where it does not. -/
def State.walkLeft (s : State) (h : HeaderId) (order : List StationId) : Int :=
  order.foldl
    (fun left q =>
      match s.peers[q].claims[h] with
      | some x =>
        if ((x.total - s.peers[q].shares[h] : Nat) : Int) ≤ left then left - (x.total - s.peers[q].shares[h] : Nat)
        else left
      | none => left)
    (((s.headerCfg h).capacity : Int) - (s.headers[h].ownShare + s.peerTotal h : Nat))

/-! ### Slices and windows -/

/-- The gross increment of a full slice (R103, R104, R114): the slice's pulses times 10 times the meter factor its rate selects,
with the remainder carried, divided by the K-factor. -/
def State.fullSliceGain (s : State) (a : ArmId) : Nat :=
  let c := s.armCfg a
  let mf := if c.slice * 60000000 / (c.k * max 1 (s.sliceElapsed a)) < c.lowFlow then c.mfLow else c.mfHigh
  (c.slice * 10 * mf + (s.arm a).live.grossRem) / c.k

/-- The volumes of a slice of `p` pulses and duration `d` on an arm (R103, R104, R108, R114 to R118, R122): nothing is lost in
either division, the figures and both totalizers grow by the increments, each figure while it stays within its width
(log 22). -/
def State.SliceAdded (s t : State) (a : ArmId) (p d : Nat) : Prop :=
  let c := s.armCfg a
  let m := s.arm a
  let mf := if p * 60000000 / (c.k * d) < c.lowFlow then c.mfLow else c.mfHigh
  let reading := m.lastGood.getD 1500
  let ctl := ctlUsed (s.headerCfg c.header).alpha (s.headerCfg c.header).gamma reading
  ∃ dG dS, (0 < c.k → (t.arm a).live.grossRem < c.k) ∧
    c.k * dG + (t.arm a).live.grossRem = p * 10 * mf + m.live.grossRem ∧
    (t.arm a).live.stdRem < 1000000 ∧ 1000000 * dS + (t.arm a).live.stdRem = dG * ctl + m.live.stdRem ∧
    (m.live.gross + dG < 2 ^ 48 → (t.arm a).live.gross = m.live.gross + dG) ∧
    (m.live.std + dS < 2 ^ 48 → (t.arm a).live.std = m.live.std + dS) ∧
    (-2 ^ 63 ≤ m.live.weighted + dG * reading → m.live.weighted + dG * reading < 2 ^ 63 →
      (t.arm a).live.weighted = m.live.weighted + dG * reading) ∧
    (t.arm a).grossTotal.toNat = (m.grossTotal.toNat + dG) % 2 ^ 48 ∧
    (t.arm a).stdTotal.toNat = (m.stdTotal.toNat + dS) % 2 ^ 48

/-- A meter channel from `m` to `m'` by a start of its converter (R107): begun where it is IDLE, dropped where it is
CONVERTING. Where the 20 ms are over it is IDLE again, and the result of the conversion that has ended is owed (R108, log
47). -/
structure Converts (now : Nat) (m m' : Arm) : Prop where
  idle : m.converter = none → m'.converter = some (now + 20) ∧ m'.resultsOwed = m.resultsOwed
  ended : ∀ e, m.converter = some e → e ≤ now →
    m'.converter = some (now + 20) ∧ m'.resultsOwed = m.resultsOwed + 1
  running : ∀ e, m.converter = some e → now < e → m'.converter = some e ∧ m'.resultsOwed = m.resultsOwed

/-- The pulse-error count after a slice of `p` pulses with the B count `b` (R105), and whether it raises the METER fault. -/
def pulseErrors (limit old p b : Nat) : Nat × Bool :=
  let m := (b - p) + (p - b)
  let count := if 1 < m then min 4294967295 (old + m) else old
  (count, decide (1 < m ∧ limit ≠ 0 ∧ limit < count))

/-- The bad shot run after an OPEN window has been judged (R148): short below E × (100 - t) with the cut marker clear, over
above E × (100 + t). -/
def badRunAfter (c : InjectorCfg) (w : Window) (run : Nat) : Nat :=
  let e := max 1 (c.shot * c.feedbackK / 1000)
  if (w.count * 100 < e * (100 - c.tolerance) ∧ w.cut = false) ∨ e * (100 + c.tolerance) < w.count * 100 then
    min 3 (run + 1)
  else if w.cut then run else 0

/-- A body carries a figure in the `w` bytes from offset `off`: saturated where it is too wide, all ones where it is absent
(R187, R192). -/
def Carries (bs : List Byte) (off w : Nat) (x : Option Nat) : Prop :=
  fieldAt bs off w = (match x with
    | some n => min n (256 ^ w - 1)
    | none => 256 ^ w - 1)

/-! ### Notes -/

/-- The lines of the session's note (R171, R73): of the batches that its completion keeps, in compartment order. -/
def State.noteLines (s : State) : List (List Byte) :=
  allComps.filterMap fun k =>
    match s.batches[k] with
    | some b =>
      if b.state = .planned ∨ (b.state = .waiting ∧ b.started = false) then none else some (s.noteLine k b)
    | none => none

/-- `next` is the first number, from `first` on and from 999,999 to 1, that no stored note holds (R170): every number passed
over is held. -/
def FirstFree (store : List StoredNote) (first next : Nat) : Prop :=
  ∃ j, next = (first - 1 + j) % 999999 + 1 ∧ (∀ x ∈ store, x.number ≠ next) ∧
    ∀ i < j, ∃ x ∈ store, x.number = (first - 1 + i) % 999999 + 1

/-- A note line's parts after its first fields (R121, R152, R187, R190): flow time, line flags, presence mask, and the parts
that the mask names, the average temperature while gross is above 0 and the additive block of an additive grade. -/
structure State.NoteLineParts (s : State) (b : Batch) (f : Accum) (line : List Byte) : Prop where
  flow : fieldAt line 18 4 = min f.flow (2 ^ 32 - 1)
  flags : fieldAt line 23 1 = b.flags.tempHeld.toNat + 2 * b.flags.ctlClamped.toNat + 4 * b.flags.short.toNat +
    8 * b.flags.bypassed.toNat + 16 * b.flags.valveLeak.toNat
  mask : fieldAt line 24 1 = (if 0 < f.gross then 1 else 0) + if (s.gradeCfg b.grade).additive = none then 0 else 2
  average : 0 < f.gross → (BitVec.ofNat 16 (fieldAt line 25 2)).toInt = roundDiv f.weighted f.gross
  plain : (s.gradeCfg b.grade).additive = none → line.length = if 0 < f.gross then 27 else 25
  additive : ∀ code, (s.gradeCfg b.grade).additive = some code →
    let o := if 0 < f.gross then 27 else 25
    line.length = o + 16 ∧ Carries line o 1 (some code.val) ∧ Carries line (o + 1) 5 (some f.commanded) ∧
      (∀ a i, b.lastArm = some a → s.gradeInjector a b.grade = some i →
        Carries line (o + 6) 5 (some (f.feedback * 1000 / (s.injectorCfg i).feedbackK))) ∧
      Carries line (o + 11) 5 (some (f.owed / 100))

/-- The head of a note record (R171, R190), the session's and the clock's figures at their places. -/
structure State.NoteHead (s : State) (number : Nat) (reason : Option Reason) (record : List Byte) : Prop where
  number : fieldAt record 0 3 = number % 2 ^ 24
  station : fieldAt record 3 1 = s.cfg.station.val
  permit : ∀ p, s.session.permit = some p → fieldAt record 4 4 = p.id % 2 ^ 32 ∧ fieldAt record 8 2 = p.carrier % 2 ^ 16
  tanker : ∀ g, s.session.tag = some g → fieldAt record 10 4 = g.id % 2 ^ 32
  start : ∀ d n, s.session.start = some (d, n) →
    fieldAt record 14 2 = d % 2 ^ 16 ∧ fieldAt record 16 3 = n % 2 ^ 24
  closed : fieldAt record 19 2 = s.clock.day % 2 ^ 16 ∧ fieldAt record 21 3 = s.clock.second % 2 ^ 24
  reason : ∀ r, reason = some r → fieldAt record 24 1 = r.code

/-- A note record of the session (R171, R190): its head, its line count and its lines. -/
structure State.NoteOf (s : State) (number : Nat) (reason : Option Reason) (record : List Byte) : Prop where
  head : s.NoteHead number reason record
  count : fieldAt record 25 1 = s.noteLines.length - 1
  lines : record.drop 26 = s.noteLines.flatten

/-! ### Configuration image -/

/-- A stored value clamped to a range (R1, R179). -/
def clampTo (lo hi n : Nat) : Nat := max lo (min hi n)

/-- A stored value outside a range. -/
def outside (lo hi n : Nat) : Bool := decide (n < lo ∨ hi < n)

/-- A configuration as R179 and R191 take it from the 274 bytes of an image: every figure at its place, clamped to its range,
S and the low-flow threshold as stored, a stored deadman interval of 0 as 120 s. -/
structure ClampedImage (bs : List Byte) (c : ConfigImage) : Prop where
  station : c.station.val = clampTo 0 31 (fieldAt bs 0 1)
  headers : ∀ h : HeaderId, let o := 1 + 6 * h.val
    c.headers[h].enabled = decide (128 ≤ fieldAt bs o 1) ∧ c.headers[h].group.val = fieldAt bs o 1 % 8 ∧
      c.headers[h].capacity = clampTo 1 250 (fieldAt bs (o + 1) 1) ∧
      c.headers[h].alpha = clampTo 0 30000 (fieldAt bs (o + 2) 2) ∧
      c.headers[h].gamma = clampTo 0 10000 (fieldAt bs (o + 4) 2)
  grades : ∀ g : GradeId, let o := 49 + 4 * g.val
    c.grades[g].enabled = decide (128 ≤ fieldAt bs o 1) ∧ c.grades[g].header.val = fieldAt bs o 1 % 8 ∧
      c.grades[g].additive.map Fin.val = (if fieldAt bs (o + 1) 1 < 4 then some (fieldAt bs (o + 1) 1) else none) ∧
      c.grades[g].ratio = clampTo 1 5000 (fieldAt bs (o + 2) 2)
  arms : ∀ a : ArmId, let o := 113 + 25 * a.val
    c.arms[a].enabled = decide (128 ≤ fieldAt bs o 1) ∧ c.arms[a].header.val = fieldAt bs o 1 % 8 ∧
      c.arms[a].k = clampTo 1000 999999 (fieldAt bs (o + 1) 3) ∧
      c.arms[a].mfHigh = clampTo 9500 10500 (fieldAt bs (o + 4) 2) ∧
      c.arms[a].mfLow = clampTo 9500 10500 (fieldAt bs (o + 6) 2) ∧
      c.arms[a].lowFlow = fieldAt bs (o + 8) 2 ∧ c.arms[a].slice = fieldAt bs (o + 10) 2 ∧
      c.arms[a].lowShare = clampTo 1 10 (fieldAt bs (o + 12) 1) ∧
      c.arms[a].fullShare = clampTo 2 30 (fieldAt bs (o + 13) 1) ∧
      c.arms[a].startVol = clampTo 0 99999 (fieldAt bs (o + 14) 3) ∧
      c.arms[a].slowVol = clampTo 0 99999 (fieldAt bs (o + 17) 3) ∧
      c.arms[a].closeAhead = clampTo 0 2000 (fieldAt bs (o + 20) 2) ∧
      c.arms[a].yieldLock = clampTo 0 99999 (fieldAt bs (o + 22) 3)
  injectors : ∀ i : InjectorId, let o := 213 + 12 * i.val
    c.injectors[i].enabled = decide (128 ≤ fieldAt bs o 1) ∧ c.injectors[i].arm.val = fieldAt bs o 1 % 4 ∧
      c.injectors[i].code.val = clampTo 0 3 (fieldAt bs (o + 1) 1) ∧
      c.injectors[i].shot = clampTo 100 50000 (fieldAt bs (o + 2) 2) ∧
      c.injectors[i].width = clampTo 10 500 (fieldAt bs (o + 4) 2) ∧
      c.injectors[i].feedbackK = clampTo 1 9999 (fieldAt bs (o + 6) 2) ∧
      c.injectors[i].tolerance = clampTo 1 50 (fieldAt bs (o + 8) 1) ∧
      c.injectors[i].flush = clampTo 0 99999 (fieldAt bs (o + 9) 3)
  timers : c.deadman = (if fieldAt bs 261 2 = 0 then 120 else clampTo 30 300 (fieldAt bs 261 2)) ∧
    c.idleLimit = clampTo 60 1800 (fieldAt bs 263 2) ∧ c.pulseLimit = clampTo 0 1000 (fieldAt bs 268 2) ∧
    c.minBatch = clampTo 10 1000 (fieldAt bs 270 2)

/-- Some stored value of an image lies outside its range, or is a code that R179 replaces. A stored deadman interval of 0
counts as none (log 18). -/
def ImageOutside (bs : List Byte) : Prop :=
  let off := fun (o w lo hi : Nat) => outside lo hi (fieldAt bs o w) = true
  off 0 1 0 31 ∨
  (∃ h : HeaderId, let o := 1 + 6 * h.val
    off (o + 1) 1 1 250 ∨ off (o + 2) 2 0 30000 ∨ off (o + 4) 2 0 10000) ∨
  (∃ g : GradeId, let o := 49 + 4 * g.val
    (4 ≤ fieldAt bs (o + 1) 1 ∧ fieldAt bs (o + 1) 1 ≤ 254) ∨ off (o + 2) 2 1 5000) ∨
  (∃ a : ArmId, let o := 113 + 25 * a.val
    off (o + 1) 3 1000 999999 ∨ off (o + 4) 2 9500 10500 ∨ off (o + 6) 2 9500 10500 ∨ off (o + 12) 1 1 10 ∨
      off (o + 13) 1 2 30 ∨ off (o + 14) 3 0 99999 ∨ off (o + 17) 3 0 99999 ∨ off (o + 20) 2 0 2000 ∨
      off (o + 22) 3 0 99999) ∨
  (∃ i : InjectorId, let o := 213 + 12 * i.val
    off (o + 1) 1 0 3 ∨ off (o + 2) 2 100 50000 ∨ off (o + 4) 2 10 500 ∨ off (o + 6) 2 1 9999 ∨ off (o + 8) 1 1 50 ∨
      off (o + 9) 3 0 99999) ∨
  (fieldAt bs 261 2 ≠ 0 ∧ off 261 2 30 300) ∨ off 263 2 60 1800 ∨ off 265 1 10 10 ∨ off 266 1 2 2 ∨ off 267 1 30 30 ∨
    off 268 2 0 1000 ∨ off 270 2 10 1000

/-! ### STATUS bodies -/

/-- A time left in whole seconds, none when stopped (R193). -/
def State.secondsOf (s : State) (t : Timer) : Option Nat := t.map fun d => (d - s.now) / 1000

/-- FRESH and STALE peers in station order (R23). -/
def State.summaryPeers (s : State) : List StationId :=
  (List.finRange 32).filter fun q => decide (q ≠ s.cfg.station ∧ s.peers[q].fresh ≠ .gone)

/-- The body of an answer to STATUS of the session kind (R193). -/
def State.SessionBody (s : State) (b : List Byte) : Prop :=
  let x := s.session
  let ps := s.summaryPeers
  let m := b.drop (25 + 12 * ps.length)
  let n := s.notes.store.length
  Carries b 0 1 (some (match x.state with | .none => 0 | .checking => 1 | .admitted => 2 | .ending => 3)) ∧
  Carries b 1 1 (x.outcome.map Reason.code) ∧ Carries b 2 4 (x.permit.map (·.id)) ∧
  Carries b 6 2 (x.permit.map (·.carrier)) ∧ Carries b 8 1 (x.permit.map (·.cls.val)) ∧
  Carries b 9 4 (x.tag.map (·.id)) ∧ Carries b 13 1 (x.tag.map fun g => g.fills.length - 1) ∧
  Carries b 14 2 (x.start.map (·.1)) ∧ Carries b 16 3 (x.start.map (·.2)) ∧
  Carries b 19 1 (x.endReason.map Reason.code) ∧ Carries b 20 2 (s.secondsOf x.idle) ∧
  Carries b 22 2 (s.secondsOf x.socketTimer) ∧ Carries b 24 1 (some ps.length) ∧
  (∀ (i : Nat) (q : StationId), ps[i]? = some q → let o := 25 + 12 * i
    Carries b o 1 (some q.val) ∧ Carries b (o + 1) 1 (some (if s.peers[q].fresh = .fresh then 0 else 1)) ∧
      Carries b (o + 2) 1 (some s.peers[q].cls.val) ∧ Carries b (o + 3) 1 (some s.peers[q].stop.toNat) ∧
      ∀ h : HeaderId, Carries b (o + 4 + h.val) 1 (some s.peers[q].shares[h])) ∧
  Carries m 0 1 (some (s.monitor.groundOut.toNat + 2 * s.monitor.overfillOut.toNat + 4 * s.monitor.stopInForce.toNat +
    8 * s.monitor.terminal.toNat + 16 * s.monitor.deadmanOut.toNat)) ∧
  Carries m 1 1 (some s.monitor.ground.toNat) ∧
  (∀ k : Fin 8, Carries m (2 + k.val) 1 (some (match s.monitor.sensors[k] with | .dry => 0 | .wet => 1 | .fault => 2))) ∧
  Carries m 10 1 (some s.monitor.stopInput.toNat) ∧ Carries m 11 1 (some s.monitor.stopLatch.toNat) ∧
  (∀ q : StationId, (fieldAt m 12 4).testBit q.val = s.inStopSet q) ∧
  Carries m 16 1 (some (match s.monitor.deadman with
    | .stopped => 0 | .running => 1 | .warning => 2 | .expired => 3 | .jammed => 4)) ∧
  Carries m 17 2 (s.secondsOf s.monitor.deadmanTimer) ∧
  Carries m 19 1 (some (s.monitor.counted[0].toNat + 2 * s.monitor.counted[1].toNat)) ∧
  Carries m 20 1 (some s.monitor.horn.toNat) ∧ Carries m 21 1 (some s.monitor.bypass.toNat) ∧
  Carries m 22 1 (some n) ∧
  (∀ (i : Nat) (y : StoredNote), s.notes.store[i]? = some y → Carries m (23 + 3 * i) 3 (some y.number)) ∧
  Carries m (23 + 3 * n) 3 (some s.notes.nextNumber) ∧ Carries m (26 + 3 * n) 1 (some s.cfgClamped.toNat) ∧
  Carries m (27 + 3 * n) 1 (some s.retention.fault.toNat) ∧ m.length = 28 + 3 * n

/-- The body of an answer to STATUS of the compartment kind (R193). -/
def State.CompartmentBody (s : State) (k : CompId) (r : Batch) (b : List Byte) : Prop :=
  let f := s.figures k r
  Carries b 0 1 (some (match r.state with
    | .planned => 0 | .waiting => 1 | .active => 2 | .suspended => 3 | .done => 4 | .ended => 5)) ∧
  Carries b 1 1 (some r.grade.val) ∧ Carries b 2 3 (some r.preset) ∧ Carries b 5 3 r.pendPreset ∧
  Carries b 8 1 (r.named.map Fin.val) ∧ Carries b 9 1 (r.lastArm.map Fin.val) ∧
  Carries b 10 1 ((s.reservedArm k).map Fin.val) ∧
  Carries b 11 1 (if k ∈ s.startQueue then some (s.startQueue.idxOf k + 1) else none) ∧
  Carries b 12 1 (r.suspReason.map Reason.code) ∧ Carries b 13 1 (some r.suspCount) ∧
  Carries b 14 1 (some (r.flags.tempHeld.toNat + 2 * r.flags.ctlClamped.toNat + 4 * r.flags.short.toNat +
    8 * r.flags.bypassed.toNat + 16 * r.flags.valveLeak.toNat)) ∧
  Carries b 15 6 (some f.gross) ∧ Carries b 21 6 (some f.std) ∧ Carries b 27 4 (some f.flow) ∧
  Carries b 31 6 (some (r.preset * 100 - f.gross)) ∧
  ((s.gradeCfg r.grade).additive = none → b.length = 37) ∧
  ((s.gradeCfg r.grade).additive ≠ none → Carries b 37 8 (some f.owed) ∧ Carries b 45 5 (some f.commanded) ∧
    Carries b 50 4 (some f.feedback) ∧ b.length = 54)

/-- The body of an answer to STATUS of the arm kind (R193). -/
def State.ArmBody (s : State) (a : ArmId) (b : List Byte) : Prop :=
  let m := s.arm a
  let closes := if m.stage = .closing then m.close else none
  let is := (List.finRange 4).filter fun i => (s.injectorCfg i).enabled && decide ((s.injectorCfg i).arm = a)
  ((s.armCfg a).enabled = false → b = [0]) ∧
  ((s.armCfg a).enabled = true →
    Carries b 0 1 (some 1) ∧ Carries b 1 1 (some (!m.meterCause && !m.leakCause).toNat) ∧
    Carries b 2 1 (if m.meterCause || m.leakCause then some (m.meterCause.toNat + 2 * m.leakCause.toNat) else none) ∧
    Carries b 3 4 (some m.lastRate) ∧ Carries b 7 2 (some ((s.armCfg a).slice - m.sliceCounter)) ∧
    Carries b 9 1 (some m.lastGood.isSome.toNat) ∧
    (∀ r, -32768 ≤ m.lastGood.getD 0 → m.lastGood.getD 0 ≤ 32767 → r = m.lastGood.getD 0 →
      (BitVec.ofNat 16 (fieldAt b 10 2)).toInt = r) ∧
    Carries b 12 1 (some m.lastDiscarded.toNat) ∧ Carries b 13 2 (s.secondsOf m.noFlow) ∧
    Carries b 15 6 (some m.grossTotal.toNat) ∧ Carries b 21 6 (some m.stdTotal.toNat) ∧
    Carries b 27 1 (some (match m.stage with
      | .closed => 0 | .low => 1 | .reduced => 2 | .full => 3 | .slowdown => 4 | .closing => 5)) ∧
    Carries b 28 1 (some ((s.lowSolenoid a).toNat + 2 * (s.mainSolenoid a).toNat)) ∧
    Carries b 29 1 (m.owner.map fun k => k.val + 1) ∧ Carries b 30 1 (m.reserved.map fun k => k.val + 1) ∧
    (∀ k r, m.owner = some k → s.batches[k] = some r →
      Carries b 31 6 (some (r.preset * 100 - (s.figures k r).gross))) ∧
    (m.owner = none → Carries b 31 6 none) ∧ Carries b 37 2 (some m.closeAhead) ∧
    (m.stage = .closing ∨ m.close = none →
      Carries b 39 1 (closes.map fun c => match c.kind with | .normal => 0 | .stop => 1) ∧
      Carries b 40 1 (closes.map fun c => c.cause.code) ∧
      Carries b 41 1 (closes.map fun c => match c.manner with | .controlled => 0 | .fast => 1) ∧
      Carries b 42 1 (closes.map fun c => match c.phase with | .stepDown => 0 | .settle => 1) ∧
      Carries b 43 2 (match closes with
        | some c => s.secondsOf (match c.phase with | .stepDown => m.stepDown | .settle => m.settle)
        | none => none)) ∧
    Carries b 45 2 (s.secondsOf m.closeLimit) ∧
    Carries b 47 1 (if m.stage = .closing then some m.leak.toNat else none) ∧
    Carries b 48 1 (some (match m.stepUp with
      | .none => 0 | .waiting => 1 | .inClaim => 2 | .retryWait => 3 | .barred => 4)) ∧
    Carries b 49 2 (s.secondsOf m.holdOff) ∧ Carries b 51 1 (some is.length) ∧
    (∀ (n : Nat) (i : InjectorId), is[n]? = some i → (s.injector i).badRun ≤ 3 → let o := 52 + 11 * n
      Carries b o 1 (some i.val) ∧ Carries b (o + 1) 1 (some (s.injectorCfg i).code.val) ∧
        Carries b (o + 2) 1 (some (s.injector i).firing.toNat) ∧ Carries b (o + 3) 1 (some s.session.latches[i].toNat) ∧
        Carries b (o + 4) 1 (some (s.injector i).badRun) ∧
        Carries b (o + 5) 1 (some (s.injector i).window.isSome.toNat) ∧
        Carries b (o + 6) 4 ((s.injector i).window.map (·.count)) ∧
        Carries b (o + 10) 1 ((s.injector i).window.map (·.cut.toNat))) ∧
    Carries b (52 + 11 * is.length) 1 (some s.monitor.bypass.toNat) ∧ b.length = 53 + 11 * is.length)

end Sys2Proof.Machine
end

