-- ==== Sys2Proof/Certificates/Slice0/Obligations.lean ====
section
/-! DEFINITION. The statements for the provers, one Prop each. A statement about a free value holds for every value of
it; the numbers in brackets are the rules of the manual. -/

open Sys2Proof Sys2Proof.Machine

/-! ## The step -/

/-- With a command waiting, a step carries out the one at the front on the state with the rest of the queue. -/
def Obligations.StepRunsTheFrontCommand : Prop :=
  ∀ (c : Instr) (rest : List Instr) (s : State), s.pending = c :: rest →
    step s = exec c { s with pending := rest }

/-- The model's choice (log 1): with no command waiting, a step carries out the first expiry that is due; with none due
a millisecond of the timebase passes. -/
def Obligations.StepOnAnEmptyQueue : Prop :=
  ∀ s : State, s.pending = [] →
    (∀ c, s.dueCommand = some c → step s = exec c s) ∧
    (s.dueCommand = none → step s = .next { s with now := s.now + 1 })

/-! ## The rack link (chapter 1) -/

/-- The line and the receiver. LINE_IDLE makes the line IDLE and the receiver hunt, its buffer emptied of a frame cut short
(that a BUSY line in HUNT brings one is log 8, the model's reading of R12), and a READY transmitter begins at once
(R2, R4, R12); under the RESTART line only the line condition follows (R19). LINE_BUSY takes the whole slots it carries off
a backoff's wait and keeps at least one: R6 says that counted slots are kept, and that the command carries their number is
the model's choice (log 10); BROKEN_CHARACTER and START_BYTE_MISMATCH put the receiver in SKIP (R12), the latter also in
the FRAME that an own attempt enters as it begins (log 8, the model's choice), and that a broken character empties the
buffer is the model's choice (log 61); BACKOFF_END begins the next attempt on an IDLE line (R6). -/
def Obligations.LineEvents : Prop :=
  (∀ s : State, s.station ≠ .configFault → s.link.tx ≠ .sending →
     (s.restart = false → s.link.tx ≠ .ready →
       exec .lineIdle s = .next { s with link := { s.link with
         lineIdle := true
         rx := .hunt
         buffer := if s.link.rx = .frame ∨ s.link.rx = .hunt ∧ s.link.lineIdle = false then [] else s.link.buffer } }) ∧
     (s.restart = false → s.link.tx = .ready →
       exec .lineIdle s = .next { s with link := { s.link with
         lineIdle := false
         tx := .sending
         wait := 0
         rx := .frame
         buffer := [] } }) ∧
     (s.restart = true → exec .lineIdle s = .next { s with link := { s.link with lineIdle := true } })) ∧
  (∀ s : State, s.station ≠ .configFault →
     (∀ n, s.link.lineIdle = true → s.link.tx = .backoff →
       exec (.lineBusy n) s = .next { s with link := { s.link with lineIdle := false, wait := max 1 (s.link.wait - n) } }) ∧
     (∀ n, s.link.lineIdle = true → s.link.tx ≠ .backoff →
       exec (.lineBusy n) s = .next { s with link := { s.link with lineIdle := false } }) ∧
     (∀ n, s.link.lineIdle = false → exec (.lineBusy n) s = .next s) ∧
     (s.restart = false → s.link.rx ≠ .skip →
       exec .brokenCharacter s = .next { s with link := { s.link with rx := .skip, buffer := [] } }) ∧
     (s.restart = false → s.link.rx ≠ .skip →
       exec .startByteMismatch s = .next { s with link := { s.link with rx := .skip } })) ∧
  (∀ s : State, s.link.tx = .backoff → s.link.lineIdle = true →
     (s.link.rx = .hunt → exec .backoffEnd s = .next { s with link := { s.link with
       tx := .sending
       lineIdle := false
       wait := 0
       rx := .frame
       buffer := [] } }) ∧
     (s.link.rx ≠ .hunt → exec .backoffEnd s = .next { s with link := { s.link with
       tx := .sending
       lineIdle := false
       wait := 0 } }))

/-- COLLISION. Below 16 attempts k is raised by one and the wait is 1 + ((station × 3 + k × 5) mod 16) slots (R5, R6); at 16
a STOP counts from 0 again and waits 1 + ((station × 3 + 80) mod 16) slots, and any other frame leaves the queue with the
effect of its kind (R6, R11): a STATE or YIELD none, a PERMIT-CLAIM ends its check LINK_BUSY, a NOTE's marker is cleared
(R173), a CLAIM's claim is withdrawn with its STATE and its 5 s retry timer (R83, R86); a CLAIM whose claim has ended has
none. -/
def Obligations.Collision : Prop :=
  (∀ s : State, s.link.tx = .sending → s.link.attempts + 1 < 16 →
     exec .collision s = .next { s with link := { s.link with
       tx := .backoff
       attempts := s.link.attempts + 1
       wait := 1 + (s.cfg.station.val * 3 + (s.link.attempts + 1) * 5) % 16 } }) ∧
  (∀ (s : State) (f : TxFrame) (rest : List TxFrame), s.link.tx = .sending → s.link.attempts = 15 →
     s.link.queue = f :: rest →
     (f.tag = .stop → exec .collision s = .next { s with link := { s.link with
       tx := .backoff
       attempts := 0
       wait := 1 + (s.cfg.station.val * 3 + 80) % 16 } }) ∧
     (f.tag = .state ∨ (∃ h, f.tag = .yield h) → exec .collision s = .next { s with link := s.link.frontGone rest }) ∧
     (f.tag = .permitClaim → s.session.state = .checking → s.session.checkFrame = f.id →
       exec .collision s = .next { s with
         link := s.link.frontGone rest
         session := { s.session with
           state := .none
           permit := none
           tag := none
           window := none
           outcome := some .linkBusy } }) ∧
     (∀ n, f.tag = .note n → exec .collision s = .next { s with
       link := s.link.frontGone rest
       notes := { s.notes with store := s.notes.store.map fun x =>
         if x.number = n ∧ x.marker = some f.id then { x with marker := none } else x } }) ∧
     (∀ h, f.tag = .claim h → (∀ c, s.headers[h].slot = some c → c.frameId ≠ f.id ∨ c.phase ≠ .queued) →
       exec .collision s = .next { s with link := s.link.frontGone rest }) ∧
     (∀ h c, f.tag = .claim h → s.headers[h].slot = some c → c.frameId = f.id → c.phase = .queued →
       s.linkOpen = true → (∀ a, (s.armCfg a).header = h → (s.arm a).stepUp ≠ .waiting) →
       (∀ k ∈ s.startQueue, c.kind = .low ∧ ∀ b, s.batches[k] = some b → (s.gradeCfg b.grade).header = h) →
       ∃ t, exec .collision s = .next t ∧ t = { s with
           link := t.link
           periodTimer := some (s.now + 1000)
           headers := s.headers.set h { s.headers[h] with
             slot := none
             retryTimer := some (s.now + 5000)
             retryWait := if c.kind = .low then true else s.headers[h].retryWait }
           arms := s.arms.set c.arm (if c.kind = .low then { s.arms[c.arm] with reserved := none }
             else { s.arms[c.arm] with stepUp := .retryWait }) } ∧
         (s.station ≠ .clash → s.link.queue.length ≤ 8 → t.Announced) ∧ t.link.attempts = 0 ∧
         ∀ g ∈ rest, g.tag ≠ .state → g ∈ t.link.queue))

/-- READ_BACK_COMPLETION: the frame leaves the queue with k cleared, the next frame is READY, and a CLAIM's settle window
of 250 ms, a PERMIT-CLAIM's window of 500 ms and a NOTE's marker follow the report (R7, R38, R83, R173). A CLAIM whose claim
was abandoned in QUEUED starts no window: a STATE of the unchanged figures enters the queue behind it, at its place of R8 and
R9 (log 11), and is refused entry in CLASH (R88, R30, R31, R16). A PERMIT-CLAIM whose check has ended starts none. That the
receive buffer stays as it was is the model's choice (log 58). -/
def Obligations.ReadBackCompletion : Prop :=
  ∀ (s : State) (f : TxFrame) (rest : List TxFrame), s.link.tx = .sending → s.link.queue = f :: rest →
    (f.tag = .stop ∨ f.tag = .state ∨ (∃ h, f.tag = .yield h) →
      exec .readBackCompletion s = .next { s with link := { s.link.frontGone rest with rx := .skip } }) ∧
    (∀ h c, f.tag = .claim h → (s.header h).slot = some c → c.frameId = f.id → c.phase = .queued →
      exec .readBackCompletion s = .next { s with
        link := { s.link.frontGone rest with rx := .skip }
        headers := s.headers.set h { s.headers[h] with slot := some { c with phase := .settling (s.now + 250) } } }) ∧
    (f.tag = .permitClaim → s.session.state = .checking → s.session.checkFrame = f.id →
      exec .readBackCompletion s = .next { s with
        link := { s.link.frontGone rest with rx := .skip }
        session := { s.session with window := some (s.now + 500) } }) ∧
    (f.tag = .permitClaim → s.session.state ≠ .checking ∨ s.session.checkFrame ≠ f.id →
      exec .readBackCompletion s = .next { s with link := { s.link.frontGone rest with rx := .skip } }) ∧
    (∀ h, f.tag = .claim h → (∀ c, s.headers[h].slot = some c → c.frameId ≠ f.id ∨ c.phase ≠ .queued) →
      let left := { s.link.frontGone rest with rx := .skip }
      let said := { left with
        lastStateStop := s.ownStop
        nextId := s.link.nextId + 1 }
      (s.linkOpen = false → exec .readBackCompletion s = .next { s with link := left }) ∧
      (s.linkOpen = true → s.station = .clash → exec .readBackCompletion s = .next { s with
        link := said
        periodTimer := some (s.now + 1000) }) ∧
      (s.linkOpen = true → s.station ≠ .clash → ∃ t, exec .readBackCompletion s = .next t ∧ s.SameButLink t ∧
        t.periodTimer = some (s.now + 1000) ∧
        StateEntered left.tx (s.link.lastStateStop && !s.ownStop)
          ⟨s.link.nextId, .state, lineImage s.cfg.station 1 s.statePayload⟩ rest t.link.queue ∧
        (s.link.lineIdle = false → t.link = { said with
          queue := t.link.queue
          tx := .ready }))) ∧
    (∀ n, f.tag = .note n → ∃ t, exec .readBackCompletion s = .next t ∧
      t = { s with link := { s.link.frontGone rest with rx := .skip }, notes := t.notes } ∧
      t.notes = { s.notes with store := t.notes.store } ∧
      t.notes.store.map (fun x => (x.number, x.record)) = s.notes.store.map (fun x => (x.number, x.record)) ∧
      ∀ x ∈ t.notes.store, x.number = n → x.marker ≠ some f.id)

/-- A STOP handed over (R8 to R10). While one waits, not in progress, it is merged and nothing changes. Otherwise it enters
behind the frame in progress, else in front of every frame, and a queue of 8 frames gives up the newest that is neither a
STOP nor in progress. An empty queue's transmitter goes to READY, and on an IDLE line begins at once (R4); any other goes on
as it was. The last to have entered is read off the serial numbers (log 31), by which a STATE that has taken an older one's
place counts as entered then: the model's choice (log 12). That a front STATE which the STOP makes wait is gone while a newer
one waits behind it is the model's choice too (log 64). -/
def Obligations.StopDisplacesTheNewest : Prop :=
  ∀ (l : Link) (f : TxFrame), f.tag = .stop → l.Sound →
    ((∃ g ∈ l.waiting, g.tag = .stop) → l.pushStop f = (l, none)) ∧
    ((∀ g ∈ l.waiting, g.tag ≠ .stop) →
      (l.queue.length < 8 → (l.pushStop f).2 = none ∧ StopEntered l.tx f l.queue (l.pushStop f).1.queue) ∧
      (l.queue.length = 8 → l.queue.Pairwise (fun a b => a.id ≠ b.id) →
        ∃ before g after, l.queue = before ++ g :: after ∧ g ∈ l.waiting ∧ (∀ x ∈ l.waiting, x.id ≤ g.id) ∧
          (l.pushStop f).2 = some g ∧ StopEntered l.tx f (before ++ after) (l.pushStop f).1.queue) ∧
      (l.queue ≠ [] → l.inProgress = true ∨ l.lineIdle = false →
        (l.pushStop f).1 = { l with queue := (l.pushStop f).1.queue }) ∧
      (l.queue = [] → l.lineIdle = false → (l.pushStop f).1 = { l with
        queue := [f]
        tx := .ready
        attempts := 0
        wait := 0 }) ∧
      (l.queue = [] → l.lineIdle = true → (l.pushStop f).1.queue = [f] ∧ (l.pushStop f).1.tx = .sending ∧
        (l.pushStop f).1.attempts = 0 ∧ (l.pushStop f).1.lineIdle = false))

/-- A complete frame that fails a check of R13 changes nothing but the receiver, whichever kind it was taken for. A frame
is good exactly when its length is the one its header gives, a long form carries 16 bytes or more, its CRC agrees, its
kind is known, its payload's length is one its kind allows, and every field lies in its range (R188, R190). That an unused
flag or mask bit is out of range is the model's reading (log 24), and that a NOTE line's last arm of 255 and a NOTE's end
reason of 255 are out of range is the model's choice (logs 59, 65). -/
def Obligations.BadFrameIsDropped : Prop :=
  (∀ (s : State) (frame : List Byte), s.linkOpen = true → s.link.rx ≠ .skip → s.link.tx ≠ .sending →
    parseFrame frame = none →
    ∀ c ∈ [Instr.stateReceived frame, .claimReceived frame, .yieldReceived frame, .permitClaimReceived frame,
        .revokeReceived frame, .timeReceived frame, .stopReceived frame, .noteReceived frame,
        .noteRequestReceived frame, .noteTakenReceived frame],
      exec c s = .next (s.dropped frame)) ∧
  (∀ frame : List Byte, frame.length < 2 → parseFrame frame = none) ∧
  (∀ (b0 b1 : Byte) (rest : List Byte) (p : StationId) (f : Frame),
    let frame := b0 :: b1 :: rest
    let header := if 128 ≤ b0.toNat then 3 else 2
    let len := if 128 ≤ b0.toNat then b1.toNat % 2 * 256 + fieldAt frame 2 1 else b1.toNat % 16
    parseFrame frame = some (p, f) ↔
      frame.length = header + len + 2 ∧ (128 ≤ b0.toNat → 16 ≤ len) ∧
        crc16 (frame.take (header + len)) = fieldAt frame (header + len) 2 ∧ p.val = b0.toNat % 32 ∧
        parsePayload (b1.toNat / 16) ((frame.drop header).take len) = some f) ∧
  (∀ bs : List Byte,
    let flags := fieldAt bs 0 1
    let permitLen := if flags.testBit 3 then 4 else 0
    let present := ((List.range 8).filter fun h => (fieldAt bs 1 1).testBit h).length
    let num := fieldAt bs
    ((parsePayload 1 bs).isSome ↔ 2 ≤ bs.length ∧ bs.length = 2 + permitLen + present ∧ flags < 32 ∧
      (flags.testBit 3 = true → num 2 4 ≠ 0) ∧ ∀ x ∈ bs.drop (2 + permitLen), x.toNat ≤ 250) ∧
    (∀ kind ∈ [2, 3], (parsePayload kind bs).isSome ↔ bs.length = 3 ∧ num 0 1 < 8 ∧ num 1 1 < 250 ∧ num 2 1 < 4) ∧
    ((parsePayload 4 bs).isSome ↔ bs.length = 4 ∧ num 0 4 ≠ 0) ∧
    ((parsePayload 5 bs).isSome ↔ bs.length = 6 ∧ num 0 4 ≠ 0) ∧
    ((parsePayload 6 bs).isSome ↔ bs.length = 5 ∧ num 2 3 ≤ 86399) ∧
    ((parsePayload 7 bs).isSome ↔ bs = []) ∧
    ((parsePayload 8 bs).isSome ↔ 26 ≤ bs.length ∧ NoteHeadInRange bs ∧ ∃ lines : List (List Byte),
      lines.length = num 25 1 + 1 ∧ bs.drop 26 = lines.flatten ∧ ∀ line ∈ lines, NoteLineInRange line) ∧
    ((parsePayload 9 bs).isSome ↔ bs.length = 1 ∧ num 0 1 < 32) ∧
    ((parsePayload 10 bs).isSome ↔ bs.length = 4 ∧ num 0 1 < 32 ∧ 1 ≤ num 1 3 ∧ num 1 3 ≤ 999999) ∧
    ∀ kind, kind = 0 ∨ 10 < kind → parsePayload kind bs = none)

/-- A good frame with this station's own number puts it in CLASH (R15, R16): the queue keeps only STOPs, no claim is
held, every arm stops flowing, no check or ADMITTED session remains, and the frame refreshes no heard time. -/
def Obligations.OwnNumberPutsInClash : Prop :=
  ∀ (s : State) (frame : List Byte) (f : Frame), s.linkOpen = true → s.link.rx ≠ .skip → s.link.tx ≠ .sending →
    parseFrame frame = some (s.cfg.station, f) → s.station ≠ .clash →
    ∀ c ∈ [Instr.stateReceived frame, .claimReceived frame, .yieldReceived frame, .permitClaimReceived frame,
        .revokeReceived frame, .timeReceived frame, .stopReceived frame, .noteReceived frame,
        .noteRequestReceived frame, .noteTakenReceived frame],
      ∃ t, exec c s = .next t ∧ t.station = .clash ∧ (∀ g ∈ t.link.queue, g.tag = .stop) ∧ t.slotsFree ∧ t.noFlow ∧
        t.session.state ≠ .checking ∧ t.session.state ≠ .admitted ∧ t.peers = s.peers ∧ t.clock = s.clock ∧
        t.revoked = s.revoked ∧ t.cfg = s.cfg ∧ t.retention.mem = s.retention.mem ∧ t.ownStop = s.ownStop

/-- NOTE, CLAIM and TIME from another station (R14, R18, R24). A TIME that leaves the day unchanged sets the second and
restarts the count; one that changes it prunes the revocations whose end day has passed. -/
def Obligations.NoteClaimAndTimeFrames : Prop :=
  ∀ (s : State) (frame : List Byte) (p : StationId),
    (s.Takes frame p .note → exec (.noteReceived frame) s = .next (s.heardFrom frame p)) ∧
    (∀ h total cls, s.Takes frame p (.claim h total cls) → exec (.claimReceived frame) s = .next
      { s.heardFrom frame p with peers := s.peers.set p { s.peers[p] with
          fresh := .fresh
          heard := some s.now
          claims := s.peers[p].claims.set h (some ⟨total, cls, s.now⟩) } }) ∧
    (∀ day second, s.Takes frame p (.time day second) → s.clock.dateKnown = true → s.clock.day = day →
      exec (.timeReceived frame) s = .next { s.heardFrom frame p with clock := ⟨day, second, true, s.now⟩ }) ∧
    (∀ day second, s.Takes frame p (.time day second) → (s.clock.dateKnown = false ∨ s.clock.day ≠ day) →
      ∃ t, exec (.timeReceived frame) s = .next t ∧ t.clock = ⟨day, second, true, s.now⟩ ∧
        t.revoked = s.revoked.filter (fun r => decide (day ≤ r.endDay)) ∧ t.cfg = s.cfg ∧
        (∀ x, s.session.permit = some x → x.expiry < day → t.session.state ≠ .checking ∧ t.session.state ≠ .admitted))

/-- REVOKE. Of a permit this session does not hold: a held entry takes the later end day and keeps its place; otherwise the
entry is added as the newest, and a full list gives up the first with the earliest end day (R43, R44). Of the session's
own permit the list changes in the same way, and besides a check fails REVOKED and an ADMITTED session ends (R40, R47). -/
def Obligations.Revoke : Prop :=
  (∀ (s : State) (frame : List Byte) (p : StationId) (permit endDay : Nat), s.Takes frame p (.revoke permit endDay) →
     s.sessionPermit ≠ some permit →
     ∃ t, exec (.revokeReceived frame) s = .next t ∧ t = { s.heardFrom frame p with revoked := t.revoked } ∧
       RevokedBy s.revoked t.revoked permit endDay) ∧
  (∀ (s : State) (frame : List Byte) (p : StationId) (permit endDay : Nat), s.Takes frame p (.revoke permit endDay) →
     s.sessionPermit = some permit →
     ∃ t, exec (.revokeReceived frame) s = .next t ∧ RevokedBy s.revoked t.revoked permit endDay ∧
       (s.revoked.length < 64 → ∃ r ∈ t.revoked, r.permit = permit ∧ endDay ≤ r.endDay) ∧
       (s.session.state = .checking →
         t.session.state = .none ∧ t.session.outcome = some .revoked ∧ t.session.permit = none) ∧
       (s.session.state = .admitted →
         (t.session.state = .ending ∨ t.session.state = .none) ∧ t.session.endReason = some .revoked ∧ t.noFlow))

/-- A STOP from a peer puts it in the stop set; where the set was empty, TERMINAL_STOP is withdrawn, every flowing arm is
fast-closed TERMINAL_STOP, no claim is held and every step-down is cut (R25, R27, R133, R158, R161). -/
def Obligations.StopFrame : Prop :=
  ∀ (s : State) (frame : List Byte) (p : StationId), s.Takes frame p .stop →
    (s.monitor.terminal = true → exec (.stopReceived frame) s = .next
      { s.heardFrom frame p with peers := s.peers.set p { s.peers[p] with
          fresh := .fresh
          heard := some s.now
          stop := true } }) ∧
    (s.monitor.terminal = false → ∃ t, exec (.stopReceived frame) s = .next t ∧ t.monitor.terminal = true ∧
      (t.peer p).stop = true ∧ t.noFlow ∧ t.slotsFree ∧ t.cfg = s.cfg ∧ t.session = s.session ∧
      t.batches = s.batches ∧ t.startQueue = s.startQueue ∧ s.FastStopped t .terminalStop ∧ ∀ a, s.StepDownCut t a)

/-- STATE. One that lowers no share, leaves the stop set's state and names no permit of this session replaces the peer's entry
whole and ends its pending claims (R22). One that lowers shares besides is a retry trigger on each of those headers (R22,
R90): no batch being queued, arms in RETRY WAIT become WAITING, and a FREE slot goes to the lowest that waits (R81). One
that offers the session's permit fails a check IN_USE and ends an ADMITTED session DUPLICATE when it comes from a lower
station number (R39, R46). One whose stop flag brings the first member into the stop set withdraws TERMINAL_STOP: every
flowing arm is fast-closed TERMINAL_STOP, no claim is held, every step-down is cut. One that takes the last member out
restores it: with no permissive withdrawn any more the dispatcher scans, and the one batch of the queue, an arm being free
for it, is given its arm and its LOW CLAIM (R25, R27, R64, R65, R158, R161); shares lowered by it are retry triggers as
before. That the stop set is followed before the falls is the model's reading (log 15). -/
def Obligations.StateFrame : Prop :=
  (∀ (s : State) (frame : List Byte) (p : StationId) (cls : PriorityClass) (stop isOpen starting : Bool)
     (shares : Vector Nat 8) (permit : Option Nat),
     s.Takes frame p (.state cls stop isOpen starting shares permit) →
     (∀ h : HeaderId, s.peers[p].shares[h] ≤ shares[h]) → (isOpen = false ∨ permit ≠ s.sessionPermit) →
     let x : Peer := ⟨.fresh, some s.now, shares, if isOpen then permit else none, cls, stop, Vector.replicate 8 none⟩
     let t : State := { s.heardFrom frame p with peers := s.peers.set p x }
     t.stopSetNonempty = s.monitor.terminal → exec (.stateReceived frame) s = .next t) ∧
  (∀ (s : State) (frame : List Byte) (p : StationId) (cls : PriorityClass) (stop isOpen starting : Bool)
     (shares : Vector Nat 8) (permit : Option Nat),
     s.Takes frame p (.state cls stop isOpen starting shares permit) → (isOpen = false ∨ permit ≠ s.sessionPermit) →
     s.startQueue = [] →
     let x : Peer := ⟨.fresh, some s.now, shares, if isOpen then permit else none, cls, stop, Vector.replicate 8 none⟩
     let t : State := { s.heardFrom frame p with peers := s.peers.set p x }
     t.stopSetNonempty = s.monitor.terminal → ∃ u, exec (.stateReceived frame) s = .next u ∧ t.SameLoad u ∧
       t.Retried u fun h => decide (shares[h] < s.peers[p].shares[h])) ∧
  (∀ (s : State) (frame : List Byte) (p : StationId) (cls : PriorityClass) (stop isOpen starting : Bool)
     (shares : Vector Nat 8) (permit : Option Nat),
     s.Takes frame p (.state cls stop isOpen starting shares permit) → (isOpen = false ∨ permit ≠ s.sessionPermit) →
     let x : Peer := ⟨.fresh, some s.now, shares, if isOpen then permit else none, cls, stop, Vector.replicate 8 none⟩
     let t : State := { s.heardFrom frame p with peers := s.peers.set p x }
     let falls : HeaderId → Bool := fun h => decide (shares[h] < s.peers[p].shares[h])
     (s.monitor.terminal = false → t.stopSetNonempty = true → ∃ u, exec (.stateReceived frame) s = .next u ∧
       t.SameLoad u ∧ u.monitor = { s.monitor with terminal := true } ∧ s.FastStopped u .terminalStop ∧
       ∀ a, s.StepDownCut u a) ∧
     (s.monitor.terminal = true → t.stopSetNonempty = false →
       let v : State := { t with monitor := { s.monitor with terminal := false } }
       (∃ u, exec (.stateReceived frame) s = .next u ∧ v.SameLoad u ∧ u.monitor = v.monitor ∧
         (s.startQueue = [] → v.Retried u falls)) ∧
       ((∀ h, falls h = false) → v.monitor.withdrawn = true ∨ s.startQueue = [] →
         exec (.stateReceived frame) s = .next v) ∧
       (∀ k b a, (∀ h, falls h = false) → v.ScanGives k b a → ∃ l : Link,
         l.queue = s.link.queue ++ [s.claimFrame (s.lowClaim a)] ∧ exec (.stateReceived frame) s = .next { v with
           link := l
           arms := s.arms.set a { s.arms[a] with reserved := some k }
           headers := s.headers.set (s.armCfg a).header { s.headers[(s.armCfg a).header] with
             slot := some (s.lowClaim a) } }))) ∧
  (∀ (s : State) (frame : List Byte) (p : StationId) (cls : PriorityClass) (stop starting : Bool)
     (shares : Vector Nat 8) (permit : Nat), s.Takes frame p (.state cls stop true starting shares (some permit)) →
     s.sessionPermit = some permit →
     ∃ t, exec (.stateReceived frame) s = .next t ∧
       (s.session.state = .checking →
         t.session.state = .none ∧ t.session.outcome = some .inUse ∧ t.session.permit = none) ∧
       (s.session.state = .admitted → p < s.cfg.station →
         (t.session.state = .ending ∨ t.session.state = .none) ∧ t.session.endReason = some .duplicate) ∧
       (s.session.state = .admitted → s.cfg.station < p →
         t.session.state = .admitted ∧ t.session.permit = s.session.permit))

/-- A PERMIT-CLAIM: another permit changes nothing; the own permit fails a check from a lower number alone, and in an
open session is answered with a STATE of this moment's figures, which restarts the period timer (R39, R46, R30, R31) and is
refused entry in CLASH (R16). -/
def Obligations.PermitClaimFrame : Prop :=
  ∀ (s : State) (frame : List Byte) (p : StationId) (permit : Nat), s.Takes frame p (.permitClaim permit) →
    (s.sessionPermit ≠ some permit → exec (.permitClaimReceived frame) s = .next (s.heardFrom frame p)) ∧
    (s.sessionPermit = some permit → s.session.state = .checking → s.cfg.station < p →
      exec (.permitClaimReceived frame) s = .next (s.heardFrom frame p)) ∧
    (s.sessionPermit = some permit → s.session.state = .checking → p < s.cfg.station →
      exec (.permitClaimReceived frame) s = .next { s.heardFrom frame p with
        session := { s.session with
          state := .none
          permit := none
          tag := none
          window := none
          outcome := some .inUse } }) ∧
    (s.sessionPermit = some permit → s.session.state = .admitted ∨ s.session.state = .ending →
      ∃ t, exec (.permitClaimReceived frame) s = .next t ∧ (s.heardFrom frame p).SameButLink t ∧
        t.periodTimer = some (s.now + 1000) ∧ (s.Sends → t.Announced) ∧
        (s.station = .clash → t.link.queue = s.link.queue))

/-- A YIELD marks one arm: of the arms FULL on the header, unmarked and with more than their yield lock left, the one
with the most left, the lowest number of equals; a class not above the session's marks none; no arm is marked
after a cold start or a release of the RESTART line (R93). -/
def Obligations.YieldFrame : Prop :=
  (∀ (s : State) (frame : List Byte) (p : StationId) (h : HeaderId) (units : Nat) (cls : PriorityClass),
    s.Takes frame p (.yield h units cls) →
    let may := fun (a : ArmId) (r : Int) => (s.armCfg a).header = h ∧ (s.arm a).stage = .full ∧
      (s.arm a).yieldMark = false ∧ s.armRemaining a = some r ∧ ((s.armCfg a).yieldLock : Int) * 100 < r
    (cls ≤ s.sessionClass → exec (.yieldReceived frame) s = .next (s.heardFrom frame p)) ∧
    ((∀ a r, ¬ may a r) → exec (.yieldReceived frame) s = .next (s.heardFrom frame p)) ∧
    (s.sessionClass < cls → (∃ a r, may a r) → ∃ a r, may a r ∧ (∀ b q, may b q → q < r ∨ (q = r ∧ a ≤ b)) ∧
      exec (.yieldReceived frame) s = .next { s.heardFrom frame p with
        arms := s.arms.set a { s.arms[a] with yieldMark := true } })) ∧
  (∀ (s : State) (preload : List Byte) (reads : ColdReads) (inputs : FieldInputs),
    ∃ t, exec (.coldStart preload reads inputs) s = .next t ∧ ∀ a, (t.arm a).yieldMark = false) ∧
  ∀ s : State, s.restart = true → s.station ≠ .configFault → s.stage5Waits = false →
    ∃ t, exec .restartReleased s = .next t ∧ ∀ a, (t.arm a).yieldMark = false

/-- NOTE-REQUEST and NOTE-TAKEN (R174, R175): for another station nothing but the heard time; an empty store or a marked
oldest note sends nothing; an unmarked oldest note is handed over; a note taken leaves the store and its removal write
enters the queue, or the outbox when the queue is full; one that would be the front and finds no ISSUED slot is complete
at once (R182; the moment is log 53's). -/
def Obligations.NoteFrames : Prop :=
  ∀ (s : State) (frame : List Byte) (p : StationId),
    (∀ target, s.Takes frame p (.noteRequest target) →
      (target ≠ s.cfg.station ∨ s.notes.store = [] ∨ (∃ x rest, s.notes.store = x :: rest ∧ x.marker ≠ none) →
        exec (.noteRequestReceived frame) s = .next (s.heardFrom frame p)) ∧
      (∀ x rest, target = s.cfg.station → s.notes.store = x :: rest → x.marker = none → s.station ≠ .clash →
        s.link.queue.length < 8 → (∀ y ∈ rest, y.number ≠ x.number) →
        ∃ t, exec (.noteRequestReceived frame) s = .next t ∧
          t.notes.store = { x with marker := some s.link.nextId } :: rest ∧
          t.link.queue = s.link.queue ++
            [⟨s.link.nextId, .note x.number, lineImage s.cfg.station 8 x.record⟩] ∧
          t = { s.heardFrom frame p with link := t.link, notes := { s.notes with store := t.notes.store } })) ∧
    (∀ target n, s.Takes frame p (.noteTaken target n) →
      (target ≠ s.cfg.station ∨ (∀ x ∈ s.notes.store, x.number ≠ n) →
        exec (.noteTakenReceived frame) s = .next (s.heardFrom frame p)) ∧
      (target = s.cfg.station → (∃ x ∈ s.notes.store, x.number = n) → s.retention.queue = [] →
        issuedSlot s.retention.mem n = none →
        exec (.noteTakenReceived frame) s = .next { s.heardFrom frame p with
          notes := { s.notes with store := s.notes.store.filter (·.number != n) } }) ∧
      (target = s.cfg.station → (∃ x ∈ s.notes.store, x.number = n) → s.retention.queue.length < 4 →
        s.retention.queue ≠ [] ∨ issuedSlot s.retention.mem n ≠ none →
        exec (.noteTakenReceived frame) s = .next { s.heardFrom frame p with
          notes := { s.notes with store := s.notes.store.filter (·.number != n) }
          retention := { s.retention with
            queue := s.retention.queue ++ [.removal n]
            writeTimer := if s.retention.queue = [] then some (s.now + 100) else s.retention.writeTimer } }) ∧
      (target = s.cfg.station → (∃ x ∈ s.notes.store, x.number = n) → 4 ≤ s.retention.queue.length →
        exec (.noteTakenReceived frame) s = .next { s.heardFrom frame p with
          notes := { s.notes with
            store := s.notes.store.filter (·.number != n)
            outbox := s.notes.outbox ++ [n] } }))

/-! ## Clock and peer view (chapters 1 and 2) -/

/-- CLOCK_SECOND (R17): the second, the day change at 86,399, the wrap of the day from 65,535 to 0; a rollover with the
date known prunes the revocations whose end day has passed (R45). -/
def Obligations.ClockSecond : Prop :=
  ∀ s : State, s.station ≠ .configFault → s.stage5Waits = false →
    (s.clock.second < 86399 → exec .clockSecond s = .next
      { s with clock := ⟨s.clock.day, s.clock.second + 1, s.clock.dateKnown, s.now⟩ }) ∧
    (86399 ≤ s.clock.second → s.clock.dateKnown = false → exec .clockSecond s = .next
      { s with clock := ⟨(s.clock.day + 1) % 65536, 0, false, s.now⟩ }) ∧
    (86399 ≤ s.clock.second → s.clock.dateKnown = true →
      ∃ t, exec .clockSecond s = .next t ∧ t.clock = ⟨(s.clock.day + 1) % 65536, 0, true, s.now⟩ ∧
        t.revoked = s.revoked.filter (fun r => decide ((s.clock.day + 1) % 65536 ≤ r.endDay)) ∧
        (∀ x, s.session.permit = some x → x.expiry < (s.clock.day + 1) % 65536 →
          (s.session.state = .checking → t.session.outcome = some .expired ∧ t.session.state = .none) ∧
          (s.session.state = .admitted → t.session.endReason = some .expired ∧
            (t.session.state = .ending ∨ t.session.state = .none))) ∧
        ((∀ x, s.session.permit = some x → (s.clock.day + 1) % 65536 ≤ x.expiry) → t =
          { s with
            clock := ⟨(s.clock.day + 1) % 65536, 0, true, s.now⟩
            revoked := s.revoked.filter (fun r => decide ((s.clock.day + 1) % 65536 ≤ r.endDay)) }))

/-- The peer view's ageing (R21, R24): a FRESH entry goes STALE with nothing else changed; a STALE one goes GONE with its
shares 0 and its permit absent, its class and stop flag kept, a share it had being a retry trigger on its header (R90) that
changes no session, batch or note: no batch being queued, the retry timer stops, arms in RETRY WAIT become WAITING, and a
FREE slot goes to the lowest that waits (R81, R91); a pending claim is removed. -/
def Obligations.PeerAgeing : Prop :=
  ∀ (s : State) (p : StationId),
    (s.peers[p].fresh = .fresh → exec (.peerStale p) s = .next
      { s with peers := s.peers.set p { s.peers[p] with fresh := .stale } }) ∧
    (∀ t : State, t = { s with peers := s.peers.set p { s.peers[p] with
        fresh := .gone
        shares := Vector.replicate 8 0
        permit := none } } → s.peers[p].fresh = .stale →
      ((∀ h : HeaderId, s.peers[p].shares[h] = 0) → exec (.peerGone p) s = .next t) ∧
      ∃ u, exec (.peerGone p) s = .next u ∧ t.SameLoad u ∧ u.monitor = s.monitor ∧ u.station = s.station ∧
        (s.startQueue = [] → t.Retried u fun h => decide (0 < s.peers[p].shares[h]))) ∧
    (∀ h : HeaderId, exec (.pendingClaimExpiry p h) s = .next
      { s with peers := s.peers.set p { s.peers[p] with claims := s.peers[p].claims.set h none } })

/-- LISTEN_PERIOD_END: STARTING becomes RUNNING, and with no batch waiting nothing else changes (R28, R29).
STATE_PERIOD_EXPIRY: a STATE of this moment's figures is handed over and the period starts again at 1,000 ms (R30, R31). In
an empty queue it is the only frame, READY on a BUSY line and begun at once on an IDLE one (R4). In any other it takes the
place that R8 and R9 give it: that of the STATE waiting behind the front, of a front STATE not on the pair with its attempts
and wait kept, the tail, or the head for one that clears a stop flag; a full queue turns it away (R10). With a STATE at the
front and another behind it the one behind is replaced: the model's reading (log 11). In CLASH the STATE is refused entry
(R16). -/
def Obligations.ListenAndStatePeriods : Prop :=
  (∀ s : State, s.listenTimer ≠ none → s.station = .starting →
     (s.startQueue = [] → exec .listenPeriodEnd s = .next { s with
       listenTimer := none
       station := .running }) ∧
     ∃ t, exec .listenPeriodEnd s = .next t ∧ t.station = .running ∧ t.listenTimer = none ∧ s.SameLoad t ∧
       t.monitor = s.monitor) ∧
  (∀ s : State, s.periodTimer ≠ none → s.linkOpen = true →
     (s.station ≠ .clash → s.link.queue = [] → s.link.tx = .empty → s.link.lineIdle = false →
       exec .statePeriodExpiry s = .next { s with
         periodTimer := some (s.now + 1000)
         link := { s.link with
           queue := [⟨s.link.nextId, .state, lineImage s.cfg.station 1 s.statePayload⟩]
           tx := .ready
           attempts := 0
           wait := 0
           lastStateStop := s.ownStop
           nextId := s.link.nextId + 1 } }) ∧
     (s.station ≠ .clash → s.link.queue = [] → s.link.tx = .empty → s.link.lineIdle = true →
       exec .statePeriodExpiry s = .next { s with
         periodTimer := some (s.now + 1000)
         link := { s.link with
           queue := [⟨s.link.nextId, .state, lineImage s.cfg.station 1 s.statePayload⟩]
           tx := .sending
           lineIdle := false
           attempts := 0
           wait := 0
           rx := if s.link.rx = .hunt then .frame else s.link.rx
           buffer := if s.link.rx = .hunt then [] else s.link.buffer
           lastStateStop := s.ownStop
           nextId := s.link.nextId + 1 } }) ∧
     (s.station ≠ .clash → ∃ t, exec .statePeriodExpiry s = .next t ∧ s.SameButLink t ∧
       t.periodTimer = some (s.now + 1000) ∧
       StateEntered s.link.tx (s.link.lastStateStop && !s.ownStop)
         ⟨s.link.nextId, .state, lineImage s.cfg.station 1 s.statePayload⟩ s.link.queue t.link.queue ∧
       (s.link.inProgress = true ∨ s.link.tx = .ready ∧ s.link.lineIdle = false → t.link = { s.link with
         queue := t.link.queue
         lastStateStop := s.ownStop
         nextId := s.link.nextId + 1 })) ∧
     (s.station = .clash → exec .statePeriodExpiry s = .next { s with
       periodTimer := some (s.now + 1000)
       link := { s.link with
         lastStateStop := s.ownStop
         nextId := s.link.nextId + 1 } }))

/-! ## The session (chapter 3) -/

/-- PRESENT (R34, R37, R38, R189): a card record is 12 bytes that agree with their check value, the permit id not 0 and the
class at most 3, each field at its place; the checks in their order, the first that holds being the refusal; a card that
passes all is answered PENDING, the session CHECKING with the card's permit and the socket's tag, and a PERMIT-CLAIM is at
the tail of the queue; a full queue ends the check LINK_BUSY at once (R11). -/
def Obligations.Present : Prop :=
  (∀ (card : List Byte) (p : Permit), parseCard card = some p ↔
    card.length = 12 ∧ crc16 (card.take 10) = fieldAt card 10 2 ∧ fieldAt card 0 4 ≠ 0 ∧ fieldAt card 7 1 ≤ 3 ∧
      p.id = fieldAt card 0 4 ∧ p.carrier = fieldAt card 4 2 ∧ p.groups.toNat = fieldAt card 6 1 ∧
      p.cls.val = fieldAt card 7 1 ∧ p.expiry = fieldAt card 8 2) ∧
  ∀ (s : State) (card : List Byte), s.Asks → card.length = 12 →
    (parseCard card = none → exec (.present card) s = .next (s.asked.answered (.refused .badCard))) ∧
    ∀ p, parseCard card = some p →
      let refusal := firstOf
        [(decide (s.station = .clash), .clash), (decide (s.station = .starting), .starting),
          (decide (s.session.state ≠ .none), .busy), (decide (s.clock.dateKnown = false), .noDate),
          (decide (p.expiry < s.clock.day), .expired), (decide (∃ r ∈ s.revoked, r.permit = p.id), .revoked),
          (s.retention.fault, .storeFault), (decide (16 ≤ s.notes.store.length), .noteStoreFull),
          (decide (s.socketView = none ∨ s.monitor.ground = false), .noTanker),
          (decide (∃ q, q ≠ s.cfg.station ∧ s.peers[q].fresh ≠ .gone ∧ s.peers[q].permit = some p.id), .inUse)]
      (∀ r, refusal = some r → exec (.present card) s = .next (s.asked.answered (.refused r))) ∧
      (∀ t, refusal = none → s.socketView = some t → s.link.queue.length < 8 →
        ∃ l : Link, l.queue = s.link.queue ++ [⟨s.link.nextId, .permitClaim, lineImage s.cfg.station 4 (beBytes 4 p.id)⟩] ∧
          exec (.present card) s = .next ({ s with
            link := l
            session := { s.asked.session with
              state := .checking
              permit := some p
              tag := some t
              start := none
              endReason := none
              outcome := none
              window := none
              checkFrame := s.link.nextId } }.answered .pending)) ∧
      (∀ t, refusal = none → s.socketView = some t → 8 ≤ s.link.queue.length →
        ∃ u, exec (.present card) s = .next u ∧ u.session.state = .none ∧ u.session.outcome = some .linkBusy ∧
          u.session.permit = none ∧ u.link.queue = s.link.queue ∧ u.panel = ⟨.answering, some .pending, false⟩)

/-- PERMIT_CLAIM_WINDOW_END (R41, R49): the session is ADMITTED with the clock's day and second, the idle timer has its
full limit, and a STATE that carries its permit is handed over (R30, R31), refused entry in CLASH (R16); nothing else
changes while no batch waits. -/
def Obligations.PermitClaimWindowEnd : Prop :=
  ∀ s : State, s.session.state = .checking → s.session.window ≠ none → s.linkOpen = true → s.allClosed = true →
    s.startQueue = [] → s.session.idle = none →
    ∃ t, exec .permitClaimWindowEnd s = .next t ∧ t.periodTimer = some (s.now + 1000) ∧ (s.Sends → t.Announced) ∧
      (s.station = .clash → t.link.queue = s.link.queue) ∧
      { s with session := { s.session with
          state := .admitted
          window := none
          start := some (s.clock.day, s.clock.second)
          outcome := some .admitted
          idle := some (s.now + s.cfg.idleLimit * 1000) } }.SameButLink t

/-- How an ADMITTED session ends by FINISH, by its idle timer or by its socket timer (R48 to R52, R73, R74, R172). With
an arm open the session is ENDING, its timers stopped, no arm flowing, no reservation, no low claim. With every arm
CLOSED it completes: with no batch started it is NONE at once; with one started a note of R171's figures joins the store
at its tail and its write the write queue; a full write queue or a waiting removal leaves it ENDING with its issue waiting.
FINISH is refused NO_SESSION in NONE and CHECKING, BUSY with an arm open, WRONG_STATE in ENDING (R50). -/
def Obligations.SessionEnding : Prop :=
  (∀ (s : State) (c : Instr) (r : Reason),
     (c = .finish ∧ r = .finished ∧ s.Asks ∧ s.allClosed = true) ∨
       (c = .idleTimerExpiry ∧ r = .idle ∧ s.session.idle ≠ none) ∨
       (c = .socketTimerExpiry ∧ r = .tankerGone ∧ s.session.socketTimer ≠ none) →
     s.session.state = .admitted → s.restart = false →
     let started := ∃ b, ∃ k : CompId, s.batches[k] = some b ∧ b.started = true ∧ b.state ≠ .planned
     let room := s.notes.outbox = [] ∧ s.retention.queue.length < 4
     ∃ t, exec c s = .next t ∧ t.session.endReason = some r ∧ t.session.idle = none ∧ t.session.socketTimer = none ∧
       t.session.start = s.session.start ∧ t.session.outcome = s.session.outcome ∧ t.cfg = s.cfg ∧ t.peers = s.peers ∧
       t.clock = s.clock ∧ t.revoked = s.revoked ∧ t.noFlow ∧ (∀ a, (t.arm a).reserved = none) ∧
       t.panel = (if c = .finish then ⟨.answering, some (.accepted []), false⟩ else s.panel) ∧
       (∀ h x, (t.header h).slot = some x → x.kind = .stepUp) ∧
       (s.allClosed = false → t.session.state = .ending ∧ t.session.permit = s.session.permit ∧
         t.batches = s.batches ∧ t.startQueue = s.startQueue ∧ t.notes = s.notes ∧ t.retention = s.retention) ∧
       (s.allClosed = true → t.startQueue = []) ∧
       (s.allClosed = true → (¬ started ∨ room) → t.session.state = .none ∧ t.session.permit = none ∧
         t.session.tag = none ∧ t.session.latches = Vector.replicate 4 false ∧ t.batches = Vector.replicate 8 none ∧
         (∀ a, (t.arm a).owner = none ∧ (t.arm a).meterCause = false ∧ (t.arm a).leakCause = (s.arm a).leakCause ∧
           (t.arm a).grossTotal = (s.arm a).grossTotal ∧ (t.arm a).closeAhead = (s.arm a).closeAhead)) ∧
       (s.allClosed = true → ¬ started → t.notes = s.notes ∧ t.retention = s.retention) ∧
       (s.allClosed = true → started → room → ∃ x : StoredNote, t.notes.store.map (fun n => (n.number, n.record)) =
           s.notes.store.map (fun n => (n.number, n.record)) ++ [(x.number, x.record)] ∧
         x.number = s.notes.nextNumber ∧ s.NoteOf x.number (some r) x.record ∧
         t.retention.queue = s.retention.queue ++ [.note x.number x.record t.notes.nextNumber] ∧
         t.retention.mem = s.retention.mem) ∧
       (s.allClosed = true → started → ¬ room → t.session.state = .ending ∧ t.notes.issueWaiting = true ∧
         t.notes.store = s.notes.store ∧ t.retention = s.retention ∧ t.session.permit = s.session.permit)) ∧
  (∀ s : State, s.Asks →
     (s.session.state = .none ∨ s.session.state = .checking →
       exec .finish s = .next (s.asked.answered (.refused .noSession))) ∧
     (s.session.state = .admitted → s.allClosed = false →
       exec .finish s = .next (s.asked.answered (.refused .busy))) ∧
     (s.session.state = .ending → exec .finish s = .next (s.asked.answered (.refused .wrongState))))

/-- TAG_REPORT (R35, R40, R48, R189): a readable tag has as many bytes as its count gives, agrees with its check value and
holds 1 to 8 safe fills of 1 to 99,999 L, each field at its place; an unreadable tag changes nothing; a readable one sets
the socket view; the session's own tanker stops the socket timer; another ends a check NO_TANKER and an ADMITTED session
TANKER_CHANGED. In CONFIG FAULT too the view follows the report. -/
def Obligations.TagReport : Prop :=
  (∀ (tag : List Byte) (g : Tag), parseTag tag = some g ↔
    let n := fieldAt tag 4 1 + 1
    n ≤ 8 ∧ tag.length = 7 + 3 * n ∧ crc16 (tag.take (5 + 3 * n)) = fieldAt tag (5 + 3 * n) 2 ∧
      g.id = fieldAt tag 0 4 ∧ g.fills = ((List.range n).map fun i => fieldAt tag (5 + 3 * i) 3) ∧
      ∀ fill ∈ g.fills, 1 ≤ fill ∧ fill ≤ 99999) ∧
  ∀ (s : State) (tag : List Byte),
    (parseTag tag = none → exec (.tagReport tag) s = .next s) ∧
    (∀ g, parseTag tag = some g →
      (s.session.state = .none ∨ s.session.state = .ending →
        exec (.tagReport tag) s = .next { s with socketView := some g }) ∧
      (∀ own, s.session.tag = some own → own.id = g.id → s.session.state = .admitted →
        exec (.tagReport tag) s = .next { s with
          socketView := some g
          session := { s.session with socketTimer := none } }) ∧
      (∀ own, s.session.tag = some own → own.id = g.id → s.session.state = .checking →
        exec (.tagReport tag) s = .next { s with socketView := some g }) ∧
      (∀ own, s.session.tag = some own → own.id ≠ g.id → s.session.state = .checking →
        exec (.tagReport tag) s = .next { s with
          socketView := some g
          session := { s.session with
            state := .none
            permit := none
            tag := none
            window := none
            outcome := some .noTanker } }) ∧
      (∀ own, s.session.tag = some own → own.id ≠ g.id → s.session.state = .admitted →
        ∃ t, exec (.tagReport tag) s = .next t ∧ t.socketView = some g ∧ t.session.endReason = some .tankerChanged ∧
          (t.session.state = .ending ∨ t.session.state = .none) ∧ t.session.socketTimer = none))

/-- SOCKET_STATE_REPORT and UNPLUG_REPORT (R157, R158, R48): a report whose check value does not agree sets ground NOT
PROVEN and every sensor FAULT; one that takes no permissive out and none back sets the values alone; one that withdraws
the first permissive stops every arm and cuts every step-down (R133); an unplug starts the 30 s socket timer of an
ADMITTED session. An unplug report whose check value does not agree is ignored (R194), and so is a state report cut short
(R194, log 67). That GROUND names the closes when one report withdraws GROUND and OVERFILL together is the model's choice
(log 32). In CONFIG FAULT the socket view follows an unplug and the monitor takes nothing (R35, R156). -/
def Obligations.SocketReports : Prop :=
  (∀ s : State, s.station = .configFault →
    (∀ body check, exec (.socketStateReport body check) s = .next s) ∧
    ∀ check, (unplugAgrees check = false → exec (.unplugReport check) s = .next s) ∧
      (unplugAgrees check = true → ∃ t, exec (.unplugReport check) s = .next t ∧ t.socketView = none ∧
        t.monitor = s.monitor ∧ (s.session.state = .none → t = { s with socketView := none }))) ∧
  ∀ (s : State), s.station ≠ .configFault →
    (∀ body check, body.length ≠ 9 → exec (.socketStateReport body check) s = .next s) ∧
    (∀ (body : List Byte) (check : BitVec 16) (m : Monitor), body.length = 9 →
      m = { s.monitor with
        ground := if socketStateAgrees body check then decide (body[0]? = some 1) else false
        sensors := if socketStateAgrees body check then vec8 (fun k => sensorOf (body.getD (k.val + 1) 2))
          else Vector.replicate 8 .fault } →
      ((m.groundOut = true → s.monitor.groundOut = true) → (m.overfillOut = true → s.monitor.overfillOut = true) →
        (s.monitor.withdrawn = true → m.withdrawn = true ∨ s.startQueue = []) →
        exec (.socketStateReport body check) s = .next { s with monitor := m }) ∧
      (s.restart = false → s.monitor.withdrawn = false → m.withdrawn = true →
        ∃ t, exec (.socketStateReport body check) s = .next t ∧ t.monitor = m ∧ s.SameLoad t ∧
          s.FastStopped t (if m.ground then .overfill else .ground) ∧ ∀ a, s.StepDownCut t a)) ∧
    (∀ check : BitVec 16,
      (unplugAgrees check = false → exec (.unplugReport check) s = .next s) ∧
      (unplugAgrees check = true → ∃ t, exec (.unplugReport check) s = .next t ∧ t.socketView = none ∧
        t.monitor = { s.monitor with
          ground := false
          sensors := Vector.replicate 8 .fault } ∧
        t.session = (match s.session.state with
          | .checking => { s.session with
              state := .none
              permit := none
              tag := none
              window := none
              outcome := some .noTanker }
          | .admitted => { s.session with socketTimer :=
              if s.session.socketTimer = none ∧ s.restart = false then some (s.now + 30000) else s.session.socketTimer }
          | _ => s.session) ∧
        (s.restart = false → s.monitor.withdrawn = false → s.FastStopped t .ground ∧ ∀ a, s.StepDownCut t a)))

/-! ## Batches (chapter 4) -/

/-- PLAN (R57, R58, R192): fields outside their ranges are a FORMAT error; otherwise the tests in their order, and a
request that passes creates the record PLANNED with the preset clamped to the safe fill. -/
def Obligations.Plan : Prop :=
  ∀ (s : State) (c grade arm : Byte) (preset : BitVec 24), s.Asks →
    let fits := grade.toNat ≤ 15 ∧ (1 ≤ preset.toNat ∧ preset.toNat ≤ 99999) ∧ (arm.toNat ≤ 3 ∨ arm = 255)
    (¬ fits → exec (.plan c grade preset arm) s = .next (s.answered (.refused .format))) ∧
    (fits →
      let g := toGrade grade
      let named := if arm = 255 then none else some (toArm arm)
      let header := (s.gradeCfg g).header
      let serves := fun a : ArmId => (s.armCfg a).enabled = true ∧ (s.armCfg a).header = header ∧
        (named = none ∨ named = some a)
      (s.session.state ≠ .admitted →
        exec (.plan c grade preset arm) s = .next (s.asked.answered (.refused .noSession))) ∧
      (s.session.state = .admitted → s.compartment c = none →
        exec (.plan c grade preset arm) s = .next (s.asked.answered (.refused .badCompartment))) ∧
      (∀ i permit, s.session.state = .admitted → s.compartment c = some i → s.session.permit = some permit →
        let clamped := min preset.toNat (s.safeFill i)
        let refusal := firstOf
          [(decide (s.batches[i] ≠ none), .duplicate), (!(s.gradeCfg g).enabled, .badGrade),
            (!permit.groups.getLsbD (s.headerCfg header).group.val, .notQualified),
            (decide (∀ a, ¬ serves a), .noArm),
            (decide (∃ code, (s.gradeCfg g).additive = some code ∧ ∀ j : InjectorId,
              ¬ ((s.injectorCfg j).enabled = true ∧ (s.injectorCfg j).code = code ∧ serves (s.injectorCfg j).arm)),
              .noInjector),
            (decide (clamped < s.cfg.minBatch), .tooSmall)]
        (∀ r, refusal = some r → exec (.plan c grade preset arm) s = .next (s.asked.answered (.refused r))) ∧
        (refusal = none → exec (.plan c grade preset arm) s = .next ({ s.asked with
          batches := s.batches.set i (some
            { grade := g
              preset := clamped
              pendPreset := none
              named := named
              state := .planned
              started := false
              suspReason := none
              suspCount := 0
              lastArm := none
              saved := false
              savedAcc := Accum.zero
              flags := LineFlags.empty }) }.answered
            (if clamped = preset.toNat then .accepted [] else .clamped)))))

/-- AMEND (R57, R59): the tests in their order; a batch not ACTIVE takes the clamped preset at once, an ACTIVE one holds it
pending. -/
def Obligations.Amend : Prop :=
  ∀ (s : State) (c : Byte) (preset : BitVec 24), s.Asks → 1 ≤ preset.toNat → preset.toNat ≤ 99999 →
    (s.session.state ≠ .admitted → exec (.amend c preset) s = .next (s.asked.answered (.refused .noSession))) ∧
    (s.session.state = .admitted → s.compartment c = none →
      exec (.amend c preset) s = .next (s.asked.answered (.refused .badCompartment))) ∧
    (∀ i, s.session.state = .admitted → s.compartment c = some i → s.batches[i] = none →
      exec (.amend c preset) s = .next (s.asked.answered (.refused .noBatch))) ∧
    (∀ i b, s.session.state = .admitted → s.compartment c = some i → s.batches[i] = some b →
      let clamped := min preset.toNat (s.safeFill i)
      let refusal := firstOf
        [(decide (b.state = .done ∨ b.state = .ended), .wrongState),
          (decide (b.state = .active ∧ ∃ a, s.ownerArm i = some a ∧ (s.arm a).stage = .closing), .tooLate),
          (decide (clamped < s.cfg.minBatch), .tooSmall),
          (decide ((b.state = .waiting ∨ b.state = .suspended) ∧ clamped * 100 ≤ (s.figures i b).gross), .tooLate)]
      (∀ r, refusal = some r → exec (.amend c preset) s = .next (s.asked.answered (.refused r))) ∧
      (refusal = none → b.state = .active → exec (.amend c preset) s = .next
        ({ s.asked with batches := s.batches.set i (some { b with pendPreset := some clamped }) }.answered .pending)) ∧
      (refusal = none → b.state ≠ .active → exec (.amend c preset) s = .next
        ({ s.asked with batches := s.batches.set i (some { b with preset := clamped }) }.answered
          (if clamped = preset.toNat then .accepted [] else .clamped))))

/-- CANCEL (R57, R60): a PLANNED batch is dropped; a WAITING one that never started leaves the queue, its reservation
released, and is dropped; any other is refused WRONG_STATE. -/
def Obligations.Cancel : Prop :=
  ∀ (s : State) (c : Byte), s.Asks →
    (s.session.state ≠ .admitted → exec (.cancel c) s = .next (s.asked.answered (.refused .noSession))) ∧
    (s.session.state = .admitted → s.compartment c = none →
      exec (.cancel c) s = .next (s.asked.answered (.refused .badCompartment))) ∧
    (∀ i, s.session.state = .admitted → s.compartment c = some i → s.batches[i] = none →
      exec (.cancel c) s = .next (s.asked.answered (.refused .noBatch))) ∧
    (∀ i b, s.session.state = .admitted → s.compartment c = some i → s.batches[i] = some b →
      (b.state = .planned → exec (.cancel c) s = .next
        ({ s.asked with batches := s.batches.set i none }.answered (.accepted []))) ∧
      (b.state = .waiting → b.started = false → ∃ t, exec (.cancel c) s = .next t ∧
        t.panel = ⟨.answering, some (.accepted []), false⟩ ∧ t.batches = s.batches.set i none ∧
        t.startQueue = s.startQueue.filter (· ≠ i) ∧
        (∀ a, s.reservedArm i = some a → (t.arm a).reserved ≠ some i ∧ s.ClaimGone t a) ∧
        t.notes = s.notes ∧ t.retention = s.retention ∧ t.session.state = .admitted ∧
        t.session.permit = s.session.permit) ∧
      (b.state ≠ .planned → (b.state ≠ .waiting ∨ b.started = true) →
        exec (.cancel c) s = .next (s.asked.answered (.refused .wrongState))))

/-- START (R61, R62, R64, R65, R82, R162): the tests in their order; an accepted batch is WAITING at the tail, the idle
timer stopped, the deadman RUNNING where no arm was open. On an empty queue with an arm that passes every test and room
on its header, the lowest such arm is reserved and its low claim QUEUED with its CLAIM frame at the tail. -/
def Obligations.Start : Prop :=
  ∀ (s : State) (c : Byte), s.Asks →
    (s.station = .clash → exec (.start c) s = .next (s.asked.answered (.refused .clash))) ∧
    (s.station = .starting → exec (.start c) s = .next (s.asked.answered (.refused .starting))) ∧
    (s.station = .running → s.session.state ≠ .admitted →
      exec (.start c) s = .next (s.asked.answered (.refused .noSession))) ∧
    (s.station = .running → s.session.state = .admitted → s.compartment c = none →
      exec (.start c) s = .next (s.asked.answered (.refused .badCompartment))) ∧
    (∀ i, s.station = .running → s.session.state = .admitted → s.compartment c = some i → s.batches[i] = none →
      exec (.start c) s = .next (s.asked.answered (.refused .noBatch))) ∧
    (∀ i b, s.station = .running → s.session.state = .admitted → s.compartment c = some i → s.batches[i] = some b →
      (b.state ≠ .planned → exec (.start c) s = .next (s.asked.answered (.refused .wrongState))) ∧
      (b.state = .planned → s.monitor.withdrawn = true →
        exec (.start c) s = .next (s.asked.answered (.refused .stopped))) ∧
      (b.state = .planned → s.monitor.withdrawn = false →
        let header := (s.gradeCfg b.grade).header
        let rests := s.allClosed = true ∧ s.monitor.deadman = .stopped
        let u := { s with
          panel := ⟨.answering, some (.accepted []), false⟩
          session := { s.session with idle := none }
          batches := s.batches.set i (some { b with
            state := .waiting
            suspReason := none })
          startQueue := s.startQueue ++ [i]
          monitor := if rests then
              { s.monitor with
                deadman := .running
                deadmanTimer := some (s.now + s.cfg.deadman * 1000)
                counted := Vector.replicate 2 false
                horn := false
                jam := if s.monitor.contacts = Vector.replicate 2 true then some (s.now + 1000) else none }
            else s.monitor }
        let passes := fun a : ArmId => (s.armCfg a).enabled = true ∧ (s.armCfg a).header = header ∧
          (b.named = none ∨ b.named = some a) ∧ (s.arm a).coupled = true ∧ (s.arm a).inService = true ∧
          (s.arm a).stage = .closed ∧ (s.arm a).reserved = none ∧
          ((s.gradeCfg b.grade).additive = none ∨ ∃ j, s.gradeInjector a b.grade = some j ∧
            (s.session.latches[j] = false ∨ s.monitor.bypass = true))
        (∃ t, exec (.start c) s = .next t ∧ t = { u with
          arms := t.arms
          headers := t.headers
          link := t.link
          periodTimer := t.periodTimer }) ∧
        (s.startQueue = [] → ((∀ a, ¬ passes a) ∨ s.headers[header].slot ≠ none ∨ s.headers[header].retryWait = true) →
          b.started = false → exec (.start c) s = .next u) ∧
        (∀ a, s.startQueue = [] → b.started = false → (∀ k, (s.arm k).reserved ≠ some i) → passes a →
          (∀ k, passes k → a ≤ k) → s.headers[header].slot = none → s.headers[header].retryWait = false →
          s.headers[header].ownShare + (s.armCfg a).lowShare ≤ (s.headerCfg header).capacity →
          s.link.queue.length < 8 → ∃ l : Link,
            l.queue = s.link.queue ++ [⟨s.link.nextId, .claim header, lineImage s.cfg.station 2
              (beBytes 1 header.val ++ beBytes 1 (s.headers[header].ownShare + (s.armCfg a).lowShare - 1) ++
                beBytes 1 s.sessionClass.val)⟩] ∧
            exec (.start c) s = .next { u with
              link := l
              arms := s.arms.set a { s.arms[a] with reserved := some i }
              headers := s.headers.set header { s.headers[header] with
                slot := some ⟨a, .low, (s.armCfg a).lowShare, s.headers[header].ownShare + (s.armCfg a).lowShare,
                  .queued, s.link.nextId⟩ } })))

/-- RESUME (R61, R62, R65): the tests in their order; an accepted batch is WAITING at the head, in front of every batch
queued, its suspension reason cleared and its count kept. On an empty queue the batch, started before, is given its last arm
if that passes every test, the K-factor among them, else the lowest arm that does: the arm is reserved and its low claim
QUEUED with its CLAIM frame at the tail. -/
def Obligations.Resume : Prop :=
  ∀ (s : State) (c : Byte), s.Asks →
    (s.station = .clash → exec (.resume c) s = .next (s.asked.answered (.refused .clash))) ∧
    (s.station = .starting → exec (.resume c) s = .next (s.asked.answered (.refused .starting))) ∧
    (s.station = .running → s.session.state ≠ .admitted →
      exec (.resume c) s = .next (s.asked.answered (.refused .noSession))) ∧
    (s.station = .running → s.session.state = .admitted → s.compartment c = none →
      exec (.resume c) s = .next (s.asked.answered (.refused .badCompartment))) ∧
    (∀ i, s.station = .running → s.session.state = .admitted → s.compartment c = some i → s.batches[i] = none →
      exec (.resume c) s = .next (s.asked.answered (.refused .noBatch))) ∧
    (∀ i b, s.station = .running → s.session.state = .admitted → s.compartment c = some i → s.batches[i] = some b →
      let refusal := firstOf
        [(decide (b.state ≠ .suspended), .wrongState), (s.monitor.withdrawn, .stopped),
          (decide (b.preset * 100 ≤ (s.figures i b).gross), .tooLate),
          (decide (∀ a, (s.armCfg a).enabled = true → (s.armCfg a).header = (s.gradeCfg b.grade).header →
            (∃ l, b.lastArm = some l ∧ (s.armCfg a).k = (s.armCfg l).k) → (s.arm a).inService = false), .noArm)]
      (∀ r, refusal = some r → exec (.resume c) s = .next (s.asked.answered (.refused r))) ∧
      (refusal = none → ∃ t, exec (.resume c) s = .next t ∧ t.panel = ⟨.answering, some (.accepted []), false⟩ ∧
        t.batches = s.batches.set i (some { b with
          state := .waiting
          suspReason := none }) ∧
        t.startQueue = i :: s.startQueue ∧ t.session = { s.session with idle := none } ∧
        (s.allClosed = false → t.monitor = s.monitor) ∧ t.notes = s.notes ∧ t.retention = s.retention) ∧
      (refusal = none → b.started = true → s.startQueue = [] → (∀ k, (s.arm k).reserved ≠ some i) →
        let header := (s.gradeCfg b.grade).header
        let rests := s.allClosed = true ∧ s.monitor.deadman = .stopped
        let u := { s with
          panel := ⟨.answering, some (.accepted []), false⟩
          session := { s.session with idle := none }
          batches := s.batches.set i (some { b with
            state := .waiting
            suspReason := none })
          startQueue := [i]
          monitor := if rests then
              { s.monitor with
                deadman := .running
                deadmanTimer := some (s.now + s.cfg.deadman * 1000)
                counted := Vector.replicate 2 false
                horn := false
                jam := if s.monitor.contacts = Vector.replicate 2 true then some (s.now + 1000) else none }
            else s.monitor }
        let passes := fun a : ArmId => (s.armCfg a).enabled = true ∧ (s.armCfg a).header = header ∧
          (b.named = none ∨ b.named = some a) ∧ (s.arm a).coupled = true ∧ (s.arm a).inService = true ∧
          (s.arm a).stage = .closed ∧ (s.arm a).reserved = none ∧
          ((s.gradeCfg b.grade).additive = none ∨ ∃ j, s.gradeInjector a b.grade = some j ∧
            (s.session.latches[j] = false ∨ s.monitor.bypass = true)) ∧
          ∃ l, b.lastArm = some l ∧ (s.armCfg a).k = (s.armCfg l).k
        ((∀ a, ¬ passes a) ∨ s.headers[header].slot ≠ none ∨ s.headers[header].retryWait = true →
          exec (.resume c) s = .next u) ∧
        ∀ a, passes a → (b.lastArm = some a ∨ ((∀ l, b.lastArm = some l → ¬ passes l) ∧ ∀ k, passes k → a ≤ k)) →
          s.headers[header].slot = none → s.headers[header].retryWait = false →
          s.headers[header].ownShare + (s.armCfg a).lowShare ≤ (s.headerCfg header).capacity →
          s.link.queue.length < 8 → ∃ l : Link,
            l.queue = s.link.queue ++ [⟨s.link.nextId, .claim header, lineImage s.cfg.station 2
              (beBytes 1 header.val ++ beBytes 1 (s.headers[header].ownShare + (s.armCfg a).lowShare - 1) ++
                beBytes 1 s.sessionClass.val)⟩] ∧
            exec (.resume c) s = .next { u with
              link := l
              arms := s.arms.set a { s.arms[a] with reserved := some i }
              headers := s.headers.set header { s.headers[header] with
                slot := some ⟨a, .low, (s.armCfg a).lowShare, s.headers[header].ownShare + (s.armCfg a).lowShare,
                  .queued, s.link.nextId⟩ } }))

/-- HOLD (R63): of a flowing ACTIVE batch, a controlled close HELD begins and the batch stays ACTIVE; of one CLOSING,
TOO_LATE; of a WAITING batch, it leaves the queue, PLANNED again or SUSPENDED HELD; of any other, WRONG_STATE. HOLD all
(255) acts on each of these in the same way, reservations released, and passes over the rest. -/
def Obligations.Hold : Prop :=
  ∀ s : State, s.Asks →
    (∀ c, s.session.state ≠ .admitted → exec (.hold c) s = .next (s.asked.answered (.refused .noSession))) ∧
    (∀ c, c ≠ 255 → s.session.state = .admitted → s.compartment c = none →
      exec (.hold c) s = .next (s.asked.answered (.refused .badCompartment))) ∧
    (∀ c i, c ≠ 255 → s.session.state = .admitted → s.compartment c = some i → s.batches[i] = none →
      exec (.hold c) s = .next (s.asked.answered (.refused .noBatch))) ∧
    (∀ c i b, c ≠ 255 → s.session.state = .admitted → s.compartment c = some i → s.batches[i] = some b →
      (∀ a, b.state = .active → s.ownerArm i = some a → (s.arm a).stage.flowing = true →
        ∃ t, exec (.hold c) s = .next t ∧ t.panel = ⟨.answering, some (.accepted []), false⟩ ∧ t.batches = s.batches ∧
          t.startQueue = s.startQueue ∧ (t.arm a).stage = .closing ∧
          (t.arm a).close = some ⟨.stop, .held, .controlled, if (s.arm a).stage = .full then .stepDown else .settle⟩ ∧
          (t.arm a).stepDown = (if (s.arm a).stage = .full then some (s.now + 2000) else none) ∧
          (t.arm a).settle = (if (s.arm a).stage = .full then none else some (s.now + 2000)) ∧
          (∀ k, k ≠ a → (t.arm k).stage = (s.arm k).stage)) ∧
      (∀ a, b.state = .active → s.ownerArm i = some a → (s.arm a).stage = .closing →
        exec (.hold c) s = .next (s.asked.answered (.refused .tooLate))) ∧
      (b.state = .waiting → ∃ t, exec (.hold c) s = .next t ∧ t.panel = ⟨.answering, some (.accepted []), false⟩ ∧
        t.startQueue = s.startQueue.filter (· ≠ i) ∧
        t.batches = s.batches.set i (some (if b.started then
            { b with
              state := .suspended
              suspReason := some .held
              suspCount := min 255 (b.suspCount + 1) }
          else { b with state := .planned })) ∧
        (∀ a, s.reservedArm i = some a → (t.arm a).reserved ≠ some i ∧ s.ClaimGone t a) ∧
        ∀ k, (t.arm k).stage = (s.arm k).stage) ∧
      (b.state ∉ [BatchState.active, .waiting] →
        exec (.hold c) s = .next (s.asked.answered (.refused .wrongState)))) ∧
    (s.session.state = .admitted →
      let acts := fun i : CompId => ∃ b, s.batches[i] = some b ∧
        ((b.state = .active ∧ ∃ a, s.ownerArm i = some a ∧ (s.arm a).stage.flowing = true) ∨ b.state = .waiting)
      ((∀ i, ¬ acts i) → exec (.hold 255) s = .next (s.asked.answered (.refused .wrongState))) ∧
      ((∃ i, acts i) → ∃ t, exec (.hold 255) s = .next t ∧ t.panel = ⟨.answering, some (.accepted []), false⟩ ∧
        (∀ (i : CompId), s.batches[i] = none → t.batches[i] = none) ∧
        (∀ (i : CompId) (b : Batch), s.batches[i] = some b → b.state ≠ .waiting → t.batches[i] = some b) ∧
        (∀ (i : CompId) (b : Batch), s.batches[i] = some b → b.state = .waiting → i ∉ t.startQueue ∧
          t.batches[i] = some (if b.started then
            { b with
              state := .suspended
              suspReason := some .held
              suspCount := min 255 (b.suspCount + 1) }
          else { b with state := .planned })) ∧
        (∀ i a, acts i → s.reservedArm i = some a → (∃ b, s.batches[i] = some b ∧ b.state = .waiting) →
          (t.arm a).reserved ≠ some i ∧ s.ClaimGone t a) ∧
        (∀ i a, acts i → s.ownerArm i = some a → (s.arm a).stage.flowing = true →
          (∃ b, s.batches[i] = some b ∧ b.state = .active) → (t.arm a).stage = .closing ∧
            (t.arm a).close = some ⟨.stop, .held, .controlled,
              if (s.arm a).stage = .full then .stepDown else .settle⟩ ∧
            (t.arm a).stepDown = (if (s.arm a).stage = .full then some (s.now + 2000) else none) ∧
            (t.arm a).settle = (if (s.arm a).stage = .full then none else some (s.now + 2000))) ∧
        ∀ a, (∀ i b, s.batches[i] = some b → b.state = .active → s.ownerArm i ≠ some a) ∨
          (s.arm a).stage.flowing = false → (t.arm a).stage = (s.arm a).stage ∧ (t.arm a).close = (s.arm a).close))

/-! ## The panel line (chapter 12) -/

/-- STATUS and NOTE-COPY change nothing but the idle timer and answer their figures, laid out as R193 gives; the panel port's
own events; every request with its fields in range is discarded while ANSWERING, answered STARTING under the RESTART line
and CONFIG_FAULT with the fault kind in CONFIG FAULT (R49, R76, R111, R176, R180, R181, R185). After the return to IDLE the
end of a frame begun in ANSWERING only ends the discarding. The model's readings: CONFIG_FAULT answers whether the RESTART
line is asserted or not (log 42), STATUS reads the idle timer it has restarted (log 54), its times left are whole seconds
rounded down (log 38), a figure that does not apply is all ones, the out-of-service cause of an arm in service among them
(log 23), and PANEL_ANSWER_COMPLETE carries whether a frame begun in ANSWERING goes on past the answer (log 57). -/
def Obligations.PanelReads : Prop :=
  ∀ s : State,
    (s.Asks →
      exec .statusSession s = .next (s.asked.answered (.accepted s.asked.sessionStatus)) ∧
      (∀ a : Byte, a.toNat ≤ 3 → exec (.statusArm a) s = .next
        (s.asked.answered (.accepted (s.asked.armStatus (toArm a)))) ∧
        s.asked.ArmBody (toArm a) (s.asked.armStatus (toArm a))) ∧
      (s.notes.store.length ≤ 16 → s.asked.SessionBody s.asked.sessionStatus) ∧
      (∀ a : Byte, 3 < a.toNat → exec (.statusArm a) s = .next (s.answered (.refused .format))) ∧
      (∀ c i b, s.session.state = .admitted ∨ s.session.state = .ending → s.compartment c = some i →
        s.batches[i] = some b →
        exec (.statusCompartment c) s = .next (s.asked.answered (.accepted (s.asked.compartmentFigures i b))) ∧
        (b.suspCount ≤ 255 → s.asked.CompartmentBody i b (s.asked.compartmentFigures i b))) ∧
      (∀ c, s.session.state = .admitted ∨ s.session.state = .ending → s.compartment c = none →
        exec (.statusCompartment c) s = .next (s.asked.answered (.refused .badCompartment))) ∧
      (∀ c i, s.session.state = .admitted ∨ s.session.state = .ending → s.compartment c = some i → s.batches[i] = none →
        exec (.statusCompartment c) s = .next (s.asked.answered (.refused .noBatch))) ∧
      (∀ c, s.session.state = .none ∨ s.session.state = .checking →
        exec (.statusCompartment c) s = .next (s.asked.answered (.refused .noSession))) ∧
      (∀ (n : BitVec 24) x, x ∈ s.notes.store → x.number = n.toNat → (∀ y ∈ s.notes.store, y.number = n.toNat → y = x) →
        exec (.noteCopy n) s = .next (s.asked.answered (.accepted x.record))) ∧
      (∀ n : BitVec 24, (∀ x ∈ s.notes.store, x.number ≠ n.toNat) →
        exec (.noteCopy n) s = .next (s.asked.answered (.refused .wrongState)))) ∧
    (∀ c ∈ [Instr.panelFormatError, .panelFrameCut],
      (s.panel.port = .answering → exec c s = .next s) ∧
      (s.panel.port ≠ .answering → s.panel.discarding = true → exec c s = .next
        { s with panel := { s.panel with discarding := false } }) ∧
      (s.panel.port ≠ .answering → s.panel.discarding = false → exec c s = .next (s.answered (.refused .format)))) ∧
    (∀ frameUnderWay : Bool,
      (s.panel.port = .answering → exec (.panelAnswerComplete frameUnderWay) s = .next
        { s with panel := ⟨.idle, none, frameUnderWay⟩ }) ∧
      (s.panel.port ≠ .answering → exec (.panelAnswerComplete frameUnderWay) s = .next s)) ∧
    (∀ c, (c ∈ [Instr.finish, .statusSession, .clearStop] ∨ (∃ k n, c ∈ [Instr.cancel k, .start k, .resume k, .hold k,
        .statusCompartment k, .noteCopy n]) ∨
      (∃ card : List Byte, card.length = 12 ∧ c = .present card) ∨
      (∃ (k g a : Byte) (p : BitVec 24), g.toNat ≤ 15 ∧ 1 ≤ p.toNat ∧ p.toNat ≤ 99999 ∧ (a.toNat ≤ 3 ∨ a = 255) ∧
        c = .plan k g p a) ∨
      (∃ (k : Byte) (p : BitVec 24), 1 ≤ p.toNat ∧ p.toNat ≤ 99999 ∧ c = .amend k p) ∨
      ∃ a : Byte, a.toNat ≤ 3 ∧ c = .statusArm a) →
      (s.panel.port = .answering → exec c s = .next s) ∧
      (s.panel.port ≠ .answering → s.panel.discarding = true → exec c s = .next
        { s with panel := { s.panel with discarding := false } }) ∧
      (s.panel.port ≠ .answering → s.panel.discarding = false →
        (s.station = .configFault → exec c s = .next (s.answered (.configFault s.faultKind))) ∧
        (s.station ≠ .configFault → s.restart = true → exec c s = .next (s.answered (.refused .starting)))))

/-! ## Header shares (chapter 5) -/

/-- SETTLE_WINDOW_END of a claim that fits what the claims ahead of it leave (R84: higher classes first, then the own class
below the own number, each by station; R85): own steady share rises by the increase, the arm's stage rises with it, a
STATE is handed over, and the slot is FREE again unless it is passed on to a waiting arm (R81). A LOW CLAIM opens the arm
for the batch it was reserved to, which leaves the queue ACTIVE with its figures in the arm's context, the figures of a
former owner saved (R67, R70, R99, R162), and a conversion is started (R107; log 47). -/
def Obligations.ClaimCommits : Prop :=
  ∀ (s : State) (h : HeaderId) (c : Claim) (ends : Nat) (order : List StationId), s.headers[h].slot = some c →
    c.phase = .settling ends → (s.armCfg c.arm).header = h → s.WalkOrder h order →
    (c.increase = 0 ∨ (c.increase : Int) ≤ s.walkLeft h order) →
    (c.kind = .low → (s.arm c.arm).stage = .closed → c.increase = (s.armCfg c.arm).lowShare →
      ∀ k b, (s.arm c.arm).reserved = some k → s.batches[k] = some b →
        (∀ a a' : ArmId, (s.arm a).owner = some k → (s.arm a').owner = some k → a = a') →
        (b.saved = true ∨ b.started = false ∨ ∃ a, (s.arm a).owner = some k) →
      ∃ t, exec (.settleWindowEnd h) s = .next t ∧ (t.arm c.arm).stage = .low ∧
        t.headers[h].ownShare = s.headers[h].ownShare + c.increase ∧ (t.arm c.arm).owner = some k ∧
        (t.arm c.arm).counting = true ∧ (t.arm c.arm).sliceCounter = (s.armCfg c.arm).slice ∧
        (t.arm c.arm).bCount = 0 ∧ (t.arm c.arm).sliceTimer = some s.now ∧
        (t.arm c.arm).noFlow = some (s.now + 10000) ∧ (t.arm c.arm).flowCounter = some s.now ∧
        (t.arm c.arm).lastRate = 0 ∧ Converts s.now (s.arm c.arm) (t.arm c.arm) ∧ (t.arm c.arm).live = s.figures k b ∧
        (∃ b', t.batches[k] = some b' ∧ b'.state = .active ∧ b'.started = true ∧ b'.lastArm = some c.arm ∧
          b'.saved = false ∧ b'.preset = b.preset) ∧
        (∀ k' b', (s.arm c.arm).owner = some k' → k' ≠ k → s.batches[k'] = some b' →
          t.batches[k'] = some { b' with
            saved := true
            savedAcc := (s.arm c.arm).live }) ∧
        (b.saved = false → ∀ a, a ≠ c.arm → (t.arm a).owner ≠ some k) ∧
        k ∉ t.startQueue ∧ t.session.idle = none ∧ t.monitor.deadman ≠ .stopped ∧
        (t.lowSolenoid c.arm = !s.restart) ∧ t.mainSolenoid c.arm = false ∧ (s.Sends → t.Announced) ∧
        ((∀ x ∈ s.startQueue, x = k) → s.PassedOn t h (s.headers[h].ownShare + c.increase) 1 fun a =>
          (s.armCfg a).header = h ∧ (s.arm a).stepUp = .waiting) ∧
        ∀ a, a ≠ c.arm → (t.arm a).stage = (s.arm a).stage) ∧
    (c.kind = .stepUp → (s.arm c.arm).stage = .low ∨ (s.arm c.arm).stage = .reduced →
      c.increase = (s.armCfg c.arm).fullShare - (s.armCfg c.arm).lowShare →
      (s.armCfg c.arm).lowShare ≤ (s.armCfg c.arm).fullShare →
      ∃ t, exec (.settleWindowEnd h) s = .next t ∧ (t.arm c.arm).stage = .full ∧ (t.arm c.arm).stepUp = .none ∧
        (t.arm c.arm).overdrawTimer = none ∧ t.headers[h].ownShare = s.headers[h].ownShare + c.increase ∧
        (t.mainSolenoid c.arm = !s.restart) ∧ t.batches = s.batches ∧ t.session = s.session ∧
        (s.Sends → t.Announced) ∧
        (s.startQueue = [] → s.PassedOn t h (s.headers[h].ownShare + c.increase) 1 fun a =>
          (s.armCfg a).header = h ∧ (s.arm a).stepUp = .waiting ∧ a ≠ c.arm) ∧
        ∀ a, a ≠ c.arm → (t.arm a).stage = (s.arm a).stage)

/-- SETTLE_WINDOW_END of a claim that does not fit what the claims ahead of it leave (R84, R86, R92): a STATE is handed over,
shares, stages and batches stay, the retry timer starts at 5 s, the slot is FREE again unless it is passed on to a waiting
arm (R81), a LOW CLAIM's reservation ends with the header's retry wait set, a STEP-UP waits for its retry, and a session of
class above 0 with the yield timer stopped starts it at 2 s and hands over a YIELD of the shortfall, at most 250 units. -/
def Obligations.ClaimWithdraws : Prop :=
  ∀ (s : State) (h : HeaderId) (c : Claim) (ends : Nat) (order : List StationId), s.headers[h].slot = some c →
    c.phase = .settling ends → (s.armCfg c.arm).header = h → s.WalkOrder h order → s.linkOpen = true → 0 < c.increase →
    s.walkLeft h order < c.increase →
    ∃ t, exec (.settleWindowEnd h) s = .next t ∧ t.headers[h].ownShare = s.headers[h].ownShare ∧
      t.headers[h].retryTimer = some (s.now + 5000) ∧ (∀ a, (t.arm a).stage = (s.arm a).stage) ∧ s.SameLoad t ∧
      t.periodTimer = some (s.now + 1000) ∧ (s.Sends → t.Announced) ∧
      (c.kind = .low ∨ s.startQueue = [] → s.PassedOn t h s.headers[h].ownShare 2 fun a =>
        (s.armCfg a).header = h ∧ (s.arm a).stepUp = .waiting ∧ (c.kind = .stepUp → a ≠ c.arm)) ∧
      (c.kind = .low → t.headers[h].retryWait = true ∧ (t.arm c.arm).reserved = none) ∧
      (c.kind = .stepUp → (t.arm c.arm).stepUp = .retryWait) ∧
      t.headers[h].yieldTimer = (if 0 < s.sessionClass.val ∧ s.headers[h].yieldTimer = none then some (s.now + 2000)
        else s.headers[h].yieldTimer) ∧
      (0 < s.sessionClass.val → s.headers[h].yieldTimer = none → s.station ≠ .clash → s.link.queue.length < 7 →
        ∃ id, (⟨id, .yield h, lineImage s.cfg.station 3 (beBytes 1 h.val ++
          beBytes 1 (min (c.increase - s.walkLeft h order).toNat 250 - 1) ++ beBytes 1 s.sessionClass.val)⟩ : TxFrame) ∈
            t.link.queue)

/-- The share negotiator's timers (R90, R91, R92, R95, R97). A retry trigger clears the header's retry wait and retry
timer, wakes its RETRY WAIT arms and, no batch being queued, passes a FREE slot on to the lowest arm that waits (R81); a
yield timer only stops; a hold-off that ends on an arm no longer REDUCED only
stops, on a REDUCED arm it asks a STEP-UP; an overdraw timer fast-closes its arm. -/
def Obligations.ShareTimers : Prop :=
  ∀ s : State,
    (∀ h : HeaderId, s.headers[h].retryTimer ≠ none → s.startQueue = [] →
      (∀ a, (s.armCfg a).header = h → (s.arm a).stepUp ≠ .retryWait ∧ (s.arm a).stepUp ≠ .waiting) →
      exec (.retryTimerExpiry h) s = .next { s with headers := s.headers.set h { s.headers[h] with
        retryTimer := none
        retryWait := false } }) ∧
    (∀ h : HeaderId, s.headers[h].retryTimer ≠ none → ∃ t, exec (.retryTimerExpiry h) s = .next t ∧ s.SameLoad t ∧
      (∀ a, (t.arm a).stage = (s.arm a).stage) ∧ (s.startQueue = [] → s.Retried t fun k => decide (k = h)) ∧
      (s.headers[h].slot ≠ none → ∀ a, (s.armCfg a).header = h → (s.arm a).stepUp = .retryWait →
        (t.arm a).stepUp = .waiting)) ∧
    (∀ h : HeaderId, exec (.yieldTimerExpiry h) s = .next
      { s with headers := s.headers.set h { s.headers[h] with yieldTimer := none } }) ∧
    (∀ a : ArmId, s.arms[a].holdOff ≠ none → s.arms[a].stage ≠ .reduced →
      exec (.holdOffExpiry a) s = .next { s with arms := s.arms.set a { s.arms[a] with holdOff := none } }) ∧
    (∀ a : ArmId, s.arms[a].holdOff ≠ none → s.arms[a].stage = .reduced → s.arms[a].stepUp = .none →
      s.mayClaim = true →
      let h := (s.armCfg a).header
      let c : Claim := ⟨a, .stepUp, (s.armCfg a).fullShare - (s.armCfg a).lowShare,
        s.headers[h].ownShare + ((s.armCfg a).fullShare - (s.armCfg a).lowShare), .queued, s.link.nextId⟩
      (s.headers[h].slot ≠ none → exec (.holdOffExpiry a) s = .next { s with arms := s.arms.set a { s.arms[a] with
        holdOff := none
        stepUp := .waiting } }) ∧
      (s.headers[h].slot = none → c.total ≤ (s.headerCfg h).capacity → s.link.queue.length < 8 → s.restart = false →
        ∃ l : Link, l.queue = s.link.queue ++ [⟨s.link.nextId, .claim h, lineImage s.cfg.station 2
            (beBytes 1 h.val ++ beBytes 1 (c.total - 1) ++ beBytes 1 s.sessionClass.val)⟩] ∧
          exec (.holdOffExpiry a) s = .next { s with
            link := l
            arms := s.arms.set a { s.arms[a] with
              holdOff := none
              stepUp := .inClaim }
            headers := s.headers.set h { s.headers[h] with slot := some c } })) ∧
    (∀ a : ArmId, s.arms[a].overdrawTimer ≠ none → s.restart = false → s.arms[a].stage.flowing = true →
      ∃ t, exec (.overdrawTimerExpiry a) s = .next t ∧ s.SameLoad t ∧ (t.arm a).stage = .closing ∧
        (t.arm a).close = some ⟨.stop, .overdraw, .fast, .settle⟩ ∧ (t.arm a).overdrawTimer = none ∧
        ∀ k, k ≠ a → (t.arm k).stage = (s.arm k).stage)

/-! ## Meter channels and volumes (chapters 6 and 7) -/

/-- Pulses, conversions and flow time (R100, R107, R109, R110, R134): a pulse counted while counting is ON, an A pulse
that does not complete a slice lowering the counter and restarting the running no-flow and settle timers; nothing
counted while it is OFF; a conversion within the probe window becoming the last good reading; the result that a slice has
found owed, taken while the next conversion goes on (R108, log 47); no result taken where none is; a second of flow time, which
stays at 4,294,967,295 s: that it is held there at the top of R110's range is the model's reading (log 33). -/
def Obligations.PulsesAndReadings : Prop :=
  ∀ (s : State) (a : ArmId),
    ((s.armCfg a).enabled = true → s.arms[a].counting = true → 1 < s.arms[a].sliceCounter → exec (.aPulse a) s = .next
      { s with arms := s.arms.set a { s.arms[a] with
          sliceCounter := s.arms[a].sliceCounter - 1
          lastA := some (s.sliceElapsed a)
          noFlow := s.arms[a].noFlow.map fun _ => s.now + 10000
          settle := s.arms[a].settle.map fun _ => s.now + 2000 } }) ∧
    ((s.armCfg a).enabled = true → s.arms[a].counting = true → exec (.bPulse a) s = .next
      { s with arms := s.arms.set a { s.arms[a] with bCount := min 1048575 (s.arms[a].bCount + 1) } }) ∧
    ((s.armCfg a).enabled = false ∨ s.arms[a].counting = false →
      exec (.aPulse a) s = .next s ∧ exec (.bPulse a) s = .next s) ∧
    (s.arms[a].converter = none → s.arms[a].resultsOwed = 0 → ∀ r, exec (.conversionComplete a r) s = .next s) ∧
    (∀ (r : Int) (n : Nat), s.arms[a].resultsOwed = n + 1 →
      (-5000 ≤ r → r ≤ 8000 → exec (.conversionComplete a r) s = .next { s with arms := s.arms.set a { s.arms[a] with
        resultsOwed := n
        lastGood := some r
        lastDiscarded := false } }) ∧
      (r < -5000 ∨ 8000 < r → exec (.conversionComplete a r) s = .next { s with arms := s.arms.set a { s.arms[a] with
        resultsOwed := n
        lastDiscarded := true } })) ∧
    (∀ r : Int, s.arms[a].converter ≠ none → s.arms[a].resultsOwed = 0 →
      (-5000 ≤ r → r ≤ 8000 → exec (.conversionComplete a r) s = .next { s with arms := s.arms.set a { s.arms[a] with
        converter := none
        lastGood := some r
        lastDiscarded := false } }) ∧
      (r < -5000 ∨ 8000 < r → exec (.conversionComplete a r) s = .next { s with arms := s.arms.set a { s.arms[a] with
        converter := none
        lastDiscarded := true } })) ∧
    (s.arms[a].flowCounter ≠ none → exec (.flowTimeSecond a) s = .next { s with arms := s.arms.set a { s.arms[a] with
      live := { s.arms[a].live with flow := min 4294967295 (s.arms[a].live.flow + 1) }
      flowCounter := some s.now } })

/-- The A pulse that completes a full slice (R101, R103, R104, R108, R113 to R118, R122): over the whole fill nothing is
lost, K × ΔG + new remainder = p × 10 × MF + old remainder and 10^6 × ΔS + new remainder = ΔG × CTL + old remainder,
with the meter factor of the slice's own rate and CTL of its reading; the owner's figures, the weighted sum and both
totalizers grow by the increments; the channel is reloaded, and a conversion is started (R107), also where one ends at that
moment, whose result is still owed (R108, log 47). A volume that leaves its 48 bits is free (log 22). -/
def Obligations.FullSliceVolumes : Prop :=
  ∀ (s : State) (a : ArmId), (s.armCfg a).enabled = true → s.arms[a].counting = true → s.arms[a].sliceCounter = 1 →
    1 ≤ (s.armCfg a).slice →
    let c := s.armCfg a
    let m := s.arms[a]
    let d := max 1 (s.sliceElapsed a)
    let mf := if c.slice * 60000000 / (c.k * d) < c.lowFlow then c.mfLow else c.mfHigh
    let reading := m.lastGood.getD 1500
    let ctl := ctlUsed (s.headerCfg c.header).alpha (s.headerCfg c.header).gamma reading
    ∃ t dG dS, exec (.aPulse a) s = .next t ∧
      (0 < c.k → (t.arm a).live.grossRem < c.k) ∧
      c.k * dG + (t.arm a).live.grossRem = c.slice * 10 * mf + m.live.grossRem ∧
      (t.arm a).live.stdRem < 1000000 ∧ 1000000 * dS + (t.arm a).live.stdRem = dG * ctl + m.live.stdRem ∧
      (m.live.gross + dG < 2 ^ 48 → (t.arm a).live.gross = m.live.gross + dG) ∧
      (m.live.std + dS < 2 ^ 48 → (t.arm a).live.std = m.live.std + dS) ∧
      (-2 ^ 63 ≤ m.live.weighted + dG * reading → m.live.weighted + dG * reading < 2 ^ 63 →
        (t.arm a).live.weighted = m.live.weighted + dG * reading) ∧
      (t.arm a).grossTotal.toNat = (m.grossTotal.toNat + dG) % 2 ^ 48 ∧
      (t.arm a).stdTotal.toNat = (m.stdTotal.toNat + dS) % 2 ^ 48 ∧
      (t.arm a).lastRate = dG * 600 / d ∧ (t.arm a).sliceCounter = c.slice ∧ (t.arm a).bCount = 0 ∧
      (t.arm a).lastA = none ∧ (t.arm a).sliceTimer = some s.now ∧ Converts s.now m (t.arm a) ∧
      (t.arm a).lastGood = m.lastGood ∧ (t.arm a).lastDiscarded = m.lastDiscarded ∧ (t.arm a).owner = m.owner ∧
      (∀ k b, m.owner = some k → s.batches[k] = some b → m.lastGood = none ∨ m.lastDiscarded = true →
        ∃ b', t.batches[k] = some b' ∧ b'.flags.tempHeld = true) ∧
      (∀ k b, m.owner = some k → s.batches[k] = some b →
        ctlClamps (s.headerCfg c.header).alpha (s.headerCfg c.header).gamma reading = true →
        ∃ b', t.batches[k] = some b' ∧ b'.flags.ctlClamped = true) ∧
      ∀ k, k ≠ a → (t.arm k).live = (s.arm k).live ∧ (t.arm k).stage = (s.arm k).stage ∧
        (t.arm k).grossTotal = (s.arm k).grossTotal

/-- The correction factor (R115, R116): within its ends it is 1,000,000 less the two terms, each rounded with halves away
from zero; beyond them it is the nearer end. The rounding of x / d is the whole number nearest to it (R1). -/
def Obligations.CorrectionFactor : Prop :=
  (∀ (x : Int) (d : Nat), 0 < d → 2 * (x - d * roundDiv x d) ≤ d ∧ -(d : Int) ≤ 2 * (x - d * roundDiv x d) ∧
    (2 * (x - d * roundDiv x d) = d → x < 0) ∧ (2 * (x - d * roundDiv x d) = -(d : Int) → 0 < x)) ∧
  ∀ (alpha gamma : Nat) (t : Int),
    let formed := 1000000 - roundDiv (alpha * (t - 1500)) 1000 - roundDiv (gamma * (t - 1500) ^ 2) 10000000
    900000 ≤ ctlUsed alpha gamma t ∧ ctlUsed alpha gamma t ≤ 1100000 ∧
      (900000 ≤ formed → formed ≤ 1100000 → (ctlUsed alpha gamma t : Int) = formed ∧ ctlClamps alpha gamma t = false) ∧
      (formed < 900000 → ctlUsed alpha gamma t = 900000 ∧ ctlClamps alpha gamma t = true) ∧
      (1100000 < formed → ctlUsed alpha gamma t = 1100000 ∧ ctlClamps alpha gamma t = true)

/-! ## Additive (chapter 9) -/

/-- The law of owed additive at a full slice of a batch whose grade carries an additive (R142, R143): owed + 100 ×
commanded grows by r × ΔG, and a shot takes Q × 100 off the one and adds Q to the other. -/
def Obligations.AdditiveLaw : Prop :=
  ∀ (s : State) (a : ArmId) (k : CompId) (b : Batch) (code : AdditiveCode), (s.armCfg a).enabled = true →
    s.arms[a].counting = true → s.arms[a].sliceCounter = 1 → 1 ≤ (s.armCfg a).slice → s.arms[a].owner = some k →
    s.batches[k] = some b → (s.gradeCfg b.grade).additive = some code →
    let dG := s.fullSliceGain a
    ∃ t, exec (.aPulse a) s = .next t ∧
      (s.arms[a].live.gross + dG < 2 ^ 48 → (t.arm a).live.gross = s.arms[a].live.gross + dG) ∧
      (t.arm a).live.owed + 100 * (t.arm a).live.commanded =
        s.arms[a].live.owed + 100 * s.arms[a].live.commanded + dG * (s.gradeCfg b.grade).ratio ∧
      (∀ i, s.servingInjector a code = some i →
        (t.arm a).live.commanded = s.arms[a].live.commanded ∨
          (t.arm a).live.commanded = s.arms[a].live.commanded + (s.injectorCfg i).shot) ∧
      (∀ i, s.servingInjector a code = some i → (s.injector i).firing = true ∨ s.session.latches[i] = true →
        (t.arm a).live.commanded = s.arms[a].live.commanded)

/-- A shot at a full slice (R143, R147 to R150): due with the injector IDLE, no latch, enough owed after the accrual, a
flowing arm and more than the flush volume left. An OPEN window is judged first: short of its expected count less the
tolerance with the cut marker clear, or over it by the tolerance, the bad shot run goes up, else a window not cut clears
it. A run of 3 sets the latch, no shot fires, and with the bypass key off the arm closes ADDITIVE under control, with it on
the batch's line is flagged. Otherwise the shot fires. A shot not due leaves the injector as it was. -/
def Obligations.ShotFires : Prop :=
  ∀ (s : State) (a : ArmId) (k : CompId) (b : Batch) (code : AdditiveCode) (i : InjectorId),
    (s.armCfg a).enabled = true → s.arms[a].counting = true → s.arms[a].sliceCounter = 1 → 1 ≤ (s.armCfg a).slice →
    s.arms[a].owner = some k → s.batches[k] = some b → (s.gradeCfg b.grade).additive = some code →
    s.servingInjector a code = some i → (s.injector i).firing = false →
    s.session.latches[i] = false → s.arms[a].stage.flowing = true →
    let run := match (s.injector i).window with
      | none => (s.injector i).badRun
      | some w => badRunAfter (s.injectorCfg i) w (s.injector i).badRun
    let dG := s.fullSliceGain a
    ∃ t, exec (.aPulse a) s = .next t ∧
      (s.arms[a].live.gross + dG < 2 ^ 48 → (t.arm a).live.gross = s.arms[a].live.gross + dG ∧
        ((s.injectorCfg i).shot * 100 ≤ s.arms[a].live.owed + dG * (s.gradeCfg b.grade).ratio →
          s.arms[a].live.gross + dG + (s.injectorCfg i).flush * 100 < b.preset * 100 →
          (t.injector i).badRun = run ∧
          ((s.injector i).window = none ∨ run ≠ 3 →
            (t.injector i).firing = true ∧ (t.injector i).shotPulses = 0 ∧
            (t.injector i).width = some (s.now + (s.injectorCfg i).width) ∧
            (t.injector i).window = some ⟨k, 0, false⟩ ∧ t.session.latches[i] = false ∧
            (t.arm a).live.commanded = s.arms[a].live.commanded + (s.injectorCfg i).shot ∧
            (t.arm a).live.owed + (s.injectorCfg i).shot * 100 =
              s.arms[a].live.owed + dG * (s.gradeCfg b.grade).ratio) ∧
          (∀ w, (s.injector i).window = some w → run = 3 →
            (t.injector i).firing = false ∧ (t.injector i).window = none ∧ t.session.latches[i] = true ∧
            (t.arm a).live.commanded = s.arms[a].live.commanded ∧
            (s.monitor.bypass = false → s.restart = false → (t.arm a).stage = .closing ∧
              (t.arm a).close = some ⟨.stop, .additive, .controlled,
                if s.arms[a].stage = .full then .stepDown else .settle⟩) ∧
            (s.monitor.bypass = true → ∀ bw, s.batches[w.batch] = some bw →
              ∃ b', t.batches[w.batch] = some b' ∧ b'.flags.bypassed = true))) ∧
        (s.arms[a].live.owed + dG * (s.gradeCfg b.grade).ratio < (s.injectorCfg i).shot * 100 ∨
            b.preset * 100 ≤ s.arms[a].live.gross + dG + (s.injectorCfg i).flush * 100 →
          t.injector i = s.injector i ∧ t.session.latches[i] = false ∧
            (t.arm a).live.commanded = s.arms[a].live.commanded))

/-- Feedback pulses and the width timer (R145, R146): a pulse in an OPEN window is counted in it and in the batch's total,
and in the shot while the injector is FIRING, whose expected count ends the shot; without a window it counts nothing; a
width expiry ends the shot and leaves the window. -/
def Obligations.InjectorShots : Prop :=
  ∀ (s : State) (i : InjectorId),
    let a := (s.injectorCfg i).arm
    let expected := max 1 ((s.injectorCfg i).shot * (s.injectorCfg i).feedbackK / 1000)
    let counted := s.arms.set a { s.arms[a] with live :=
      { s.arms[a].live with feedback := s.arms[a].live.feedback + 1 } }
    ((s.injectors[i].window = none ∨ s.restart = true) → exec (.feedbackPulse i) s = .next s) ∧
    (∀ w, s.injectors[i].window = some w → s.restart = false →
      let w' : Window := { w with count := min 4294967295 (w.count + 1) }
      (s.injectors[i].firing = false → exec (.feedbackPulse i) s = .next { s with
        arms := counted
        injectors := s.injectors.set i { s.injectors[i] with window := some w' } }) ∧
      (s.injectors[i].firing = true → s.injectors[i].shotPulses + 1 < expected →
        exec (.feedbackPulse i) s = .next { s with
          arms := counted
          injectors := s.injectors.set i { s.injectors[i] with
            window := some w'
            shotPulses := s.injectors[i].shotPulses + 1 } }) ∧
      (s.injectors[i].firing = true → expected ≤ s.injectors[i].shotPulses + 1 →
        exec (.feedbackPulse i) s = .next { s with
          arms := counted
          injectors := s.injectors.set i { s.injectors[i] with
            window := some w'
            shotPulses := s.injectors[i].shotPulses + 1
            firing := false
            width := none } })) ∧
    (s.injectors[i].width ≠ none → s.injectors[i].firing = true → exec (.widthTimerExpiry i) s = .next
      { s with injectors := s.injectors.set i { s.injectors[i] with
          firing := false
          width := none } })

/-! ## Arms (chapters 5, 6 and 8) -/

/-- The tests of a full slice on a flowing arm (R94, R96, R97, R128 to R130), for a batch without additive and with the
dual-pulse check off: the pending preset applied; a preset reached closes PRESET; the close-ahead mark closes
CLOSE-AHEAD, the slowdown mark enters SLOWDOWN; above it a third overdraw slice in FULL steps to LOW and bars, an unlocked
yield mark steps to REDUCED with its hold-off, and in LOW and REDUCED an overdraw slice keeps the 5 s timer running. In LOW
at its start volume the arm asks for its STEP-UP (R80, R82): a FREE slot is taken with its CLAIM at the tail, a held slot
is waited for, and a total above the capacity waits for its retry. The slice's gross is the configured count's (R103, R104, R114).
The dual-pulse check (R105, R106): a mismatch of the two counts above 1 is added to the batch's pulse errors, and errors
above a limit that is not 0 take the arm out of service with cause METER and close it METER under control. -/
def Obligations.SliceStages : Prop :=
  (∀ (s : State) (a : ArmId), (s.armCfg a).enabled = true → s.arms[a].counting = true → s.arms[a].sliceCounter = 1 →
    (∀ k b, s.arms[a].owner = some k → s.batches[k] = some b → (s.gradeCfg b.grade).additive = none) →
    let errors := pulseErrors s.cfg.pulseLimit s.arms[a].live.pulseErr (s.armCfg a).slice s.arms[a].bCount
    ∃ t, exec (.aPulse a) s = .next t ∧ (t.arm a).live.pulseErr = errors.1 ∧
      (t.arm a).meterCause = (s.arms[a].meterCause || errors.2) ∧ (t.arm a).leakCause = s.arms[a].leakCause ∧
      (errors.2 = true → s.restart = false → s.arms[a].stage.flowing = true → (t.arm a).stage = .closing ∧
        (t.arm a).close = some ⟨.stop, .meter, .controlled,
          if s.arms[a].stage = .full then .stepDown else .settle⟩) ∧
      (s.arms[a].stage = .closing → (t.arm a).stage = .closing ∧ (t.arm a).close = s.arms[a].close)) ∧
  ∀ (s : State) (a : ArmId) (k : CompId) (b : Batch), (s.armCfg a).enabled = true → s.arms[a].counting = true →
    s.arms[a].sliceCounter = 1 → s.arms[a].owner = some k → s.batches[k] = some b → s.arms[a].stage.flowing = true →
    s.restart = false → (s.gradeCfg b.grade).additive = none → s.cfg.pulseLimit = 0 →
    let dG := s.fullSliceGain a
    ∃ t, exec (.aPulse a) s = .next t ∧ (s.arms[a].live.gross + dG < 2 ^ 48 →
      let m := s.arms[a]
      let c := s.armCfg a
      let gross := m.live.gross + dG
      let preset := b.pendPreset.getD b.preset
      let left : Int := preset * 100 - gross
      let rate := dG * 600 / max 1 (s.sliceElapsed a)
      let phase := if m.stage = .full then ClosePhase.stepDown else ClosePhase.settle
      (t.arm a).live.gross = gross ∧
      (∃ b', t.batches[k] = some b' ∧ b'.preset = preset ∧ b'.pendPreset = none ∧ b'.state = b.state) ∧
      (∀ x, b.pendPreset = some x → x * 100 ≤ gross →
        (t.arm a).stage = .closing ∧ (t.arm a).close = some ⟨.normal, .preset, .controlled, phase⟩) ∧
      ((∀ x, b.pendPreset = some x → gross < x * 100) →
        ((m.stage = .slowdown ∨ left ≤ (c.slowVol : Int) * 100) → left ≤ m.closeAhead →
          (t.arm a).stage = .closing ∧ (t.arm a).close = some ⟨.normal, .closeAhead, .controlled, .settle⟩) ∧
        ((m.stage = .slowdown ∨ left ≤ (c.slowVol : Int) * 100) → (m.closeAhead : Int) < left →
          (t.arm a).stage = .slowdown) ∧
        ((c.slowVol : Int) * 100 < left → m.stage = .full →
          (110 * c.fullShare < rate → 2 ≤ m.overdrawCount → (t.arm a).stage = .low ∧ (t.arm a).stepUp = .barred ∧
            (t.arm a).overdrawCount = 0 ∧ (t.arm a).yieldMark = false) ∧
          (rate ≤ 110 * c.fullShare ∨ m.overdrawCount < 2 →
            (m.yieldMark = true → (c.yieldLock : Int) * 100 < left →
              (t.arm a).stage = .reduced ∧ (t.arm a).holdOff = some (s.now + 10000)) ∧
            (m.yieldMark = false ∨ left ≤ (c.yieldLock : Int) * 100 → (t.arm a).stage = .full ∧
              (t.arm a).overdrawCount = if 110 * c.fullShare < rate then m.overdrawCount + 1 else 0) ∧
            (t.arm a).yieldMark = false)) ∧
        ((c.slowVol : Int) * 100 < left → m.stage = .low ∨ m.stage = .reduced → (t.arm a).stage = m.stage ∧
          (t.arm a).overdrawTimer = (if 110 * c.lowShare < rate then some (m.overdrawTimer.getD (s.now + 5000))
            else none)) ∧
        ((c.slowVol : Int) * 100 < left → m.stage = .low →
          let h := c.header
          let x := s.stepUpClaim a s.headers[h].ownShare s.link.nextId
          (gross < c.startVol * 100 ∨ m.stepUp ≠ .none ∨ s.mayClaim = false → (t.arm a).stepUp = m.stepUp) ∧
          (c.startVol * 100 ≤ gross → m.stepUp = .none → s.mayClaim = true →
            (s.headers[h].slot ≠ none → (t.arm a).stepUp = .waiting ∧ t.headers[h].slot = s.headers[h].slot) ∧
            (s.headers[h].slot = none → s.link.queue.length < 8 → x.total ≤ (s.headerCfg h).capacity →
              (t.arm a).stepUp = .inClaim ∧ t.headers[h].slot = some x ∧
                t.link.queue = s.link.queue ++ [s.claimFrame x]) ∧
            (s.headers[h].slot = none → (s.headerCfg h).capacity < x.total → (t.arm a).stepUp = .retryWait ∧
              t.headers[h].retryTimer = some (s.now + 5000))))))

/-- The events that begin, change or declare on a close (R109, R131, R132, R134, R135): the no-flow timer closes NO_FLOW
under control; the step-down's end passes to SETTLE with its two timers; the close limit sets the leak marker, the
VALVE_LEAK cause and the line flag with the arm still CLOSING; an uncoupled arm fast-closes UNCOUPLED, and one in
STEP-DOWN is cut to SETTLE (R133). That the input changing under the RESTART line is followed and starts nothing is the
model's reading (log 35). -/
def Obligations.ArmCloses : Prop :=
  ∀ (s : State) (a : ArmId),
    (s.arms[a].noFlow ≠ none → s.restart = false → s.arms[a].stage.flowing = true →
      ∃ t, exec (.noFlowExpiry a) s = .next t ∧ s.SameLoad t ∧ (t.arm a).stage = .closing ∧ (t.arm a).noFlow = none ∧
        (t.arm a).close = some ⟨.stop, .noFlow, .controlled,
          if s.arms[a].stage = .full then .stepDown else .settle⟩ ∧
        t.mainSolenoid a = false ∧ (t.lowSolenoid a = decide (s.arms[a].stage = .full)) ∧
        ∀ k, k ≠ a → (t.arm k).stage = (s.arm k).stage) ∧
    (s.arms[a].stepDown ≠ none → exec (.stepDownExpiry a) s = .next { s with arms := s.arms.set a { s.arms[a] with
      close := s.arms[a].close.map fun c => { c with phase := .settle }
      stepDown := none
      settle := some (s.now + 2000)
      closeLimit := some (s.now + 30000) } }) ∧
    (s.arms[a].closeLimit ≠ none → ∃ t, exec (.closeLimitExpiry a) s = .next t ∧ (t.arm a).leak = true ∧
      (t.arm a).leakCause = true ∧ (t.arm a).closeLimit = none ∧ (t.arm a).stage = s.arms[a].stage ∧
      (t.arm a).close = s.arms[a].close ∧ (t.arm a).settle = s.arms[a].settle ∧
      (∀ k b, s.arms[a].owner = some k → s.batches[k] = some b →
        t.batches = s.batches.set k (some { b with flags := { b.flags with valveLeak := true } })) ∧
      (∀ k, (t.arm k).stage = (s.arm k).stage)) ∧
    (s.station ≠ .configFault → ∀ on : Bool,
      (s.arms[a].coupled = on → exec (.coupledInputChange a on) s = .next s) ∧
      (s.arms[a].coupled ≠ on → (s.restart = true ∨ (on = true ∧ s.startQueue = []) ∨
          (on = false ∧ s.arms[a].stage = .closed ∧ s.arms[a].reserved = none)) →
        exec (.coupledInputChange a on) s = .next { s with arms := s.arms.set a { s.arms[a] with coupled := on } }) ∧
      (s.arms[a].coupled = true → on = false → s.restart = false →
        ∃ t, exec (.coupledInputChange a on) s = .next t ∧ (t.arm a).coupled = false ∧ s.StepDownCut t a) ∧
      (s.arms[a].coupled = true → on = false → s.restart = false → s.arms[a].stage.flowing = true →
        ∃ t, exec (.coupledInputChange a on) s = .next t ∧ s.SameLoad t ∧ (t.arm a).stage = .closing ∧
          (t.arm a).coupled = false ∧ (t.arm a).close = some ⟨.stop, .uncoupled, .fast, .settle⟩ ∧
          (∀ i, (s.injectorCfg i).arm = a → (t.injector i).firing = false) ∧
          ∀ k, k ≠ a → (t.arm k).stage = (s.arm k).stage))

/-- SETTLE_TIMER_EXPIRY completes the close (R72, R123, R136, R137): the arm CLOSED with its channel off and its share
given back, the totalizer block of that moment in the write queue or held, the batch DONE or SUSPENDED with the close's
cause, the preset any pending one; a NORMAL close tested for SHORT, and one at close-ahead without a leak learned from.
The pulses since the last full slice are added as a partial slice that ends at its last A pulse (R102, R103), a conversion
is started (R107; R108, log 47), and the windows of the arm's injectors are closed and judged, a shot in flight cut (R145,
R147 to R149). All of this holds in an ENDING session too, of the batch while its record stands, a stopped batch being
ENDED where the completion follows (R73). The last close of an ENDING session completes it (R52, R136): with the owner
batch started a note with its head as R171 gives joins the store, its write behind the totalizer block, and a note of one
line carries the SHORT test in it; without room for it the session waits in ENDING; with another arm still open it stays
ENDING. -/
def Obligations.CloseCompletes : Prop :=
  (∀ (s : State) (a : ArmId) (cl : Close) (k : CompId) (b : Batch), s.arms[a].settle ≠ none →
    s.arms[a].close = some cl → s.arms[a].stage = .closing → s.arms[a].owner = some k → s.batches[k] = some b →
    s.restart = false →
    let completes := s.session.state = .ending ∧ ∀ j, j ≠ a → (s.arm j).stage = .closed
    let preset := b.pendPreset.getD b.preset
    ∃ t, exec (.settleTimerExpiry a) s = .next t ∧ (t.arm a).stage = .closed ∧
      (t.arm a).close = none ∧ (t.arm a).leak = false ∧ (t.arm a).counting = false ∧ (t.arm a).settle = none ∧
      (t.arm a).closeLimit = none ∧ (t.arm a).sliceTimer = none ∧ (t.arm a).flowCounter = none ∧
      (t.arm a).lastRate = s.arms[a].lastRate ∧ (t.arm a).sliceCounter = (s.armCfg a).slice ∧
      t.lowSolenoid a = false ∧ t.mainSolenoid a = false ∧
      (t.header (s.armCfg a).header).ownShare = (s.header (s.armCfg a).header).ownShare - s.arms[a].heldShare ∧
      (¬ completes ∨ s.notes.outbox ≠ [] ∨ 3 ≤ s.retention.queue.length →
        let block : Totals := ⟨vec4 fun i => (t.arm i).grossTotal, vec4 fun i => (t.arm i).stdTotal⟩
        (s.retention.queue.length < 4 → t.retention.queue = s.retention.queue ++ [.totals block]) ∧
          (4 ≤ s.retention.queue.length → t.retention.queue = s.retention.queue ∧ t.retention.held = some block)) ∧
      (¬ completes → (t.arm a).owner = some k ∧ ∃ b', t.batches[k] = some b') ∧
      (∀ b', t.batches[k] = some b' →
        b'.preset = preset ∧ b'.pendPreset = none ∧ b'.grade = b.grade ∧ b'.started = b.started ∧
        (cl.kind = .normal → b'.state = .done ∧ b'.suspCount = b.suspCount ∧
          ((t.arm a).live.gross + 50 < preset * 100 → b'.flags.short = true) ∧
          (preset * 100 ≤ (t.arm a).live.gross + 50 → b'.flags.short = b.flags.short)) ∧
        (cl.kind = .stop → (¬ completes → b'.state = .suspended) ∧ (completes → b'.state = .ended) ∧
          b'.suspReason = some cl.cause ∧ b'.suspCount = min 255 (b.suspCount + 1) ∧ b'.flags.short = b.flags.short)) ∧
      (cl.kind = .normal → cl.cause = .closeAhead → s.arms[a].leak = false → ((t.arm a).closeAhead : Int) =
        max 0 (min 2000 (s.arms[a].closeAhead + ((t.arm a).live.gross - (preset : Int) * 100).tdiv 2))) ∧
      (cl.kind = .stop ∨ cl.cause ≠ .closeAhead ∨ s.arms[a].leak = true →
        (t.arm a).closeAhead = s.arms[a].closeAhead) ∧
      (∀ j, j ≠ a → (t.arm j).stage = (s.arm j).stage ∧ (t.arm j).live = (s.arm j).live) ∧
      (∀ i, (s.injectorCfg i).arm = a → (t.injector i).firing = false ∧ (t.injector i).window = none) ∧
      (s.session.state = .admitted → s.session.idle = none → s.startQueue = [] → (∀ j, j ≠ a → (s.arm j).stage = .closed) →
        t.session.idle = some (s.now + s.cfg.idleLimit * 1000)) ∧
      s.SliceAdded t a ((s.armCfg a).slice - s.arms[a].sliceCounter) (max 1 (s.arms[a].lastA.getD 1)) ∧
      Converts s.now s.arms[a] (t.arm a) ∧
      (¬ completes ∨ t.session.state = .ending → ∀ i w, (s.injectorCfg i).arm = a → (s.injector i).window = some w →
        let run := badRunAfter (s.injectorCfg i) { w with cut := w.cut || (s.injector i).firing } (s.injector i).badRun
        (t.injector i).badRun = run ∧ t.session.latches[i] = (s.session.latches[i] || decide (run = 3)))) ∧
  ∀ (s : State) (a : ArmId) (cl : Close), s.arms[a].settle ≠ none → s.arms[a].close = some cl →
    s.arms[a].stage = .closing → s.session.state = .ending → s.restart = false →
    let block : State → Totals := fun t => ⟨vec4 fun i => (t.arm i).grossTotal, vec4 fun i => (t.arm i).stdTotal⟩
    ∃ t, exec (.settleTimerExpiry a) s = .next t ∧ (t.arm a).stage = .closed ∧
      t.session.endReason = s.session.endReason ∧ t.session.outcome = s.session.outcome ∧
      (t.header (s.armCfg a).header).ownShare = (s.header (s.armCfg a).header).ownShare - s.arms[a].heldShare ∧
      ((∃ j, j ≠ a ∧ (s.arm j).stage ≠ .closed) → t.session.state = .ending ∧
        t.session.permit = s.session.permit ∧ t.notes = s.notes) ∧
      ((∀ j, j ≠ a → (s.arm j).stage = .closed) → t.startQueue = [] ∧
        ∀ k b, s.arms[a].owner = some k → s.batches[k] = some b → b.state = .active → b.started = true →
          (s.notes.outbox = [] → s.retention.queue.length < 3 → t.session.state = .none ∧ t.session.permit = none ∧
            t.session.tag = none ∧ t.session.latches = Vector.replicate 4 false ∧
            t.batches = Vector.replicate 8 none ∧ (∀ j, (t.arm j).owner = none ∧ (t.arm j).meterCause = false) ∧
            ∃ x : StoredNote, t.notes.store.map (fun n => (n.number, n.record)) =
                s.notes.store.map (fun n => (n.number, n.record)) ++ [(x.number, x.record)] ∧
              x.number = s.notes.nextNumber ∧ s.NoteHead x.number s.session.endReason x.record ∧
              fieldAt x.record 25 1 = s.noteLines.length - 1 ∧
              (cl.kind = .normal → s.noteLines.length = 1 → (fieldAt x.record 49 1).testBit 2 =
                (b.flags.short || decide ((t.arm a).live.gross + 50 < b.pendPreset.getD b.preset * 100))) ∧
              t.retention.queue = s.retention.queue ++
                [.totals (block t), .note x.number x.record t.notes.nextNumber]) ∧
          (s.notes.outbox ≠ [] ∨ 3 ≤ s.retention.queue.length → t.session.state = .ending ∧
            t.session.permit = s.session.permit ∧ t.notes.issueWaiting = true ∧ t.notes.store = s.notes.store ∧
            ∃ b', t.batches[k] = some b' ∧ b'.state = (if cl.kind = .normal then .done else .ended)))

/-! ## Permissives, local stop and deadman (chapter 10) -/

/-- The local stop. LOCAL_STOP_ACTIVE with every permissive held: every open arm closes LOCAL_STOP, every step-down is cut
(R133), a STOP is in the queue, the own number is in the stop set; under the RESTART line it sets the latch and hands over
nothing; LOCAL_STOP_NORMAL changes the input alone (R26, R27, R159). The queue has room for the STOP, and no attempt is about
to begin in its last place: a withdrawn claim's STATE may take that, and by its number (`Link.Numbered`, kept by every step)
it is then the newest frame, the one the STOP displaces (R10). With no arm flowing and no claim held, the STOP enters at its
place and the STATE with the flag set after it (R8, R9, R26). CLEAR-STOP: refused STOPPED while the input is ACTIVE and
WRONG_STATE with the latch clear; otherwise the latch is cleared and the own number leaves the stop set (R160), and the STATE that says so enters at the
head behind every STOP there, an older waiting STATE being gone (R8, R9, R26). The model's readings of R9: a new STATE
replaces the one behind a front STATE (log 11), and a STOP drops a front STATE that it would make a second to wait (log
64). -/
def Obligations.LocalStop : Prop :=
  (∀ s : State, s.station ≠ .configFault →
     (s.monitor.stopInput = true → exec .localStopActive s = .next s) ∧
     (s.monitor.stopInput = false → s.stage5Waits = false → s.restart = false → s.monitor.withdrawn = false →
       s.ownStop = false → s.link.Numbered →
       s.link.queue.length < 7 ∨ s.link.queue.length < 8 ∧ (s.link.lineIdle = false ∨ s.link.inProgress = true) →
       ∃ t, exec .localStopActive s = .next t ∧ s.SameLoad t ∧ s.FastStopped t .localStop ∧ (∀ a, s.StepDownCut t a) ∧
         t.monitor = { s.monitor with
           stopInput := true
           stopLatch := true
           terminal := true } ∧
         t.ownStop = true ∧ ∃ f ∈ t.link.queue, f.tag = .stop) ∧
     (s.monitor.stopInput = false → s.stage5Waits = false → s.restart = false → s.monitor.withdrawn = false →
       s.ownStop = false → s.noFlow → s.slotsFree → s.station ≠ .clash → s.link.Sound → s.link.lineIdle = false →
       s.link.queue.length < 8 → (∀ g ∈ s.link.waiting, g.tag ≠ .stop) →
       ∃ t q, exec .localStopActive s = .next t ∧
         StopEntered s.link.tx ⟨s.link.nextId, .stop, lineImage s.cfg.station 7 []⟩ s.link.queue q ∧
         StateEntered (if s.link.queue = [] then .ready else s.link.tx) false
           ⟨s.link.nextId + 1, .state, lineImage s.cfg.station 1 t.statePayload⟩ q t.link.queue) ∧
     (s.monitor.stopInput = false → s.stage5Waits = false → s.restart = true → ∃ t, exec .localStopActive s = .next t ∧
       t.monitor = { s.monitor with
         stopInput := true
         stopLatch := true } ∧ t.link = s.link ∧ t.ownStop = s.ownStop ∧ s.SameLoad t) ∧
     exec .localStopNormal s = .next { s with monitor := { s.monitor with stopInput := false } }) ∧
  (∀ s : State, s.Asks →
     (s.monitor.stopInput = true → exec .clearStop s = .next (s.asked.answered (.refused .stopped))) ∧
     (s.monitor.stopInput = false → s.monitor.stopLatch = false →
       exec .clearStop s = .next (s.asked.answered (.refused .wrongState))) ∧
     (s.monitor.stopInput = false → s.monitor.stopLatch = true → ∃ t, exec .clearStop s = .next t ∧
       t.panel = ⟨.answering, some (.accepted []), false⟩ ∧ t.ownStop = false ∧ t.monitor.stopLatch = false ∧
       t.session = s.asked.session ∧ t.batches = s.batches ∧ t.peers = s.peers ∧ t.startQueue = s.startQueue ∧
       (s.ownStop = true → t.monitor.terminal = t.stopSetNonempty) ∧
       (s.ownStop = true → s.monitor.terminal = true → s.startQueue = [] → s.station ≠ .clash →
         StateEntered s.link.tx s.link.lastStateStop
           ⟨s.link.nextId, .state, lineImage s.cfg.station 1 t.statePayload⟩ s.link.queue t.link.queue)))

/-- The deadman's contacts and timers (R162 to R165, R167). Of a contact that closes in RUNNING or WARNING: with the other
closed it only starts the jam timer, with the other open it is counted, and the one that completes the pair restarts the
full interval with the horn off; in EXPIRED or JAMMED it counts only with every arm CLOSED and the queue not empty. An
opening stops the jam timer and, in JAMMED at rest, stops the deadman. The warning sounds the horn; expiry and jam clear the
flags, sound the horn and stop every flowing arm DEADMAN, a closing arm keeping its close (R133). The model's readings: the
warning sets 15 s (log 25); contacts that change under the RESTART line are followed and start nothing (log 35); a running
jam timer stops with expiry and with the deadman (log 52), and the counted-closure flags are cleared as JAMMED stops
(log 55). -/
def Obligations.Deadman : Prop :=
  ∀ s : State, s.station ≠ .configFault →
    let m := s.monitor
    let full := some (s.now + s.cfg.deadman * 1000)
    (∀ c : ContactId, m.contacts[c] = false →
      let m' := { m with contacts := m.contacts.set c true }
      (s.restart = true ∨ m.deadman = .stopped ∨
          (m.deadman = .expired ∨ m.deadman = .jammed) ∧ (s.allClosed = false ∨ s.startQueue = []) →
        exec (.contactClosure c) s = .next { s with monitor := m' }) ∧
      (s.restart = false → m.deadman = .running ∨ m.deadman = .warning → m.contacts[c + 1] = true →
        exec (.contactClosure c) s = .next { s with monitor := { m' with jam := some (s.now + 1000) } }) ∧
      (s.restart = false → m.deadman = .running ∨ m.deadman = .warning → m.contacts[c + 1] = false →
        (m.counted[c + 1] = false →
          exec (.contactClosure c) s = .next { s with monitor := { m' with counted := m.counted.set c true } }) ∧
        (m.counted[c + 1] = true → exec (.contactClosure c) s = .next { s with monitor := { m' with
          deadman := .running
          deadmanTimer := full
          counted := Vector.replicate 2 false
          horn := false } })) ∧
      (s.restart = false → m.deadman = .expired ∨ m.deadman = .jammed → m.contacts[c + 1] = false →
        m.counted[c + 1] = true → s.allClosed = true → s.startQueue ≠ [] → ∃ t, exec (.contactClosure c) s = .next t ∧
          s.SameLoad t ∧ t.monitor = { m' with
            deadman := .running
            deadmanTimer := full
            counted := Vector.replicate 2 false
            horn := false })) ∧
    (∀ c : ContactId, m.contacts[c] = true →
      let m' := { m with
        contacts := m.contacts.set c false
        jam := none }
      (m.deadman ≠ .jammed ∨ s.restart = true ∨ s.allClosed = false ∨ s.startQueue ≠ [] →
        exec (.contactOpening c) s = .next { s with monitor := m' }) ∧
      (m.deadman = .jammed → s.restart = false → s.allClosed = true → s.startQueue = [] →
        exec (.contactOpening c) s = .next { s with monitor := { m' with
          deadman := .stopped
          deadmanTimer := none
          counted := Vector.replicate 2 false
          horn := false } })) ∧
    (m.deadman = .running → m.deadmanTimer ≠ none → exec .deadmanWarning s = .next { s with monitor := { m with
      deadman := .warning
      deadmanTimer := some (s.now + 15000)
      horn := true } }) ∧
    (∀ c trip, (c = Instr.deadmanExpiry ∧ trip = Machine.Deadman.expired ∧ m.deadman = .warning ∧ m.deadmanTimer ≠ none) ∨
        (c = .jamTimerExpiry ∧ trip = .jammed ∧ m.jam ≠ none) →
      ∃ t, exec c s = .next t ∧ s.SameLoad t ∧ t.monitor = { m with
          deadman := trip
          deadmanTimer := none
          counted := Vector.replicate 2 false
          jam := none
          horn := true } ∧
        (∀ a, (s.arm a).stage = .closing → (t.arm a).stage = .closing ∧ (t.arm a).close = (s.arm a).close) ∧
        (s.restart = false → m.withdrawn = false → s.FastStopped t .deadman))

/-- BYPASS_KEY_CHANGE (R151, R166): turned on, no arm changes stage; turned off, every flowing arm whose owner's injector
is latched FAULT begins a controlled close ADDITIVE, and no other arm changes stage. That the key changing under the RESTART
line is followed and starts nothing is the model's reading (log 35). -/
def Obligations.BypassKey : Prop :=
  ∀ s : State, s.station ≠ .configFault → ∀ on : Bool,
    (s.monitor.bypass = on → exec (.bypassKeyChange on) s = .next s) ∧
    (s.monitor.bypass ≠ on → s.restart = true ∨ (on = true ∧ s.startQueue = []) →
      exec (.bypassKeyChange on) s = .next { s with monitor := { s.monitor with bypass := on } }) ∧
    (s.monitor.bypass ≠ on → s.restart = false → ∃ t, exec (.bypassKeyChange on) s = .next t ∧ s.SameLoad t ∧
      t.monitor = { s.monitor with bypass := on } ∧
      ∀ a, let faulted := ∃ k b i, s.arms[a].owner = some k ∧ s.batches[k] = some b ∧
          s.gradeInjector a b.grade = some i ∧ s.session.latches[i] = true
        (on = false → faulted → s.arms[a].stage.flowing = true → (t.arm a).stage = .closing ∧
          (t.arm a).close = some ⟨.stop, .additive, .controlled,
            if s.arms[a].stage = .full then .stepDown else .settle⟩) ∧
        (on = true ∨ ¬ faulted ∨ s.arms[a].stage.flowing = false → (t.arm a).stage = s.arms[a].stage))

/-! ## Notes and retention memory (chapters 11 and 12) -/

/-- Note numbers and note lines (R121, R152, R170, R171, R190). The number after an issue is the first, from the one that
follows the number taken and from 999,999 to 1, that no stored note holds. A line carries its figures at their places, the
average temperature and the additive block where it has them, and reads back as a line in range. -/
def Obligations.NoteNumbersAndLines : Prop :=
  (∀ (store : List StoredNote) (n : Nat), store.length ≤ 16 → n ≤ 999999 →
    let next := advanceNumber store n
    let follows := if n = 999999 then 1 else n + 1
    1 ≤ next ∧ next ≤ 999999 ∧ FirstFree store follows next ∧
      ((∀ x ∈ store, x.number ≠ follows) → next = follows)) ∧
  (∀ (s : State) (k : CompId) (b : Batch) (a : ArmId) (rest : List Byte), 1 ≤ b.preset → b.preset ≤ 99999 →
    b.lastArm = some a → (∀ t, averageTemp (s.figures k b) = some t → -5000 ≤ t ∧ t ≤ 8000) →
    let line := s.noteLine k b
    scanNoteLines 1 (line ++ rest) = some (true, rest) ∧ fieldAt line 0 1 = k.val + 1 ∧ fieldAt line 1 1 = b.grade.val ∧
      fieldAt line 2 1 = a.val ∧ fieldAt line 3 3 = b.preset ∧
      fieldAt line 6 6 = min (s.figures k b).gross (2 ^ 48 - 1) ∧
      fieldAt line 12 6 = min (s.figures k b).std (2 ^ 48 - 1) ∧ fieldAt line 22 1 = min b.suspCount 255 ∧
      s.NoteLineParts b (s.figures k b) line)

/-- The ends of retention writes and the places they free (R172, R177, R183, R184): a write performed leaves the queue and
the next starts its 100 ms; one that fails sets RETENTION_FAULT; the place goes to the held totalizer block, then to the
outbox; a waiting issue that finds room is taken, the note as R171 gives it, and the session closes. The model's readings: a
failed write leaves the memory as it was (log 19), the issue count advances at a failed note write that had its slot
(log 20), and a removal with no ISSUED slot completes as it comes to the front, without fault (R182; log 53). -/
def Obligations.RetentionWrites : Prop :=
  (∀ mem w, Write.needless mem w = true ↔ ∃ n, w = .removal n ∧ issuedSlot mem n = none) ∧
  ∀ s : State,
    (∀ w waiting, s.retention.queue = w :: waiting →
      let count := match w with
        | .note _ _ _ => (s.retention.issueCount + 1) % 2 ^ 32
        | _ => s.retention.issueCount
      let ended := fun (mem : List Host.Cell) (count : Nat) (failed : Bool) =>
        let rest := waiting.dropWhile (Write.needless mem)
        { s with retention := { s.retention with
          mem := mem
          queue := rest
          writeTimer := if rest = [] then none else some (s.now + 100)
          issueCount := count
          fault := s.retention.fault || failed } }
      (s.retention.held = none → s.notes.outbox = [] → s.notes.issueWaiting = false →
        (∀ mem, performWrite s.retention.mem s.retention.issueCount w = some mem →
          exec (.retentionWriteEnd true) s = .next (ended mem count false) ∧
          ∀ c ∈ [Instr.retentionWriteEnd false, .retentionWriteTimeout],
            (w.needless s.retention.mem = false → exec c s = .next (ended s.retention.mem count true)) ∧
            (w.needless s.retention.mem = true → exec c s = .next (ended s.retention.mem count false))) ∧
        (performWrite s.retention.mem s.retention.issueCount w = none →
          ∀ c ∈ [Instr.retentionWriteEnd true, .retentionWriteEnd false, .retentionWriteTimeout],
            exec c s = .next (ended s.retention.mem s.retention.issueCount true))) ∧
      (s.retention.queue.length = 4 → (∀ n more, waiting ≠ .removal n :: more) →
        ∀ c ∈ [Instr.retentionWriteEnd true, .retentionWriteEnd false, .retentionWriteTimeout],
        ∃ t, exec c s = .next t ∧
        (∀ block, s.retention.held = some block → t.retention.queue = waiting ++ [.totals block] ∧
          t.retention.held = none ∧ t.notes = s.notes ∧ t.session = s.session) ∧
        (∀ n more, s.retention.held = none → s.notes.outbox = n :: more →
          t.retention.queue = waiting ++ [.removal n] ∧ t.notes = { s.notes with outbox := more } ∧
          t.session = s.session))) ∧
    (s.notes.issueWaiting = true → s.restart = false → s.notes.outbox = [] → s.retention.queue.length < 4 →
      ∃ t x, exec .noteIssue s = .next t ∧ t.session.state = .none ∧ t.session.permit = none ∧
        t.session.endReason = s.session.endReason ∧ t.batches = Vector.replicate 8 none ∧ t.notes.issueWaiting = false ∧
        t.notes.store.map (fun n => (n.number, n.record)) =
          s.notes.store.map (fun n => (n.number, n.record)) ++ [(s.notes.nextNumber, x)] ∧
        ((∀ (k : CompId) b, s.batches[k] = some b → b.state ≠ .planned ∧ b.state ≠ .waiting) →
          s.NoteOf s.notes.nextNumber s.session.endReason x) ∧
        t.notes.nextNumber = advanceNumber s.notes.store s.notes.nextNumber ∧
        t.retention.queue = s.retention.queue ++ [.note s.notes.nextNumber x t.notes.nextNumber] ∧
        t.retention.mem = s.retention.mem) ∧
    (s.notes.issueWaiting = false ∨ s.notes.outbox ≠ [] ∨ 4 ≤ s.retention.queue.length →
      exec .noteIssue s = .next s)

/-- What a write leaves in retention memory (R182, R195): a totalizer block is read back as the newer valid copy with a
count one above; a note write gives its slot the note, ISSUED, and no other slot changes; a removal makes the slot
TAKEN and keeps its other fields; a note write without a slot fails. The model's readings: which slot and which copy qualify
first (log 21), that a write without a slot fails at its end and its count stands (logs 19, 20), the form of the memory
(log 5). -/
def Obligations.RetentionMemory : Prop :=
  ∀ (s : State) (w : Write) (rest : List Write), s.retention.queue = w :: rest → MemoryLaw s →
    ∃ t, exec (.retentionWriteEnd true) s = .next t ∧
      (∀ block, w = .totals block → (∃ isB, newerTotals t.retention.mem = some (isB,
          (match newerTotals s.retention.mem with
            | some (_, n, _) => (n + 1) % 2 ^ 32
            | none => 1), block)) ∧
        ∀ j < 16, readSlot t.retention.mem j = readSlot s.retention.mem j) ∧
      (∀ number record next, w = .note number record next → number < 2 ^ 24 → next < 2 ^ 24 → record.length ≤ 370 →
        s.retention.issueCount < 2 ^ 32 →
        (∀ n, noteSlot s.retention.mem = some n → (∃ x, readSlot t.retention.mem n = some x ∧ x.state = 1 ∧
            x.count = s.retention.issueCount ∧ x.number = number ∧ x.next = next ∧ x.record.take record.length = record) ∧
          (∀ j < 16, j ≠ n → readSlot t.retention.mem j = readSlot s.retention.mem j) ∧
          newerTotals t.retention.mem = newerTotals s.retention.mem) ∧
        (noteSlot s.retention.mem = none → t.retention.mem = s.retention.mem ∧ t.retention.fault = true)) ∧
      (∀ number, w = .removal number →
        (∀ n x, issuedSlot s.retention.mem number = some (n, x) →
          readSlot t.retention.mem n = some { x with state := 2 } ∧
            ∀ j < 16, j ≠ n → readSlot t.retention.mem j = readSlot s.retention.mem j) ∧
        (issuedSlot s.retention.mem number = none → t.retention.mem = s.retention.mem))

/-! ## Starts (chapter 12) -/

/-- COLD_START (R178 to R180): every field of the image kept where it lies in its range and replaced by the nearer end where it
does not, with a flag for any replacement (R1, R179, R191); the structural faults in their order; a refused image leaves
CONFIG FAULT with its kind and every output off, the flag kept; an accepted one leaves STARTING with the listen period and
its STATE begun, or, under the RESTART line, waiting for its release. Of the note region the ISSUED
slots give the store in the order of their issue counts, compared modulo 2^32 (R195), and the valid slot of the highest
count gives the next number and count, whatever its state. The model's readings: the coupled inputs are sampled at the cold
start (log 34), a write owed by stage 2 is held while stage 5 waits and STARTING stands (logs 37, 45), a failed read of the
totalizer region owes no block (log 56), a stored deadman interval of 0 sets no flag (log 18), the recorded next number is
advanced past stored numbers and every valid slot counts, a BLANK one too (log 21), the unused bits of an entry's first byte
are ignored (log 43), a note is known by its slot's number, and two slots of one number give two notes (log
66), and the store is empty in CONFIG FAULT (log 49). -/
def Obligations.ColdStart : Prop :=
  (∀ bs : List Byte, ClampedImage bs (parseImage bs).1 ∧ ((parseImage bs).2 = true ↔ ImageOutside bs)) ∧
  (∀ lo hi n : Nat, lo ≤ hi → (lo ≤ n → n ≤ hi → clampTo lo hi n = n) ∧ (n < lo → clampTo lo hi n = lo) ∧
    (hi < n → clampTo lo hi n = hi)) ∧
  (∀ x y : Nat, x < 2 ^ 32 → y < 2 ^ 32 → (higherCount x y = true ↔
    ∃ d, 1 ≤ d ∧ d ≤ 2147483647 ∧ (y + d) % 2 ^ 32 = x)) ∧
  (∀ (s : State) (preload : List Byte) (reads : ColdReads) (inputs : FieldInputs),
    let mem := writeBytes s.retention.mem 0 preload
    let image := readBytes mem 0 274
    let c := (parseImage image).1
    let faults : List (Bool × FaultKind) :=
      [(decide (reads.config = false ∨ checkAgrees image = false), .badCheck),
        (decide (∃ a : ArmId, c.arms[a].enabled = true ∧ c.headers[c.arms[a].header].enabled = false), .armHeader),
        (decide (∃ a : ArmId, c.arms[a].enabled = true ∧ c.arms[a].fullShare ≤ c.arms[a].lowShare), .armShares),
        (decide (∃ a : ArmId, c.arms[a].enabled = true ∧ c.arms[a].slice = 0), .armSlice),
        (decide (∃ g : GradeId, c.grades[g].enabled = true ∧ c.headers[c.grades[g].header].enabled = false),
          .gradeHeader),
        (decide (∃ i : InjectorId, c.injectors[i].enabled = true ∧ c.arms[c.injectors[i].arm].enabled = false),
          .injectorArm)]
    ∃ t, exec (.coldStart preload reads inputs) s = .next t ∧ t.retention.mem = mem ∧ t.now = s.now ∧
      t.pending = s.pending ∧ t.session.state = .none ∧ t.session.permit = none ∧ t.revoked = [] ∧
      t.clock.dateKnown = false ∧ t.clock.day = 0 ∧ t.clock.second = 0 ∧ t.peers = Vector.replicate 32 Peer.cold ∧
      t.batches = Vector.replicate 8 none ∧ t.startQueue = [] ∧ t.link.lineIdle = false ∧ t.link.rx = .skip ∧
      (∀ h, (t.header h).ownShare = 0 ∧ (t.header h).slot = none) ∧
      (∀ a, (t.arm a).stage = .closed ∧ (t.arm a).counting = false ∧ t.lowSolenoid a = false ∧
        t.mainSolenoid a = false ∧ (t.arm a).inService = true) ∧
      (∀ i, (t.injector i).firing = false ∧ (t.injector i).window = none) ∧ t.monitor.horn = false ∧
      t.monitor.ground = false ∧ t.monitor.deadman = .stopped ∧ t.panel = ⟨.idle, none, false⟩ ∧
      (∀ kind, (faults.find? (·.1)).map (·.2) = some kind → t.station = .configFault ∧ t.faultKind = some kind ∧
        t.link.queue = [] ∧ t.retention.queue = [] ∧ t.listenTimer = none ∧ t.notes.store = [] ∧
        t.cfgClamped = (reads.config && (parseImage image).2)) ∧
      ((faults.find? (·.1)).map (·.2) = none → t.station = .starting ∧ t.cfg = c ∧
        t.cfgClamped = (parseImage image).2 ∧ t.restart = inputs.restart ∧
        (∀ a : ArmId, (t.arm a).closeAhead = c.arms[a].closeAhead ∧ (t.arm a).sliceCounter = c.arms[a].slice ∧
          (t.arm a).coupled = inputs.coupled[a]) ∧
        (∀ b n block, reads.totals = true → newerTotals mem = some (b, n, block) →
          ∀ a : ArmId, (t.arm a).grossTotal = block.gross[a] ∧ (t.arm a).stdTotal = block.std[a]) ∧
        (reads.totals = false ∨ newerTotals mem = none →
          ∀ a : ArmId, (t.arm a).grossTotal = 0 ∧ (t.arm a).stdTotal = 0) ∧
        t.retention.fault = decide (reads.totals = false ∨ reads.notes = false ∨ newerTotals mem = none) ∧
        (reads.notes = false ∨ (∀ j < 16, readSlot mem j = none) → t.notes.store = [] ∧ t.notes.nextNumber = 1 ∧
          t.retention.issueCount = 1) ∧
        (∀ order : List Nat, reads.notes = true → order.Nodup →
          (∀ n, n ∈ order ↔ n < 16 ∧ (readSlot mem n).isSome = true) →
          order.Pairwise (fun m n => ∀ x y, readSlot mem m = some x → readSlot mem n = some y →
            higherCount y.count x.count = true) →
          t.notes.store.map (fun n => (n.number, n.marker)) = order.filterMap (fun n => (readSlot mem n).bind fun x =>
            if x.state = 1 then some (x.number, none) else none) ∧
          (∀ y ∈ t.notes.store, ∃ n ∈ order, ∃ x, readSlot mem n = some x ∧ x.state = 1 ∧ y.number = x.number ∧
            y.record <+: x.record) ∧
          ∀ n x, order.getLast? = some n → readSlot mem n = some x →
            t.retention.issueCount = (x.count + 1) % 2 ^ 32 ∧
            ((∀ y ∈ t.notes.store, y.number ≠ x.next) → t.notes.nextNumber = x.next) ∧
            (1 ≤ x.next → x.next ≤ 999999 → FirstFree t.notes.store x.next t.notes.nextNumber)) ∧
        (inputs.restart = false → t.listenTimer = some (s.now + 3000) ∧ t.periodTimer = some (s.now + 1000) ∧
          t.monitor.stopLatch = inputs.stop ∧ t.monitor.terminal = inputs.stop ∧ t.ownStop = inputs.stop ∧
          (∃ id, t.link.queue = [⟨id, .state, lineImage c.station 1 t.statePayload⟩]) ∧
          t.retention.queue = (if reads.totals = true ∧ newerTotals mem = none then [.totals Totals.zero] else [])) ∧
        (inputs.restart = true → t.stage5Waits = true ∧ t.listenTimer = none ∧ t.link.queue = [] ∧
          t.retention.queue = [])))

/-- RESTART_ASSERTED (R19, R29, R40, R54, R87, R98, R112, R139, R153, R167, R181): nothing is driven, every output is off, a
flowing arm is CLOSING with cause RESTART and its share held, claims are gone, timers stand still and counts are kept. -/
def Obligations.RestartAsserted : Prop :=
  ∀ s : State, s.restart = false → s.station ≠ .configFault → ∃ t, exec .restartAsserted s = .next t ∧
    t.restart = true ∧ t.station = (if s.station = .running then .starting else s.station) ∧ t.listenTimer = none ∧
    t.periodTimer = none ∧ t.link = { s.link with
      queue := []
      tx := .empty
      attempts := 0
      wait := 0 } ∧
    (∀ h, t.header h = { s.header h with
      slot := none
      retryTimer := none
      yieldTimer := none }) ∧
    (∀ a, t.lowSolenoid a = false ∧ t.mainSolenoid a = false ∧ (t.arm a).counting = false ∧ (t.arm a).sliceTimer = none ∧
      (t.arm a).noFlow = none ∧ (t.arm a).flowCounter = none ∧ (t.arm a).converter = none ∧ (t.arm a).stepDown = none ∧
      (t.arm a).settle = none ∧ (t.arm a).closeLimit = none ∧ (t.arm a).holdOff = none ∧ (t.arm a).overdrawTimer = none ∧
      (t.arm a).yieldMark = false ∧ (t.arm a).stepUp = .none ∧ (t.arm a).sliceCounter = (s.arm a).sliceCounter ∧
      (t.arm a).bCount = (s.arm a).bCount ∧ (t.arm a).lastA = (s.arm a).lastA ∧ (t.arm a).live = (s.arm a).live ∧
      (t.arm a).owner = (s.arm a).owner ∧
      ((s.arm a).stage.flowing = true → (t.arm a).stage = .closing ∧
        (t.arm a).close = some ⟨.stop, .restart, .fast, .settle⟩ ∧
        (t.arm a).heldShare = stageShare (s.armCfg a) (s.arm a)) ∧
      ((s.arm a).stage.flowing = false → (t.arm a).stage = (s.arm a).stage ∧ (t.arm a).close = (s.arm a).close)) ∧
    (∀ i, (t.injector i).firing = false ∧ ((s.injector i).firing = true → ∀ w, (s.injector i).window = some w →
      (t.injector i).window = some { w with cut := true })) ∧
    t.monitor = { s.monitor with
      deadmanTimer := none
      jam := none
      horn := false } ∧
    t.session.idle = none ∧ t.session.socketTimer = none ∧
    (s.session.state = .checking → t.session.state = .none ∧ t.session.outcome = some .restart) ∧
    (s.session.state ≠ .checking → t.session.state = s.session.state ∧ t.session.permit = s.session.permit ∧
      t.session.outcome = s.session.outcome) ∧
    t.cfg = s.cfg ∧ t.batches = s.batches ∧ t.startQueue = s.startQueue ∧ t.notes = s.notes ∧
    t.retention = s.retention ∧ t.clock = s.clock ∧ t.peers = s.peers ∧ t.revoked = s.revoked

/-- RESTART_RELEASED (R19, R27, R33, R54, R75, R98, R139, R167, R181): STARTING with a listen period, every arm CLOSED, shares
0, the peer view empty, batches suspended RESTART or PLANNED again with their figures saved, and the STATE at the front
of the queue; what a warm restart keeps is kept. An open arm's pulses are added as a partial slice (R102, R112). Of an ENDING
session the front STATE carries its permit and starting flag, and the STATE of the completion waits behind it: the place is
the model's choice between R33, R54 and R9 (log 44). A release that a cold start's stage 5 has waited for leaves the line
BUSY (R2) and hands over its totalizer block (R123) before stage 5 (log 37); that it sends one socket request, not one for
the release and one for stage 5, is the model's choice (log 60). In CONFIG FAULT the line alone is followed and the socket
request is sent (R180, R194). -/
def Obligations.RestartReleased : Prop :=
  (∀ s : State, s.restart = false → exec .restartReleased s = .next s) ∧
  (∀ s : State, s.restart = true → s.station = .configFault → exec .restartReleased s = .next { s with
    restart := false
    socketRequests := s.socketRequests + 1 }) ∧
  (∀ s : State, s.restart = true → s.station ≠ .configFault → s.stage5Waits = true →
    let block : Totals := ⟨vec4 fun i => (s.arm i).grossTotal, vec4 fun i => (s.arm i).stdTotal⟩
    ∃ t, exec .restartReleased s = .next t ∧ t.restart = false ∧ t.stage5Waits = false ∧ t.station = .starting ∧
      t.listenTimer = some (s.now + 3000) ∧ t.periodTimer = some (s.now + 1000) ∧ t.link.lineIdle = false ∧
      t.link.rx = .skip ∧ (∃ id, t.link.queue = [⟨id, .state, lineImage s.cfg.station 1 t.statePayload⟩]) ∧
      t.socketRequests = s.socketRequests + 1 ∧ t.monitor = { s.monitor with
        stopLatch := s.monitor.stopInput
        terminal := s.monitor.stopInput } ∧ t.ownStop = s.monitor.stopInput ∧
      t.clock = { s.clock with origin := s.now } ∧ t.cfg = s.cfg ∧ t.arms = s.arms ∧ t.notes = s.notes ∧
      (s.retention.queue.length < 4 → s.retention.held = none →
        t.retention.queue = s.retention.queue ++ [.totals block]) ∧
      (∀ zeros, s.retention.queue.length < 3 → s.retention.held = some zeros →
        t.retention.queue = s.retention.queue ++ [.totals block, .totals zeros] ∧ t.retention.held = none)) ∧
  ∀ s : State, s.restart = true → s.station ≠ .configFault → s.stage5Waits = false →
    ∃ t, exec .restartReleased s = .next t ∧ t.restart = false ∧ t.station = .starting ∧
      t.listenTimer = some (s.now + 3000) ∧ t.periodTimer = some (s.now + 1000) ∧
      (∀ a, (t.arm a).stage = .closed ∧ (t.arm a).owner = none ∧ (t.arm a).reserved = none ∧
        (t.arm a).leakCause = false ∧ (t.arm a).closeAhead = (s.arm a).closeAhead ∧
        (t.arm a).lastGood = (s.arm a).lastGood ∧ (t.arm a).lastRate = (s.arm a).lastRate) ∧
      (∀ h, (t.header h).ownShare = 0 ∧ (t.header h).slot = none ∧ (t.header h).retryWait = false) ∧
      t.peers = Vector.replicate 32 Peer.cold ∧ t.startQueue = [] ∧ t.ownStop = s.monitor.stopInForce ∧
      t.monitor.terminal = s.monitor.stopInForce ∧ t.monitor.deadman = .stopped ∧ t.monitor.deadmanTimer = none ∧
      t.monitor.horn = false ∧ t.monitor.ground = s.monitor.ground ∧ t.monitor.sensors = s.monitor.sensors ∧
      t.link.lineIdle = false ∧ t.link.rx = .skip ∧ t.cfg = s.cfg ∧ t.clock = s.clock ∧ t.revoked = s.revoked ∧
      t.socketView = s.socketView ∧ t.retention.mem = s.retention.mem ∧ t.socketRequests = s.socketRequests + 1 ∧
      (∃ f more, t.link.queue = f :: more ∧ f.tag = .state ∧
        (s.session.state = .ending → ∀ p, s.session.permit = some p → 1 ≤ p.id → p.id < 2 ^ 32 →
          parseFrame f.image.tail = some (s.cfg.station, .state p.cls s.monitor.stopInForce true true
            (Vector.replicate 8 0) (some p.id)) ∧
          (t.session.state = .none → ∃ g ∈ more, g.tag = .state ∧
            g.image = lineImage s.cfg.station 1 t.statePayload))) ∧
      (∀ a, ((s.arm a).stage ≠ .closed →
          s.SliceAdded t a ((s.armCfg a).slice - (s.arm a).sliceCounter) (max 1 ((s.arm a).lastA.getD 1))) ∧
        ((s.arm a).stage = .closed → (t.arm a).live = (s.arm a).live ∧ (t.arm a).grossTotal = (s.arm a).grossTotal ∧
          (t.arm a).stdTotal = (s.arm a).stdTotal)) ∧
      (s.session.state ≠ .ending →
        (∃ id, t.link.queue = [⟨id, .state, lineImage s.cfg.station 1 t.statePayload⟩]) ∧
        t.session.state = s.session.state ∧ t.session.permit = s.session.permit ∧
        (s.session.state = .admitted → t.session.idle = some (s.now + s.cfg.idleLimit * 1000) ∧
          t.session.socketTimer = (if s.socketView = none then some (s.now + 30000) else none)) ∧
        (s.retention.queue.length < 4 → t.retention.queue = s.retention.queue ++
          [.totals ⟨vec4 fun i => (t.arm i).grossTotal, vec4 fun i => (t.arm i).stdTotal⟩]) ∧
        (∀ k : CompId, s.batches[k] = none → t.batches[k] = none) ∧
        ∀ (k : CompId) (b : Batch), s.batches[k] = some b → ∃ b', t.batches[k] = some b' ∧
          let stops := b.state = .active ∨ (b.state = .waiting ∧ b.started = true)
          (stops → b'.state = .suspended ∧ b'.suspReason = some .restart ∧
            b'.suspCount = min 255 (b.suspCount + 1)) ∧
          (b.state = .waiting → b.started = false → b'.state = .planned) ∧
          (b.state ∉ [BatchState.active, .waiting] → b'.state = b.state ∧ b'.suspReason = b.suspReason ∧
            b'.suspCount = b.suspCount) ∧
          b'.started = b.started ∧ b'.grade = b.grade ∧ ((∃ a, (s.arm a).owner = some k) → b'.saved = true)) ∧
      (s.session.state = .ending → t.session.state = .none ∨ (t.session.state = .ending ∧ t.notes.issueWaiting = true))

/-! ## Frames (chapter 13) -/

/-- Every frame this part builds is a good frame to a receiver, in the short header form to 15 payload bytes and in the long
form to 511: its line image past the start byte parses to the source station and the content its payload has. A frame of
the panel line with a request's kind, its body and their check value is that request; one whose length or check value does
not agree, whose kind is no request's, or a STATUS of an unknown kind or with a second byte not 0 in the session kind, is a
format error (R185, R192). A frame of the socket line is the report of its kind byte, with the body and check value that
follow (R194); one of an unknown kind is ignored, and so is one of the part's own kind 4 or one not as long as its kind's
(log 67, the model's reading). The request the part sends is kind 4 with its check value. -/
def Obligations.FramesRoundTrip : Prop :=
  (∀ (station : StationId) (kind : Nat) (payload : List Byte), kind < 16 → payload.length ≤ 511 →
    (lineImage station kind payload).head? = some 0xC5 ∧
    (lineImage station kind payload).length = (if payload.length ≤ 15 then 5 else 6) + payload.length ∧
    parseFrame (lineImage station kind payload).tail = (parsePayload kind payload).map fun f => (station, f)) ∧
  (∀ (card : List Byte) (c g a : Byte) (n : BitVec 24), card.length = 12 →
    let number := beBytes 3 n.toNat
    let is := fun (content : List Byte) (i : Instr) => requestOf (panelFrame content) = i
    is (1 :: card) (.present card) ∧ is ([2, c, g] ++ number ++ [a]) (.plan c g n a) ∧
      is ([3, c] ++ number) (.amend c n) ∧ is [4, c] (.cancel c) ∧ is [5, c] (.start c) ∧ is [6, c] (.resume c) ∧
      is [7, c] (.hold c) ∧ is [8] .finish ∧ is [9, 0, 0] .statusSession ∧ is [9, 1, c] (.statusCompartment c) ∧
      is [9, 2, a] (.statusArm a) ∧ is (10 :: number) (.noteCopy n) ∧ is [11] .clearStop ∧
      (c ≠ 0 → is [9, 0, c] .panelFormatError) ∧ (2 < g.toNat → is [9, g, c] .panelFormatError)) ∧
  (∀ (kind : Byte) (body : List Byte), body.length < 65535 → kind = 0 ∨ 11 < kind.toNat →
    requestOf (panelFrame (kind :: body)) = .panelFormatError) ∧
  (∀ (kind : Byte) (body : List Byte), body.length < 65535 → (kind, body.length) ∉ [((1 : Byte), 12), (2, 6), (3, 4),
      (4, 1), (5, 1), (6, 1), (7, 1), (8, 0), (9, 2), (10, 3), (11, 0)] →
    requestOf (panelFrame (kind :: body)) = .panelFormatError) ∧
  ((∀ tag, socketReportOf (1 :: tag) = some (.tagReport tag)) ∧
    (∀ check : BitVec 16, socketReportOf (2 :: beBytes 2 check.toNat) = some (.unplugReport check)) ∧
    (∀ (body : List Byte) (check : BitVec 16), body.length = 9 →
      socketReportOf (3 :: body ++ beBytes 2 check.toNat) = some (.socketStateReport body check)) ∧
    (∀ (kind : Byte) (rest : List Byte), kind = 0 ∨ 3 < kind.toNat ∨ (kind = 2 ∧ rest.length ≠ 2) ∨
      (kind = 3 ∧ rest.length ≠ 11) → socketReportOf (kind :: rest) = none) ∧ socketReportOf [] = none ∧
    socketRequestFrame = 4 :: beBytes 2 (crc16 [4])) ∧
  ∀ frame : List Byte, (frame.length ≠ fieldAt frame 0 2 + 4 ∨ fieldAt frame 0 2 = 0 ∨
      crc16 (frame.take (frame.length - 2)) ≠ beValue (frame.drop (frame.length - 2))) →
    requestOf frame = .panelFormatError

/-- The payloads this part composes carry their figures (R30, R188): a STATE its class, flags, permit and shares; a CLAIM
its claimed total, a YIELD its units, a PERMIT-CLAIM its permit. Those it only receives give theirs: a REVOKE its permit and
end day, a TIME its day and second, a NOTE-REQUEST its target, a NOTE-TAKEN its target and number. -/
def Obligations.OwnPayloads : Prop :=
  (∀ s : State, (∀ h, (s.header h).ownShare ≤ 250) →
    (∀ p, s.session.permit = some p → 1 ≤ p.id ∧ p.id < 2 ^ 32) → (s.sessionOpen = true → s.session.permit ≠ none) →
    parsePayload 1 s.statePayload = some (.state s.sessionClass s.ownStop s.sessionOpen (decide (s.station = .starting))
      (vec8 fun h => (s.header h).ownShare) (if s.sessionOpen then s.sessionPermit else none))) ∧
  (∀ (h : HeaderId) (n : Nat) (cls : PriorityClass), 1 ≤ n → n ≤ 250 →
    parsePayload 2 (claimPayload h n cls) = some (.claim h n cls) ∧
    parsePayload 3 (yieldPayload h n cls) = some (.yield h n cls)) ∧
  (∀ id : Nat, 1 ≤ id → id < 2 ^ 32 → parsePayload 4 (beBytes 4 id) = some (.permitClaim id)) ∧
  parsePayload 7 [] = some .stop ∧
  (∀ id endDay : Nat, 1 ≤ id → id < 2 ^ 32 → endDay < 2 ^ 16 →
    parsePayload 5 (beBytes 4 id ++ beBytes 2 endDay) = some (.revoke id endDay)) ∧
  (∀ day second : Nat, day < 2 ^ 16 → second ≤ 86399 →
    parsePayload 6 (beBytes 2 day ++ beBytes 3 second) = some (.time day second)) ∧
  (∀ target : StationId, parsePayload 9 (beBytes 1 target.val) = some (.noteRequest target)) ∧
  ∀ (target : StationId) (n : Nat), 1 ≤ n → n ≤ 999999 →
    parsePayload 10 (beBytes 1 target.val ++ beBytes 3 n) = some (.noteTaken target n)

/-! ## Laws of the whole part -/

/-- The law of own steady shares (R77) is kept by every step. -/
def Obligations.ShareLawKept : Prop :=
  ∀ s t : State, ShareLaw s → step s = .next t → ShareLaw t

/-- With a permissive withdrawn no arm flows and no claim is held, and while the part is down it neither runs nor flows
(R29, R87, R139, R158, R180): kept by every step. -/
def Obligations.FlowLawKept : Prop :=
  ∀ s t : State, FlowLaw s → step s = .next t → FlowLaw t

/-- The law of the admitted session (R47): a session CHECKING or ADMITTED has a permit neither revoked nor past its expiry
day. Kept by every step. -/
def Obligations.AdmissionLawKept : Prop :=
  ∀ s t : State, AdmissionLaw s → step s = .next t → AdmissionLaw t

/-- TERMINAL_STOP stands exactly while the stop set is non-empty (R27, R161): kept by every step. -/
def Obligations.StopLawKept : Prop :=
  ∀ s t : State, StopLaw s → step s = .next t → StopLaw t

/-- The bounds of the two queues, with the transmitter's and the write timer's states, the numbering of the frames queued, the
one STATE and the one STOP that may wait behind the front and the form of the retention memory are kept by every step (R4,
R6, R8, R9, R183, R184; logs 5, 31). That a STOP keeps it by dropping the older of two STATEs is the model's choice
(log 64). -/
def Obligations.BoundsKept : Prop :=
  ∀ s t : State, step s = .next t →
    (s.link.Sound → t.link.Sound) ∧ (s.link.Numbered → t.link.Numbered) ∧ (s.link.Orderly → t.link.Orderly) ∧
      (s.retention.Sound → t.retention.Sound) ∧
      (MemoryLaw s → MemoryLaw t)

/-- Every law holds at reset, and reset is the part in CONFIG FAULT with BAD_CHECK: an image that was never written (the
model's reading of reset, log 4) leaves every output off and every table at its cold-start contents (R19, R20, R180). -/
def Obligations.ResetHolds : Prop :=
  let s := State.reset
  ShareLaw s ∧ FlowLaw s ∧ AdmissionLaw s ∧ StopLaw s ∧ s.link.Sound ∧ s.link.Numbered ∧ s.link.Orderly ∧ s.retention.Sound ∧ MemoryLaw s ∧
    s.station = .configFault ∧ s.faultKind = some .badCheck ∧ s.link.queue = [] ∧ s.link.tx = .empty ∧
    s.link.lineIdle = false ∧ s.clock.dateKnown = false ∧ s.session.state = .none ∧ s.revoked = [] ∧
    (∀ p, (s.peer p).fresh = .gone ∧ (s.peer p).heard = none) ∧ (∀ a, s.lowSolenoid a = false) ∧
    (∀ a, s.mainSolenoid a = false) ∧ (∀ i, (s.injector i).firing = false) ∧ s.monitor.horn = false ∧ s.pending = []

/-- What only a few commands can change: the configuration and the fault kind (COLD_START); the clock and the revocation
list; the retention memory (write ends alone, R182, R183); the totalizers (slices alone, R122); the learned close-ahead
values (R138); the socket view (R35). No command touches the timebase or the queue of commands. -/
def Obligations.OnlyTheseChange : Prop :=
  ∀ (c : Instr) (s t : State), exec c s = .next t → t.now = s.now ∧ t.pending = s.pending ∧
    (match c with
      | .coldStart _ _ _ => True
      | _ => t.cfg = s.cfg ∧ t.faultKind = s.faultKind ∧ t.cfgClamped = s.cfgClamped) ∧
    (match c with
      | .coldStart _ _ _ | .clockSecond | .timeReceived _ | .restartReleased => True
      | _ => t.clock = s.clock) ∧
    (match c with
      | .coldStart _ _ _ | .clockSecond | .timeReceived _ | .revokeReceived _ => True
      | _ => t.revoked = s.revoked) ∧
    (match c with
      | .coldStart _ _ _ | .retentionWriteEnd _ | .retentionWriteTimeout => True
      | _ => t.retention.mem = s.retention.mem ∧ t.retention.issueCount = s.retention.issueCount ∧
          t.retention.fault = s.retention.fault) ∧
    (match c with
      | .coldStart _ _ _ | .aPulse _ | .settleTimerExpiry _ | .restartReleased => True
      | _ => ∀ a, (t.arm a).grossTotal = (s.arm a).grossTotal ∧ (t.arm a).stdTotal = (s.arm a).stdTotal) ∧
    (match c with
      | .coldStart _ _ _ | .settleTimerExpiry _ => True
      | _ => ∀ a, (t.arm a).closeAhead = (s.arm a).closeAhead) ∧
    (match c with
      | .coldStart _ _ _ | .tagReport _ | .unplugReport _ => True
      | _ => t.socketView = s.socketView)
end

