-- ==== Sys2Proof/Laws/State.lean ====
section
/-! SUPPORT. What each update of State leaves: one lemma per field per update, and what each accessor reads after an
update. -/

namespace Sys2Proof.Machine

/-! ## Fields an update leaves -/

section
variable (a : ArmId) (f : Arm → Arm) (s : State)
@[simp] theorem State.modArm_now : (s.modArm a f).now = s.now := rfl
@[simp] theorem State.modArm_station : (s.modArm a f).station = s.station := rfl
@[simp] theorem State.modArm_faultKind : (s.modArm a f).faultKind = s.faultKind := rfl
@[simp] theorem State.modArm_cfg : (s.modArm a f).cfg = s.cfg := rfl
@[simp] theorem State.modArm_cfgClamped : (s.modArm a f).cfgClamped = s.cfgClamped := rfl
@[simp] theorem State.modArm_restart : (s.modArm a f).restart = s.restart := rfl
@[simp] theorem State.modArm_stage5Waits : (s.modArm a f).stage5Waits = s.stage5Waits := rfl
@[simp] theorem State.modArm_listenTimer : (s.modArm a f).listenTimer = s.listenTimer := rfl
@[simp] theorem State.modArm_periodTimer : (s.modArm a f).periodTimer = s.periodTimer := rfl
@[simp] theorem State.modArm_ownStop : (s.modArm a f).ownStop = s.ownStop := rfl
@[simp] theorem State.modArm_socketRequests : (s.modArm a f).socketRequests = s.socketRequests := rfl
@[simp] theorem State.modArm_link : (s.modArm a f).link = s.link := rfl
@[simp] theorem State.modArm_clock : (s.modArm a f).clock = s.clock := rfl
@[simp] theorem State.modArm_peers : (s.modArm a f).peers = s.peers := rfl
@[simp] theorem State.modArm_session : (s.modArm a f).session = s.session := rfl
@[simp] theorem State.modArm_revoked : (s.modArm a f).revoked = s.revoked := rfl
@[simp] theorem State.modArm_socketView : (s.modArm a f).socketView = s.socketView := rfl
@[simp] theorem State.modArm_batches : (s.modArm a f).batches = s.batches := rfl
@[simp] theorem State.modArm_startQueue : (s.modArm a f).startQueue = s.startQueue := rfl
@[simp] theorem State.modArm_headers : (s.modArm a f).headers = s.headers := rfl
@[simp] theorem State.modArm_injectors : (s.modArm a f).injectors = s.injectors := rfl
@[simp] theorem State.modArm_monitor : (s.modArm a f).monitor = s.monitor := rfl
@[simp] theorem State.modArm_notes : (s.modArm a f).notes = s.notes := rfl
@[simp] theorem State.modArm_retention : (s.modArm a f).retention = s.retention := rfl
@[simp] theorem State.modArm_panel : (s.modArm a f).panel = s.panel := rfl
@[simp] theorem State.modArm_freeDraws : (s.modArm a f).freeDraws = s.freeDraws := rfl
@[simp] theorem State.modArm_pending : (s.modArm a f).pending = s.pending := rfl
end

section
variable (h : HeaderId) (f : Header → Header) (s : State)
@[simp] theorem State.modHeader_now : (s.modHeader h f).now = s.now := rfl
@[simp] theorem State.modHeader_station : (s.modHeader h f).station = s.station := rfl
@[simp] theorem State.modHeader_faultKind : (s.modHeader h f).faultKind = s.faultKind := rfl
@[simp] theorem State.modHeader_cfg : (s.modHeader h f).cfg = s.cfg := rfl
@[simp] theorem State.modHeader_cfgClamped : (s.modHeader h f).cfgClamped = s.cfgClamped := rfl
@[simp] theorem State.modHeader_restart : (s.modHeader h f).restart = s.restart := rfl
@[simp] theorem State.modHeader_stage5Waits : (s.modHeader h f).stage5Waits = s.stage5Waits := rfl
@[simp] theorem State.modHeader_listenTimer : (s.modHeader h f).listenTimer = s.listenTimer := rfl
@[simp] theorem State.modHeader_periodTimer : (s.modHeader h f).periodTimer = s.periodTimer := rfl
@[simp] theorem State.modHeader_ownStop : (s.modHeader h f).ownStop = s.ownStop := rfl
@[simp] theorem State.modHeader_socketRequests : (s.modHeader h f).socketRequests = s.socketRequests := rfl
@[simp] theorem State.modHeader_link : (s.modHeader h f).link = s.link := rfl
@[simp] theorem State.modHeader_clock : (s.modHeader h f).clock = s.clock := rfl
@[simp] theorem State.modHeader_peers : (s.modHeader h f).peers = s.peers := rfl
@[simp] theorem State.modHeader_session : (s.modHeader h f).session = s.session := rfl
@[simp] theorem State.modHeader_revoked : (s.modHeader h f).revoked = s.revoked := rfl
@[simp] theorem State.modHeader_socketView : (s.modHeader h f).socketView = s.socketView := rfl
@[simp] theorem State.modHeader_batches : (s.modHeader h f).batches = s.batches := rfl
@[simp] theorem State.modHeader_startQueue : (s.modHeader h f).startQueue = s.startQueue := rfl
@[simp] theorem State.modHeader_arms : (s.modHeader h f).arms = s.arms := rfl
@[simp] theorem State.modHeader_injectors : (s.modHeader h f).injectors = s.injectors := rfl
@[simp] theorem State.modHeader_monitor : (s.modHeader h f).monitor = s.monitor := rfl
@[simp] theorem State.modHeader_notes : (s.modHeader h f).notes = s.notes := rfl
@[simp] theorem State.modHeader_retention : (s.modHeader h f).retention = s.retention := rfl
@[simp] theorem State.modHeader_panel : (s.modHeader h f).panel = s.panel := rfl
@[simp] theorem State.modHeader_freeDraws : (s.modHeader h f).freeDraws = s.freeDraws := rfl
@[simp] theorem State.modHeader_pending : (s.modHeader h f).pending = s.pending := rfl
end

section
variable (i : InjectorId) (f : Injector → Injector) (s : State)
@[simp] theorem State.modInjector_now : (s.modInjector i f).now = s.now := rfl
@[simp] theorem State.modInjector_station : (s.modInjector i f).station = s.station := rfl
@[simp] theorem State.modInjector_faultKind : (s.modInjector i f).faultKind = s.faultKind := rfl
@[simp] theorem State.modInjector_cfg : (s.modInjector i f).cfg = s.cfg := rfl
@[simp] theorem State.modInjector_cfgClamped : (s.modInjector i f).cfgClamped = s.cfgClamped := rfl
@[simp] theorem State.modInjector_restart : (s.modInjector i f).restart = s.restart := rfl
@[simp] theorem State.modInjector_stage5Waits : (s.modInjector i f).stage5Waits = s.stage5Waits := rfl
@[simp] theorem State.modInjector_listenTimer : (s.modInjector i f).listenTimer = s.listenTimer := rfl
@[simp] theorem State.modInjector_periodTimer : (s.modInjector i f).periodTimer = s.periodTimer := rfl
@[simp] theorem State.modInjector_ownStop : (s.modInjector i f).ownStop = s.ownStop := rfl
@[simp] theorem State.modInjector_socketRequests : (s.modInjector i f).socketRequests = s.socketRequests := rfl
@[simp] theorem State.modInjector_link : (s.modInjector i f).link = s.link := rfl
@[simp] theorem State.modInjector_clock : (s.modInjector i f).clock = s.clock := rfl
@[simp] theorem State.modInjector_peers : (s.modInjector i f).peers = s.peers := rfl
@[simp] theorem State.modInjector_session : (s.modInjector i f).session = s.session := rfl
@[simp] theorem State.modInjector_revoked : (s.modInjector i f).revoked = s.revoked := rfl
@[simp] theorem State.modInjector_socketView : (s.modInjector i f).socketView = s.socketView := rfl
@[simp] theorem State.modInjector_batches : (s.modInjector i f).batches = s.batches := rfl
@[simp] theorem State.modInjector_startQueue : (s.modInjector i f).startQueue = s.startQueue := rfl
@[simp] theorem State.modInjector_headers : (s.modInjector i f).headers = s.headers := rfl
@[simp] theorem State.modInjector_arms : (s.modInjector i f).arms = s.arms := rfl
@[simp] theorem State.modInjector_monitor : (s.modInjector i f).monitor = s.monitor := rfl
@[simp] theorem State.modInjector_notes : (s.modInjector i f).notes = s.notes := rfl
@[simp] theorem State.modInjector_retention : (s.modInjector i f).retention = s.retention := rfl
@[simp] theorem State.modInjector_panel : (s.modInjector i f).panel = s.panel := rfl
@[simp] theorem State.modInjector_freeDraws : (s.modInjector i f).freeDraws = s.freeDraws := rfl
@[simp] theorem State.modInjector_pending : (s.modInjector i f).pending = s.pending := rfl
end

section
variable (p : StationId) (f : Peer → Peer) (s : State)
@[simp] theorem State.modPeer_now : (s.modPeer p f).now = s.now := rfl
@[simp] theorem State.modPeer_station : (s.modPeer p f).station = s.station := rfl
@[simp] theorem State.modPeer_faultKind : (s.modPeer p f).faultKind = s.faultKind := rfl
@[simp] theorem State.modPeer_cfg : (s.modPeer p f).cfg = s.cfg := rfl
@[simp] theorem State.modPeer_cfgClamped : (s.modPeer p f).cfgClamped = s.cfgClamped := rfl
@[simp] theorem State.modPeer_restart : (s.modPeer p f).restart = s.restart := rfl
@[simp] theorem State.modPeer_stage5Waits : (s.modPeer p f).stage5Waits = s.stage5Waits := rfl
@[simp] theorem State.modPeer_listenTimer : (s.modPeer p f).listenTimer = s.listenTimer := rfl
@[simp] theorem State.modPeer_periodTimer : (s.modPeer p f).periodTimer = s.periodTimer := rfl
@[simp] theorem State.modPeer_ownStop : (s.modPeer p f).ownStop = s.ownStop := rfl
@[simp] theorem State.modPeer_socketRequests : (s.modPeer p f).socketRequests = s.socketRequests := rfl
@[simp] theorem State.modPeer_link : (s.modPeer p f).link = s.link := rfl
@[simp] theorem State.modPeer_clock : (s.modPeer p f).clock = s.clock := rfl
@[simp] theorem State.modPeer_session : (s.modPeer p f).session = s.session := rfl
@[simp] theorem State.modPeer_revoked : (s.modPeer p f).revoked = s.revoked := rfl
@[simp] theorem State.modPeer_socketView : (s.modPeer p f).socketView = s.socketView := rfl
@[simp] theorem State.modPeer_batches : (s.modPeer p f).batches = s.batches := rfl
@[simp] theorem State.modPeer_startQueue : (s.modPeer p f).startQueue = s.startQueue := rfl
@[simp] theorem State.modPeer_headers : (s.modPeer p f).headers = s.headers := rfl
@[simp] theorem State.modPeer_arms : (s.modPeer p f).arms = s.arms := rfl
@[simp] theorem State.modPeer_injectors : (s.modPeer p f).injectors = s.injectors := rfl
@[simp] theorem State.modPeer_monitor : (s.modPeer p f).monitor = s.monitor := rfl
@[simp] theorem State.modPeer_notes : (s.modPeer p f).notes = s.notes := rfl
@[simp] theorem State.modPeer_retention : (s.modPeer p f).retention = s.retention := rfl
@[simp] theorem State.modPeer_panel : (s.modPeer p f).panel = s.panel := rfl
@[simp] theorem State.modPeer_freeDraws : (s.modPeer p f).freeDraws = s.freeDraws := rfl
@[simp] theorem State.modPeer_pending : (s.modPeer p f).pending = s.pending := rfl
end

section
variable (c : CompId) (b : Option Batch) (s : State)
@[simp] theorem State.setBatch_now : (s.setBatch c b).now = s.now := rfl
@[simp] theorem State.setBatch_station : (s.setBatch c b).station = s.station := rfl
@[simp] theorem State.setBatch_faultKind : (s.setBatch c b).faultKind = s.faultKind := rfl
@[simp] theorem State.setBatch_cfg : (s.setBatch c b).cfg = s.cfg := rfl
@[simp] theorem State.setBatch_cfgClamped : (s.setBatch c b).cfgClamped = s.cfgClamped := rfl
@[simp] theorem State.setBatch_restart : (s.setBatch c b).restart = s.restart := rfl
@[simp] theorem State.setBatch_stage5Waits : (s.setBatch c b).stage5Waits = s.stage5Waits := rfl
@[simp] theorem State.setBatch_listenTimer : (s.setBatch c b).listenTimer = s.listenTimer := rfl
@[simp] theorem State.setBatch_periodTimer : (s.setBatch c b).periodTimer = s.periodTimer := rfl
@[simp] theorem State.setBatch_ownStop : (s.setBatch c b).ownStop = s.ownStop := rfl
@[simp] theorem State.setBatch_socketRequests : (s.setBatch c b).socketRequests = s.socketRequests := rfl
@[simp] theorem State.setBatch_link : (s.setBatch c b).link = s.link := rfl
@[simp] theorem State.setBatch_clock : (s.setBatch c b).clock = s.clock := rfl
@[simp] theorem State.setBatch_peers : (s.setBatch c b).peers = s.peers := rfl
@[simp] theorem State.setBatch_session : (s.setBatch c b).session = s.session := rfl
@[simp] theorem State.setBatch_revoked : (s.setBatch c b).revoked = s.revoked := rfl
@[simp] theorem State.setBatch_socketView : (s.setBatch c b).socketView = s.socketView := rfl
@[simp] theorem State.setBatch_startQueue : (s.setBatch c b).startQueue = s.startQueue := rfl
@[simp] theorem State.setBatch_headers : (s.setBatch c b).headers = s.headers := rfl
@[simp] theorem State.setBatch_arms : (s.setBatch c b).arms = s.arms := rfl
@[simp] theorem State.setBatch_injectors : (s.setBatch c b).injectors = s.injectors := rfl
@[simp] theorem State.setBatch_monitor : (s.setBatch c b).monitor = s.monitor := rfl
@[simp] theorem State.setBatch_notes : (s.setBatch c b).notes = s.notes := rfl
@[simp] theorem State.setBatch_retention : (s.setBatch c b).retention = s.retention := rfl
@[simp] theorem State.setBatch_panel : (s.setBatch c b).panel = s.panel := rfl
@[simp] theorem State.setBatch_freeDraws : (s.setBatch c b).freeDraws = s.freeDraws := rfl
@[simp] theorem State.setBatch_pending : (s.setBatch c b).pending = s.pending := rfl
end

section
variable (c : CompId) (f : Batch → Batch) (s : State)
@[simp] theorem State.modBatch_now : (s.modBatch c f).now = s.now := rfl
@[simp] theorem State.modBatch_station : (s.modBatch c f).station = s.station := rfl
@[simp] theorem State.modBatch_faultKind : (s.modBatch c f).faultKind = s.faultKind := rfl
@[simp] theorem State.modBatch_cfg : (s.modBatch c f).cfg = s.cfg := rfl
@[simp] theorem State.modBatch_cfgClamped : (s.modBatch c f).cfgClamped = s.cfgClamped := rfl
@[simp] theorem State.modBatch_restart : (s.modBatch c f).restart = s.restart := rfl
@[simp] theorem State.modBatch_stage5Waits : (s.modBatch c f).stage5Waits = s.stage5Waits := rfl
@[simp] theorem State.modBatch_listenTimer : (s.modBatch c f).listenTimer = s.listenTimer := rfl
@[simp] theorem State.modBatch_periodTimer : (s.modBatch c f).periodTimer = s.periodTimer := rfl
@[simp] theorem State.modBatch_ownStop : (s.modBatch c f).ownStop = s.ownStop := rfl
@[simp] theorem State.modBatch_socketRequests : (s.modBatch c f).socketRequests = s.socketRequests := rfl
@[simp] theorem State.modBatch_link : (s.modBatch c f).link = s.link := rfl
@[simp] theorem State.modBatch_clock : (s.modBatch c f).clock = s.clock := rfl
@[simp] theorem State.modBatch_peers : (s.modBatch c f).peers = s.peers := rfl
@[simp] theorem State.modBatch_session : (s.modBatch c f).session = s.session := rfl
@[simp] theorem State.modBatch_revoked : (s.modBatch c f).revoked = s.revoked := rfl
@[simp] theorem State.modBatch_socketView : (s.modBatch c f).socketView = s.socketView := rfl
@[simp] theorem State.modBatch_startQueue : (s.modBatch c f).startQueue = s.startQueue := rfl
@[simp] theorem State.modBatch_headers : (s.modBatch c f).headers = s.headers := rfl
@[simp] theorem State.modBatch_arms : (s.modBatch c f).arms = s.arms := rfl
@[simp] theorem State.modBatch_injectors : (s.modBatch c f).injectors = s.injectors := rfl
@[simp] theorem State.modBatch_monitor : (s.modBatch c f).monitor = s.monitor := rfl
@[simp] theorem State.modBatch_notes : (s.modBatch c f).notes = s.notes := rfl
@[simp] theorem State.modBatch_retention : (s.modBatch c f).retention = s.retention := rfl
@[simp] theorem State.modBatch_panel : (s.modBatch c f).panel = s.panel := rfl
@[simp] theorem State.modBatch_freeDraws : (s.modBatch c f).freeDraws = s.freeDraws := rfl
@[simp] theorem State.modBatch_pending : (s.modBatch c f).pending = s.pending := rfl
end

section
variable (f : Session → Session) (s : State)
@[simp] theorem State.modSession_now : (s.modSession f).now = s.now := rfl
@[simp] theorem State.modSession_station : (s.modSession f).station = s.station := rfl
@[simp] theorem State.modSession_faultKind : (s.modSession f).faultKind = s.faultKind := rfl
@[simp] theorem State.modSession_cfg : (s.modSession f).cfg = s.cfg := rfl
@[simp] theorem State.modSession_cfgClamped : (s.modSession f).cfgClamped = s.cfgClamped := rfl
@[simp] theorem State.modSession_restart : (s.modSession f).restart = s.restart := rfl
@[simp] theorem State.modSession_stage5Waits : (s.modSession f).stage5Waits = s.stage5Waits := rfl
@[simp] theorem State.modSession_listenTimer : (s.modSession f).listenTimer = s.listenTimer := rfl
@[simp] theorem State.modSession_periodTimer : (s.modSession f).periodTimer = s.periodTimer := rfl
@[simp] theorem State.modSession_ownStop : (s.modSession f).ownStop = s.ownStop := rfl
@[simp] theorem State.modSession_socketRequests : (s.modSession f).socketRequests = s.socketRequests := rfl
@[simp] theorem State.modSession_link : (s.modSession f).link = s.link := rfl
@[simp] theorem State.modSession_clock : (s.modSession f).clock = s.clock := rfl
@[simp] theorem State.modSession_peers : (s.modSession f).peers = s.peers := rfl
@[simp] theorem State.modSession_session : (s.modSession f).session = f s.session := rfl
@[simp] theorem State.modSession_revoked : (s.modSession f).revoked = s.revoked := rfl
@[simp] theorem State.modSession_socketView : (s.modSession f).socketView = s.socketView := rfl
@[simp] theorem State.modSession_batches : (s.modSession f).batches = s.batches := rfl
@[simp] theorem State.modSession_startQueue : (s.modSession f).startQueue = s.startQueue := rfl
@[simp] theorem State.modSession_headers : (s.modSession f).headers = s.headers := rfl
@[simp] theorem State.modSession_arms : (s.modSession f).arms = s.arms := rfl
@[simp] theorem State.modSession_injectors : (s.modSession f).injectors = s.injectors := rfl
@[simp] theorem State.modSession_monitor : (s.modSession f).monitor = s.monitor := rfl
@[simp] theorem State.modSession_notes : (s.modSession f).notes = s.notes := rfl
@[simp] theorem State.modSession_retention : (s.modSession f).retention = s.retention := rfl
@[simp] theorem State.modSession_panel : (s.modSession f).panel = s.panel := rfl
@[simp] theorem State.modSession_freeDraws : (s.modSession f).freeDraws = s.freeDraws := rfl
@[simp] theorem State.modSession_pending : (s.modSession f).pending = s.pending := rfl
end

section
variable (f : Monitor → Monitor) (s : State)
@[simp] theorem State.modMonitor_now : (s.modMonitor f).now = s.now := rfl
@[simp] theorem State.modMonitor_station : (s.modMonitor f).station = s.station := rfl
@[simp] theorem State.modMonitor_faultKind : (s.modMonitor f).faultKind = s.faultKind := rfl
@[simp] theorem State.modMonitor_cfg : (s.modMonitor f).cfg = s.cfg := rfl
@[simp] theorem State.modMonitor_cfgClamped : (s.modMonitor f).cfgClamped = s.cfgClamped := rfl
@[simp] theorem State.modMonitor_restart : (s.modMonitor f).restart = s.restart := rfl
@[simp] theorem State.modMonitor_stage5Waits : (s.modMonitor f).stage5Waits = s.stage5Waits := rfl
@[simp] theorem State.modMonitor_listenTimer : (s.modMonitor f).listenTimer = s.listenTimer := rfl
@[simp] theorem State.modMonitor_periodTimer : (s.modMonitor f).periodTimer = s.periodTimer := rfl
@[simp] theorem State.modMonitor_ownStop : (s.modMonitor f).ownStop = s.ownStop := rfl
@[simp] theorem State.modMonitor_socketRequests : (s.modMonitor f).socketRequests = s.socketRequests := rfl
@[simp] theorem State.modMonitor_link : (s.modMonitor f).link = s.link := rfl
@[simp] theorem State.modMonitor_clock : (s.modMonitor f).clock = s.clock := rfl
@[simp] theorem State.modMonitor_peers : (s.modMonitor f).peers = s.peers := rfl
@[simp] theorem State.modMonitor_session : (s.modMonitor f).session = s.session := rfl
@[simp] theorem State.modMonitor_revoked : (s.modMonitor f).revoked = s.revoked := rfl
@[simp] theorem State.modMonitor_socketView : (s.modMonitor f).socketView = s.socketView := rfl
@[simp] theorem State.modMonitor_batches : (s.modMonitor f).batches = s.batches := rfl
@[simp] theorem State.modMonitor_startQueue : (s.modMonitor f).startQueue = s.startQueue := rfl
@[simp] theorem State.modMonitor_headers : (s.modMonitor f).headers = s.headers := rfl
@[simp] theorem State.modMonitor_arms : (s.modMonitor f).arms = s.arms := rfl
@[simp] theorem State.modMonitor_injectors : (s.modMonitor f).injectors = s.injectors := rfl
@[simp] theorem State.modMonitor_monitor : (s.modMonitor f).monitor = f s.monitor := rfl
@[simp] theorem State.modMonitor_notes : (s.modMonitor f).notes = s.notes := rfl
@[simp] theorem State.modMonitor_retention : (s.modMonitor f).retention = s.retention := rfl
@[simp] theorem State.modMonitor_panel : (s.modMonitor f).panel = s.panel := rfl
@[simp] theorem State.modMonitor_freeDraws : (s.modMonitor f).freeDraws = s.freeDraws := rfl
@[simp] theorem State.modMonitor_pending : (s.modMonitor f).pending = s.pending := rfl
end

section
variable (f : Link → Link) (s : State)
@[simp] theorem State.modLink_now : (s.modLink f).now = s.now := rfl
@[simp] theorem State.modLink_station : (s.modLink f).station = s.station := rfl
@[simp] theorem State.modLink_faultKind : (s.modLink f).faultKind = s.faultKind := rfl
@[simp] theorem State.modLink_cfg : (s.modLink f).cfg = s.cfg := rfl
@[simp] theorem State.modLink_cfgClamped : (s.modLink f).cfgClamped = s.cfgClamped := rfl
@[simp] theorem State.modLink_restart : (s.modLink f).restart = s.restart := rfl
@[simp] theorem State.modLink_stage5Waits : (s.modLink f).stage5Waits = s.stage5Waits := rfl
@[simp] theorem State.modLink_listenTimer : (s.modLink f).listenTimer = s.listenTimer := rfl
@[simp] theorem State.modLink_periodTimer : (s.modLink f).periodTimer = s.periodTimer := rfl
@[simp] theorem State.modLink_ownStop : (s.modLink f).ownStop = s.ownStop := rfl
@[simp] theorem State.modLink_socketRequests : (s.modLink f).socketRequests = s.socketRequests := rfl
@[simp] theorem State.modLink_link : (s.modLink f).link = f s.link := rfl
@[simp] theorem State.modLink_clock : (s.modLink f).clock = s.clock := rfl
@[simp] theorem State.modLink_peers : (s.modLink f).peers = s.peers := rfl
@[simp] theorem State.modLink_session : (s.modLink f).session = s.session := rfl
@[simp] theorem State.modLink_revoked : (s.modLink f).revoked = s.revoked := rfl
@[simp] theorem State.modLink_socketView : (s.modLink f).socketView = s.socketView := rfl
@[simp] theorem State.modLink_batches : (s.modLink f).batches = s.batches := rfl
@[simp] theorem State.modLink_startQueue : (s.modLink f).startQueue = s.startQueue := rfl
@[simp] theorem State.modLink_headers : (s.modLink f).headers = s.headers := rfl
@[simp] theorem State.modLink_arms : (s.modLink f).arms = s.arms := rfl
@[simp] theorem State.modLink_injectors : (s.modLink f).injectors = s.injectors := rfl
@[simp] theorem State.modLink_monitor : (s.modLink f).monitor = s.monitor := rfl
@[simp] theorem State.modLink_notes : (s.modLink f).notes = s.notes := rfl
@[simp] theorem State.modLink_retention : (s.modLink f).retention = s.retention := rfl
@[simp] theorem State.modLink_panel : (s.modLink f).panel = s.panel := rfl
@[simp] theorem State.modLink_freeDraws : (s.modLink f).freeDraws = s.freeDraws := rfl
@[simp] theorem State.modLink_pending : (s.modLink f).pending = s.pending := rfl
end

section
variable (f : Notes → Notes) (s : State)
@[simp] theorem State.modNotes_now : (s.modNotes f).now = s.now := rfl
@[simp] theorem State.modNotes_station : (s.modNotes f).station = s.station := rfl
@[simp] theorem State.modNotes_faultKind : (s.modNotes f).faultKind = s.faultKind := rfl
@[simp] theorem State.modNotes_cfg : (s.modNotes f).cfg = s.cfg := rfl
@[simp] theorem State.modNotes_cfgClamped : (s.modNotes f).cfgClamped = s.cfgClamped := rfl
@[simp] theorem State.modNotes_restart : (s.modNotes f).restart = s.restart := rfl
@[simp] theorem State.modNotes_stage5Waits : (s.modNotes f).stage5Waits = s.stage5Waits := rfl
@[simp] theorem State.modNotes_listenTimer : (s.modNotes f).listenTimer = s.listenTimer := rfl
@[simp] theorem State.modNotes_periodTimer : (s.modNotes f).periodTimer = s.periodTimer := rfl
@[simp] theorem State.modNotes_ownStop : (s.modNotes f).ownStop = s.ownStop := rfl
@[simp] theorem State.modNotes_socketRequests : (s.modNotes f).socketRequests = s.socketRequests := rfl
@[simp] theorem State.modNotes_link : (s.modNotes f).link = s.link := rfl
@[simp] theorem State.modNotes_clock : (s.modNotes f).clock = s.clock := rfl
@[simp] theorem State.modNotes_peers : (s.modNotes f).peers = s.peers := rfl
@[simp] theorem State.modNotes_session : (s.modNotes f).session = s.session := rfl
@[simp] theorem State.modNotes_revoked : (s.modNotes f).revoked = s.revoked := rfl
@[simp] theorem State.modNotes_socketView : (s.modNotes f).socketView = s.socketView := rfl
@[simp] theorem State.modNotes_batches : (s.modNotes f).batches = s.batches := rfl
@[simp] theorem State.modNotes_startQueue : (s.modNotes f).startQueue = s.startQueue := rfl
@[simp] theorem State.modNotes_headers : (s.modNotes f).headers = s.headers := rfl
@[simp] theorem State.modNotes_arms : (s.modNotes f).arms = s.arms := rfl
@[simp] theorem State.modNotes_injectors : (s.modNotes f).injectors = s.injectors := rfl
@[simp] theorem State.modNotes_monitor : (s.modNotes f).monitor = s.monitor := rfl
@[simp] theorem State.modNotes_notes : (s.modNotes f).notes = f s.notes := rfl
@[simp] theorem State.modNotes_retention : (s.modNotes f).retention = s.retention := rfl
@[simp] theorem State.modNotes_panel : (s.modNotes f).panel = s.panel := rfl
@[simp] theorem State.modNotes_freeDraws : (s.modNotes f).freeDraws = s.freeDraws := rfl
@[simp] theorem State.modNotes_pending : (s.modNotes f).pending = s.pending := rfl
end

section
variable (f : Retention → Retention) (s : State)
@[simp] theorem State.modRetention_now : (s.modRetention f).now = s.now := rfl
@[simp] theorem State.modRetention_station : (s.modRetention f).station = s.station := rfl
@[simp] theorem State.modRetention_faultKind : (s.modRetention f).faultKind = s.faultKind := rfl
@[simp] theorem State.modRetention_cfg : (s.modRetention f).cfg = s.cfg := rfl
@[simp] theorem State.modRetention_cfgClamped : (s.modRetention f).cfgClamped = s.cfgClamped := rfl
@[simp] theorem State.modRetention_restart : (s.modRetention f).restart = s.restart := rfl
@[simp] theorem State.modRetention_stage5Waits : (s.modRetention f).stage5Waits = s.stage5Waits := rfl
@[simp] theorem State.modRetention_listenTimer : (s.modRetention f).listenTimer = s.listenTimer := rfl
@[simp] theorem State.modRetention_periodTimer : (s.modRetention f).periodTimer = s.periodTimer := rfl
@[simp] theorem State.modRetention_ownStop : (s.modRetention f).ownStop = s.ownStop := rfl
@[simp] theorem State.modRetention_socketRequests : (s.modRetention f).socketRequests = s.socketRequests := rfl
@[simp] theorem State.modRetention_link : (s.modRetention f).link = s.link := rfl
@[simp] theorem State.modRetention_clock : (s.modRetention f).clock = s.clock := rfl
@[simp] theorem State.modRetention_peers : (s.modRetention f).peers = s.peers := rfl
@[simp] theorem State.modRetention_session : (s.modRetention f).session = s.session := rfl
@[simp] theorem State.modRetention_revoked : (s.modRetention f).revoked = s.revoked := rfl
@[simp] theorem State.modRetention_socketView : (s.modRetention f).socketView = s.socketView := rfl
@[simp] theorem State.modRetention_batches : (s.modRetention f).batches = s.batches := rfl
@[simp] theorem State.modRetention_startQueue : (s.modRetention f).startQueue = s.startQueue := rfl
@[simp] theorem State.modRetention_headers : (s.modRetention f).headers = s.headers := rfl
@[simp] theorem State.modRetention_arms : (s.modRetention f).arms = s.arms := rfl
@[simp] theorem State.modRetention_injectors : (s.modRetention f).injectors = s.injectors := rfl
@[simp] theorem State.modRetention_monitor : (s.modRetention f).monitor = s.monitor := rfl
@[simp] theorem State.modRetention_notes : (s.modRetention f).notes = s.notes := rfl
@[simp] theorem State.modRetention_retention : (s.modRetention f).retention = f s.retention := rfl
@[simp] theorem State.modRetention_panel : (s.modRetention f).panel = s.panel := rfl
@[simp] theorem State.modRetention_freeDraws : (s.modRetention f).freeDraws = s.freeDraws := rfl
@[simp] theorem State.modRetention_pending : (s.modRetention f).pending = s.pending := rfl
end

/-! ## Accessors an update leaves -/

@[simp] theorem State.header_modArm (a : ArmId) (f : Arm → Arm) (h' : HeaderId) (s : State) : (s.modArm a f).header h' = s.header h' := rfl
@[simp] theorem State.injector_modArm (a : ArmId) (f : Arm → Arm) (i' : InjectorId) (s : State) : (s.modArm a f).injector i' = s.injector i' := rfl
@[simp] theorem State.peer_modArm (a : ArmId) (f : Arm → Arm) (p' : StationId) (s : State) : (s.modArm a f).peer p' = s.peer p' := rfl
@[simp] theorem State.batch_modArm (a : ArmId) (f : Arm → Arm) (c' : CompId) (s : State) : (s.modArm a f).batch c' = s.batch c' := rfl
@[simp] theorem State.arm_modHeader (h : HeaderId) (f : Header → Header) (a' : ArmId) (s : State) : (s.modHeader h f).arm a' = s.arm a' := rfl
@[simp] theorem State.injector_modHeader (h : HeaderId) (f : Header → Header) (i' : InjectorId) (s : State) : (s.modHeader h f).injector i' = s.injector i' := rfl
@[simp] theorem State.peer_modHeader (h : HeaderId) (f : Header → Header) (p' : StationId) (s : State) : (s.modHeader h f).peer p' = s.peer p' := rfl
@[simp] theorem State.batch_modHeader (h : HeaderId) (f : Header → Header) (c' : CompId) (s : State) : (s.modHeader h f).batch c' = s.batch c' := rfl
@[simp] theorem State.arm_modInjector (i : InjectorId) (f : Injector → Injector) (a' : ArmId) (s : State) : (s.modInjector i f).arm a' = s.arm a' := rfl
@[simp] theorem State.header_modInjector (i : InjectorId) (f : Injector → Injector) (h' : HeaderId) (s : State) : (s.modInjector i f).header h' = s.header h' := rfl
@[simp] theorem State.peer_modInjector (i : InjectorId) (f : Injector → Injector) (p' : StationId) (s : State) : (s.modInjector i f).peer p' = s.peer p' := rfl
@[simp] theorem State.batch_modInjector (i : InjectorId) (f : Injector → Injector) (c' : CompId) (s : State) : (s.modInjector i f).batch c' = s.batch c' := rfl
@[simp] theorem State.arm_modPeer (p : StationId) (f : Peer → Peer) (a' : ArmId) (s : State) : (s.modPeer p f).arm a' = s.arm a' := rfl
@[simp] theorem State.header_modPeer (p : StationId) (f : Peer → Peer) (h' : HeaderId) (s : State) : (s.modPeer p f).header h' = s.header h' := rfl
@[simp] theorem State.injector_modPeer (p : StationId) (f : Peer → Peer) (i' : InjectorId) (s : State) : (s.modPeer p f).injector i' = s.injector i' := rfl
@[simp] theorem State.batch_modPeer (p : StationId) (f : Peer → Peer) (c' : CompId) (s : State) : (s.modPeer p f).batch c' = s.batch c' := rfl
@[simp] theorem State.arm_setBatch (c : CompId) (b : Option Batch) (a' : ArmId) (s : State) : (s.setBatch c b).arm a' = s.arm a' := rfl
@[simp] theorem State.header_setBatch (c : CompId) (b : Option Batch) (h' : HeaderId) (s : State) : (s.setBatch c b).header h' = s.header h' := rfl
@[simp] theorem State.injector_setBatch (c : CompId) (b : Option Batch) (i' : InjectorId) (s : State) : (s.setBatch c b).injector i' = s.injector i' := rfl
@[simp] theorem State.peer_setBatch (c : CompId) (b : Option Batch) (p' : StationId) (s : State) : (s.setBatch c b).peer p' = s.peer p' := rfl
@[simp] theorem State.arm_modBatch (c : CompId) (f : Batch → Batch) (a' : ArmId) (s : State) : (s.modBatch c f).arm a' = s.arm a' := rfl
@[simp] theorem State.header_modBatch (c : CompId) (f : Batch → Batch) (h' : HeaderId) (s : State) : (s.modBatch c f).header h' = s.header h' := rfl
@[simp] theorem State.injector_modBatch (c : CompId) (f : Batch → Batch) (i' : InjectorId) (s : State) : (s.modBatch c f).injector i' = s.injector i' := rfl
@[simp] theorem State.peer_modBatch (c : CompId) (f : Batch → Batch) (p' : StationId) (s : State) : (s.modBatch c f).peer p' = s.peer p' := rfl
@[simp] theorem State.arm_modSession (f : Session → Session) (a' : ArmId) (s : State) : (s.modSession f).arm a' = s.arm a' := rfl
@[simp] theorem State.header_modSession (f : Session → Session) (h' : HeaderId) (s : State) : (s.modSession f).header h' = s.header h' := rfl
@[simp] theorem State.injector_modSession (f : Session → Session) (i' : InjectorId) (s : State) : (s.modSession f).injector i' = s.injector i' := rfl
@[simp] theorem State.peer_modSession (f : Session → Session) (p' : StationId) (s : State) : (s.modSession f).peer p' = s.peer p' := rfl
@[simp] theorem State.batch_modSession (f : Session → Session) (c' : CompId) (s : State) : (s.modSession f).batch c' = s.batch c' := rfl
@[simp] theorem State.arm_modMonitor (f : Monitor → Monitor) (a' : ArmId) (s : State) : (s.modMonitor f).arm a' = s.arm a' := rfl
@[simp] theorem State.header_modMonitor (f : Monitor → Monitor) (h' : HeaderId) (s : State) : (s.modMonitor f).header h' = s.header h' := rfl
@[simp] theorem State.injector_modMonitor (f : Monitor → Monitor) (i' : InjectorId) (s : State) : (s.modMonitor f).injector i' = s.injector i' := rfl
@[simp] theorem State.peer_modMonitor (f : Monitor → Monitor) (p' : StationId) (s : State) : (s.modMonitor f).peer p' = s.peer p' := rfl
@[simp] theorem State.batch_modMonitor (f : Monitor → Monitor) (c' : CompId) (s : State) : (s.modMonitor f).batch c' = s.batch c' := rfl
@[simp] theorem State.arm_modLink (f : Link → Link) (a' : ArmId) (s : State) : (s.modLink f).arm a' = s.arm a' := rfl
@[simp] theorem State.header_modLink (f : Link → Link) (h' : HeaderId) (s : State) : (s.modLink f).header h' = s.header h' := rfl
@[simp] theorem State.injector_modLink (f : Link → Link) (i' : InjectorId) (s : State) : (s.modLink f).injector i' = s.injector i' := rfl
@[simp] theorem State.peer_modLink (f : Link → Link) (p' : StationId) (s : State) : (s.modLink f).peer p' = s.peer p' := rfl
@[simp] theorem State.batch_modLink (f : Link → Link) (c' : CompId) (s : State) : (s.modLink f).batch c' = s.batch c' := rfl
@[simp] theorem State.arm_modNotes (f : Notes → Notes) (a' : ArmId) (s : State) : (s.modNotes f).arm a' = s.arm a' := rfl
@[simp] theorem State.header_modNotes (f : Notes → Notes) (h' : HeaderId) (s : State) : (s.modNotes f).header h' = s.header h' := rfl
@[simp] theorem State.injector_modNotes (f : Notes → Notes) (i' : InjectorId) (s : State) : (s.modNotes f).injector i' = s.injector i' := rfl
@[simp] theorem State.peer_modNotes (f : Notes → Notes) (p' : StationId) (s : State) : (s.modNotes f).peer p' = s.peer p' := rfl
@[simp] theorem State.batch_modNotes (f : Notes → Notes) (c' : CompId) (s : State) : (s.modNotes f).batch c' = s.batch c' := rfl
@[simp] theorem State.arm_modRetention (f : Retention → Retention) (a' : ArmId) (s : State) : (s.modRetention f).arm a' = s.arm a' := rfl
@[simp] theorem State.header_modRetention (f : Retention → Retention) (h' : HeaderId) (s : State) : (s.modRetention f).header h' = s.header h' := rfl
@[simp] theorem State.injector_modRetention (f : Retention → Retention) (i' : InjectorId) (s : State) : (s.modRetention f).injector i' = s.injector i' := rfl
@[simp] theorem State.peer_modRetention (f : Retention → Retention) (p' : StationId) (s : State) : (s.modRetention f).peer p' = s.peer p' := rfl
@[simp] theorem State.batch_modRetention (f : Retention → Retention) (c' : CompId) (s : State) : (s.modRetention f).batch c' = s.batch c' := rfl

/-! ## What an accessor reads after its own update -/

theorem State.arm_modArm (x y : ArmId) (f : Arm → Arm) (s : State) :
    (s.modArm x f).arm y = if y = x then f (s.arm y) else s.arm y := by
  unfold State.arm State.modArm
  split
  · subst y; simp
  · rename_i h; exact Vector.getElem_set_ne x.isLt y.isLt (fun e => h (Fin.ext e.symm))

@[simp] theorem State.arm_modArm_self (x : ArmId) (f : Arm → Arm) (s : State) : (s.modArm x f).arm x = f (s.arm x) := by
  simp [State.arm_modArm]

theorem State.header_modHeader (x y : HeaderId) (f : Header → Header) (s : State) :
    (s.modHeader x f).header y = if y = x then f (s.header y) else s.header y := by
  unfold State.header State.modHeader
  split
  · subst y; simp
  · rename_i h; exact Vector.getElem_set_ne x.isLt y.isLt (fun e => h (Fin.ext e.symm))

@[simp] theorem State.header_modHeader_self (x : HeaderId) (f : Header → Header) (s : State) : (s.modHeader x f).header x = f (s.header x) := by
  simp [State.header_modHeader]

theorem State.injector_modInjector (x y : InjectorId) (f : Injector → Injector) (s : State) :
    (s.modInjector x f).injector y = if y = x then f (s.injector y) else s.injector y := by
  unfold State.injector State.modInjector
  split
  · subst y; simp
  · rename_i h; exact Vector.getElem_set_ne x.isLt y.isLt (fun e => h (Fin.ext e.symm))

@[simp] theorem State.injector_modInjector_self (x : InjectorId) (f : Injector → Injector) (s : State) : (s.modInjector x f).injector x = f (s.injector x) := by
  simp [State.injector_modInjector]

theorem State.peer_modPeer (x y : StationId) (f : Peer → Peer) (s : State) :
    (s.modPeer x f).peer y = if y = x then f (s.peer y) else s.peer y := by
  unfold State.peer State.modPeer
  split
  · subst y; simp
  · rename_i h; exact Vector.getElem_set_ne x.isLt y.isLt (fun e => h (Fin.ext e.symm))

@[simp] theorem State.peer_modPeer_self (x : StationId) (f : Peer → Peer) (s : State) : (s.modPeer x f).peer x = f (s.peer x) := by
  simp [State.peer_modPeer]

theorem State.batch_setBatch (x y : CompId) (b : Option Batch) (s : State) :
    (s.setBatch x b).batch y = if y = x then b else s.batch y := by
  unfold State.batch State.setBatch
  split
  · subst y; simp
  · rename_i h; exact Vector.getElem_set_ne x.isLt y.isLt (fun e => h (Fin.ext e.symm))

theorem State.batch_modBatch (x y : CompId) (f : Batch → Batch) (s : State) :
    (s.modBatch x f).batch y = if y = x then (s.batch y).map f else s.batch y := by
  unfold State.modBatch
  rw [State.batch_setBatch]
  split
  · subst y; rfl
  · rfl

end Sys2Proof.Machine
end

