-- ==== Sys2Proof/Laws/Link.lean ====
section
/-! SUPPORT. What each operation on the transmit queue and the transmitter does to its bounds: every one keeps
Link.Sound. -/

namespace Sys2Proof.Machine

-- One proof at a time: a waiting proof holds a thread and its stack.
set_option Elab.async false

variable {l : Link}

theorem backoffSlots_range (station : StationId) (k : Nat) :
    1 ≤ backoffSlots station k ∧ backoffSlots station k ≤ 16 := by
  unfold backoffSlots; omega

theorem insertAt_length (n : Nat) (f : TxFrame) (q : List TxFrame) : (insertAt n f q).length = q.length + 1 := by
  simp [insertAt, List.length_take, List.length_drop]; omega

theorem insertAt_ne_nil (n : Nat) (f : TxFrame) (q : List TxFrame) : insertAt n f q ≠ [] := by
  intro h; have := insertAt_length n f q; simp [h] at this

theorem replaceFirst_length (p : TxFrame → Bool) (f : TxFrame) (q : List TxFrame) :
    (replaceFirst p f q).length = q.length := by
  induction q with
  | nil => rfl
  | cons g rest ih => simp only [replaceFirst]; split <;> simp [ih]

theorem Link.Sound.beginAttempt (h : l.Sound) (ht : l.tx ≠ .empty) : l.beginAttempt.Sound where
  room := h.room
  attempts := h.attempts
  empty := by simp [Link.beginAttempt, mt h.empty.mpr ht]
  slots := by simp [Link.beginAttempt]

theorem Link.Sound.startIfReady (h : l.Sound) : l.startIfReady.Sound := by
  unfold Link.startIfReady; split
  · exact h.beginAttempt (by simp [*])
  · exact h

/-- A queue given at least one frame, its transmitter woken, is sound. -/
theorem Link.Sound.wake (h : l.Sound) {q : List TxFrame} (hq : q ≠ []) (hr : q.length ≤ 8) :
    ({ l with queue := q } : Link).wake.Sound := by
  unfold Link.wake
  refine Link.Sound.startIfReady ?_
  split
  · exact ⟨hr, by simp, by simp [hq], by simp⟩
  · rename_i ht
    exact ⟨hr, h.attempts, ⟨fun e => absurd e ht, fun e => absurd e hq⟩, h.slots⟩

theorem Link.Sound.popFront (h : l.Sound) : l.popFront.Sound where
  room := by have := h.room; simp [Link.popFront]; omega
  attempts := by simp [Link.popFront]
  empty := by
    cases hq : l.queue.tail with
    | nil => simp [Link.popFront, hq]
    | cons _ _ => simp [Link.popFront, hq]
  slots := by simp only [Link.popFront]; split <;> simp

theorem Link.Sound.pushTail (h : l.Sound) (f : TxFrame) : (l.pushTail f).1.Sound := by
  unfold Link.pushTail; split
  · rename_i hr
    refine h.wake (by simp) ?_
    simp [Config.txCapacity] at hr; simp; omega
  · exact h

/-- The newest waiting frame is one of the waiting frames. -/
theorem newestNonStop_mem (w : List TxFrame) (g : TxFrame) (h : newestNonStop w = some g) : g ∈ w := by
  have key : ∀ (w : List TxFrame) (b : Option TxFrame),
      w.foldl (fun best f =>
        if f.isStop then best
        else
          match best with
          | some g => if g.id < f.id then some f else best
          | none => some f) b = some g → g ∈ w ∨ b = some g := by
    intro w
    induction w with
    | nil => intro b h; exact .inr h
    | cons f rest ih =>
      intro b h
      rw [List.foldl_cons] at h
      rcases ih _ h with h | h
      · exact .inl (.tail _ h)
      · split at h
        · exact .inr h
        · split at h
          · split at h
            · cases h; exact .inl (.head _)
            · exact .inr h
          · cases h; exact .inl (.head _)
  rcases key w none h with h | h
  · exact h
  · cases h

theorem Link.waiting_subset (l : Link) : l.waiting ⊆ l.queue := by
  unfold Link.waiting; split
  · exact List.drop_subset 1 _
  · exact List.Subset.refl _

theorem oneStateWaits_sublist (q : List TxFrame) : (oneStateWaits q).Sublist q := by
  cases q with
  | nil => exact .slnil
  | cons g rest => simp only [oneStateWaits]; split <;> simp

theorem Link.Sound.enterStop (h : l.Sound) (f : TxFrame) {q : List TxFrame} (hr : q.length < 8) :
    (l.enterStop f q).Sound := by
  have := (oneStateWaits_sublist q).length_le
  refine h.wake (insertAt_ne_nil _ _ _) ?_
  rw [insertAt_length]
  split <;> omega

theorem Link.Sound.pushStop (h : l.Sound) (f : TxFrame) : (l.pushStop f).1.Sound := by
  unfold Link.pushStop; split
  · exact h
  · split
    · rename_i hr
      exact h.enterStop f hr
    · split
      · exact h
      · rename_i g hg
        refine h.enterStop f ?_
        have hm : g ∈ l.queue := l.waiting_subset (newestNonStop_mem _ _ hg)
        have : (l.queue.filter (·.id != g.id)).length < l.queue.length :=
          List.length_filter_lt_length_iff_exists.mpr ⟨g, hm, by simp⟩
        have := h.room
        omega

theorem Link.Sound.pushStateHead (h : l.Sound) (f : TxFrame) : (l.pushStateHead f).Sound := by
  unfold Link.pushStateHead
  dsimp only
  split
  · rename_i hr
    refine h.wake (insertAt_ne_nil _ _ _) ?_
    rw [insertAt_length]
    simp only [Config.txCapacity] at hr
    omega
  · exact h

theorem Link.Sound.pushStateTail (h : l.Sound) (f : TxFrame) : (l.pushStateTail f).Sound := by
  unfold Link.pushStateTail
  split
  · exact h.pushTail f
  · rename_i front rest hq
    have hr := h.room
    have ht : l.tx ≠ .empty := fun e => by simp [h.empty.mp e] at hq
    rw [hq] at hr
    split
    · exact ⟨by simpa [replaceFirst_length] using hr, h.attempts, by simp [ht], h.slots⟩
    · split
      · exact ⟨hr, h.attempts, by simp [ht], h.slots⟩
      · exact h.pushTail f

theorem Link.Sound.numbered (h : l.Sound) : l.numbered.Sound := ⟨h.room, h.attempts, h.empty, h.slots⟩

theorem Link.Sound.purge (h : l.Sound) : l.purge.Sound := by
  have hf : (l.queue.filter TxFrame.isStop).length ≤ 8 := (List.length_filter_le _ _).trans h.room
  unfold Link.purge
  dsimp only
  split
  · rename_i front rest hq
    split
    · rename_i hs
      have hne : l.queue.filter TxFrame.isStop ≠ [] := by rw [hq]; simp [hs]
      have ht : l.tx ≠ .empty := fun e => by simp [h.empty.mp e] at hq
      exact ⟨hf, h.attempts, ⟨fun e => absurd e ht, fun e => absurd e hne⟩, h.slots⟩
    · refine Link.Sound.startIfReady ⟨hf, by simp, ?_, ?_⟩
      · dsimp only
        split <;> rename_i he
        · simpa using he
        · simpa using he
      · dsimp only
        split <;> simp
  · exact h

theorem Link.Sound.emptied (l : Link) : l.emptied.Sound := ⟨by simp [Link.emptied], by simp [Link.emptied],
  by simp [Link.emptied], by simp [Link.emptied]⟩

theorem Link.Sound.idleEvent (h : l.Sound) : l.idleEvent.Sound :=
  Link.Sound.startIfReady ⟨h.room, h.attempts, h.empty, h.slots⟩

theorem Link.Sound.busyEvent (h : l.Sound) (slots : Nat) : (l.busyEvent slots).Sound := by
  unfold Link.busyEvent; split
  · refine ⟨h.room, h.attempts, h.empty, fun ht => ?_⟩
    have := h.slots ht
    have e : l.tx = .backoff := ht
    simp only [e, if_true]
    omega
  · exact h

theorem Link.Sound.collide (h : l.Sound) (station : StationId) (ht : l.tx = .sending) :
    (l.collide station).1.Sound := by
  have hne : l.queue ≠ [] := fun e => by simp [h.empty.mpr e] at ht
  unfold Link.collide
  dsimp only
  split
  · rename_i hk
    exact ⟨h.room, hk, by simp [hne], fun _ => backoffSlots_range _ _⟩
  · split
    · split
      · exact ⟨h.room, by simp, by simp [hne], fun _ => backoffSlots_range _ _⟩
      · exact h.popFront
    · exact h.popFront

end Sys2Proof.Machine
end

