-- ==== Sys2Proof/Laws/Vectors.lean ====
section
/-! SUPPORT. Vectors by number: what vec4, vec8 and vec16 hold, and equality number by number. -/

namespace Sys2Proof.Machine

-- One proof at a time: a waiting proof holds a thread and its stack.
set_option Elab.async false

@[simp] theorem vec8_get {α : Type} (f : Fin 8 → α) (h : Fin 8) : (vec8 f)[h] = f h := by
  fin_cases h <;> rfl

@[simp] theorem vec4_get {α : Type} (f : Fin 4 → α) (a : Fin 4) : (vec4 f)[a] = f a := by
  fin_cases a <;> rfl

theorem vector_ext_fin {α : Type} {n : Nat} {v w : Vector α n} (h : ∀ i : Fin n, v[i] = w[i]) : v = w :=
  Vector.ext fun i hi => h ⟨i, hi⟩

theorem vec8_congr {α : Type} {f g : Fin 8 → α} (h : ∀ i, f i = g i) : vec8 f = vec8 g := by
  have : f = g := funext h
  rw [this]

theorem vec4_congr {α : Type} {f g : Fin 4 → α} (h : ∀ i, f i = g i) : vec4 f = vec4 g := by
  have : f = g := funext h
  rw [this]

/-- A change of an arm that a view `g` does not see leaves the view of every arm. -/
theorem State.arm_view {β : Type} (g : Arm → β) (a : ArmId) (f : Arm → Arm) (hf : ∀ m, g (f m) = g m) (s : State)
    (b : ArmId) : g ((s.modArm a f).arm b) = g (s.arm b) := by
  rw [State.arm_modArm]; split
  · exact hf _
  · rfl

/-- A change of a header that a view `g` does not see leaves the view of every header. -/
theorem State.header_view {β : Type} (g : Header → β) (h : HeaderId) (f : Header → Header) (hf : ∀ m, g (f m) = g m)
    (s : State) (k : HeaderId) : g ((s.modHeader h f).header k) = g (s.header k) := by
  rw [State.header_modHeader]; split
  · exact hf _
  · rfl

end Sys2Proof.Machine
end

