-- ==== Sys2Proof/Laws/Shares.lean ====
section
/-! SUPPORT. What the share negotiator's and the dispatcher's shared moves can do: every operation of Machine/Shares.lean
is a `SharesMove`. It leaves everything but reservations, step-up states, claim slots, retry timers, retry wait flags,
the transmit queue and the STATE period timer; it only hands frames over; and it fills a slot or makes a reservation
only while claims may be taken. -/

namespace Sys2Proof.Machine

-- One proof at a time: a waiting proof holds a thread and its stack.
set_option Elab.async false

/-! ## Hand-overs -/

/-- What hand-overs of frames other than STOP can make of the link controller. -/
inductive Link.Sends : Link → Link → Prop where
  | refl (l : Link) : Link.Sends l l
  | trans {l m n : Link} : Link.Sends l m → Link.Sends m n → Link.Sends l n
  | numbered (l : Link) : Link.Sends l l.numbered
  | tail (l : Link) (f : TxFrame) (hf : f.isStop = false) (hs : f.isState = false) : Link.Sends l (l.pushTail f).1
  | stateHead (l : Link) (f : TxFrame) (hs : f.isState = true) : Link.Sends l (l.pushStateHead f)
  | stateTail (l : Link) (f : TxFrame) (hs : f.isState = true) : Link.Sends l (l.pushStateTail f)
  | announced (l : Link) (b : Bool) : Link.Sends l { l with lastStateStop := b }

/-! ## The move -/

/-- An arm less its reservation and step-up state. -/
def Arm.sansShares (m : Arm) : Arm := { m with reserved := none, stepUp := .none }

/-- A header less its claim slot, retry timer and retry wait flag. -/
def Header.sansShares (x : Header) : Header := { x with slot := none, retryTimer := none, retryWait := false }

/-- The part less what a share move may touch. -/
def State.sansShares (s : State) : State :=
  { s with
    arms := vec4 fun a => (s.arm a).sansShares
    headers := vec8 fun h => (s.header h).sansShares
    link := Link.cold
    periodTimer := none }

/-- What a share move can do. -/
structure SharesMove (s t : State) : Prop where
  rest : t.sansShares = s.sansShares
  sends : Link.Sends s.link t.link
  slots : ∀ h, (t.header h).slot ≠ none → (s.header h).slot ≠ none ∨ s.mayClaim = true
  reserves : ∀ a, (t.arm a).reserved = (s.arm a).reserved ∨ (t.arm a).reserved = none ∨ s.mayClaim = true

theorem SharesMove.field {β : Type} (g : State → β) {s t : State} (h : SharesMove s t)
    (hg : ∀ x : State, g x.sansShares = g x) : g t = g s := by
  rw [← hg t, h.rest, hg]

theorem SharesMove.arm {s t : State} (h : SharesMove s t) (a : ArmId) :
    (t.arm a).sansShares = (s.arm a).sansShares := by
  have e : (vec4 fun b => (t.arm b).sansShares) = vec4 fun b => (s.arm b).sansShares := congrArg State.arms h.rest
  have e2 := congrArg (fun v : Vector Arm 4 => v[a]) e
  exact (vec4_get _ a).symm.trans (e2.trans (vec4_get _ a))

theorem SharesMove.header {s t : State} (h : SharesMove s t) (k : HeaderId) :
    (t.header k).sansShares = (s.header k).sansShares := by
  have e : (vec8 fun b => (t.header b).sansShares) = vec8 fun b => (s.header b).sansShares :=
    congrArg State.headers h.rest
  have e2 := congrArg (fun v : Vector Header 8 => v[k]) e
  exact (vec8_get _ k).symm.trans (e2.trans (vec8_get _ k))

section
variable {s t : State} (h : SharesMove s t)
include h
theorem SharesMove.now : t.now = s.now := h.field State.now fun _ => rfl
theorem SharesMove.station : t.station = s.station := h.field State.station fun _ => rfl
theorem SharesMove.faultKind : t.faultKind = s.faultKind := h.field State.faultKind fun _ => rfl
theorem SharesMove.cfg : t.cfg = s.cfg := h.field State.cfg fun _ => rfl
theorem SharesMove.cfgClamped : t.cfgClamped = s.cfgClamped := h.field State.cfgClamped fun _ => rfl
theorem SharesMove.restart : t.restart = s.restart := h.field State.restart fun _ => rfl
theorem SharesMove.stage5Waits : t.stage5Waits = s.stage5Waits := h.field State.stage5Waits fun _ => rfl
theorem SharesMove.listenTimer : t.listenTimer = s.listenTimer := h.field State.listenTimer fun _ => rfl
theorem SharesMove.ownStop : t.ownStop = s.ownStop := h.field State.ownStop fun _ => rfl
theorem SharesMove.socketRequests : t.socketRequests = s.socketRequests := h.field State.socketRequests fun _ => rfl
theorem SharesMove.clock : t.clock = s.clock := h.field State.clock fun _ => rfl
theorem SharesMove.peers : t.peers = s.peers := h.field State.peers fun _ => rfl
theorem SharesMove.session : t.session = s.session := h.field State.session fun _ => rfl
theorem SharesMove.revoked : t.revoked = s.revoked := h.field State.revoked fun _ => rfl
theorem SharesMove.socketView : t.socketView = s.socketView := h.field State.socketView fun _ => rfl
theorem SharesMove.batches : t.batches = s.batches := h.field State.batches fun _ => rfl
theorem SharesMove.startQueue : t.startQueue = s.startQueue := h.field State.startQueue fun _ => rfl
theorem SharesMove.injectors : t.injectors = s.injectors := h.field State.injectors fun _ => rfl
theorem SharesMove.monitor : t.monitor = s.monitor := h.field State.monitor fun _ => rfl
theorem SharesMove.notes : t.notes = s.notes := h.field State.notes fun _ => rfl
theorem SharesMove.retention : t.retention = s.retention := h.field State.retention fun _ => rfl
theorem SharesMove.panel : t.panel = s.panel := h.field State.panel fun _ => rfl
theorem SharesMove.freeDraws : t.freeDraws = s.freeDraws := h.field State.freeDraws fun _ => rfl
theorem SharesMove.pending : t.pending = s.pending := h.field State.pending fun _ => rfl

theorem SharesMove.mayClaim : t.mayClaim = s.mayClaim := h.field State.mayClaim fun _ => rfl

/-- A field of an arm that a share move leaves. -/
theorem SharesMove.armField {β : Type} (g : Arm → β) (hg : ∀ m : Arm, g m.sansShares = g m) (a : ArmId) :
    g (t.arm a) = g (s.arm a) := by
  rw [← hg (t.arm a), h.arm a, hg]

/-- A field of a header that a share move leaves. -/
theorem SharesMove.headerField {β : Type} (g : Header → β) (hg : ∀ x : Header, g x.sansShares = g x) (k : HeaderId) :
    g (t.header k) = g (s.header k) := by
  rw [← hg (t.header k), h.header k, hg]

theorem SharesMove.stage (a : ArmId) : (t.arm a).stage = (s.arm a).stage :=
  h.armField Arm.stage (fun _ => rfl) a
theorem SharesMove.heldShare (a : ArmId) : (t.arm a).heldShare = (s.arm a).heldShare :=
  h.armField Arm.heldShare (fun _ => rfl) a
theorem SharesMove.close (a : ArmId) : (t.arm a).close = (s.arm a).close :=
  h.armField Arm.close (fun _ => rfl) a
theorem SharesMove.live (a : ArmId) : (t.arm a).live = (s.arm a).live :=
  h.armField Arm.live (fun _ => rfl) a
theorem SharesMove.owner (a : ArmId) : (t.arm a).owner = (s.arm a).owner :=
  h.armField Arm.owner (fun _ => rfl) a
theorem SharesMove.ownShare (k : HeaderId) : (t.header k).ownShare = (s.header k).ownShare :=
  h.headerField Header.ownShare (fun _ => rfl) k
theorem SharesMove.yieldTimer (k : HeaderId) : (t.header k).yieldTimer = (s.header k).yieldTimer :=
  h.headerField Header.yieldTimer (fun _ => rfl) k
end

theorem SharesMove.refl (s : State) : SharesMove s s :=
  ⟨rfl, .refl _, fun _ h => .inl h, fun _ => .inl rfl⟩

theorem SharesMove.trans {s t u : State} (h : SharesMove s t) (k : SharesMove t u) : SharesMove s u where
  rest := k.rest.trans h.rest
  sends := h.sends.trans k.sends
  slots x hx := by
    rcases k.slots x hx with hx | hx
    · exact h.slots x hx
    · exact .inr (h.mayClaim ▸ hx)
  reserves a := by
    rcases k.reserves a with e | e | e
    · rw [e]; exact h.reserves a
    · exact .inr (.inl e)
    · exact .inr (.inr (h.mayClaim ▸ e))

theorem SharesMove.foldl {α : Type} (f : State → α → State) (hf : ∀ s x, SharesMove s (f s x)) (l : List α)
    (s : State) : SharesMove s (l.foldl f s) := by
  induction l generalizing s with
  | nil => exact .refl s
  | cons x l ih => exact (hf s x).trans (ih _)

theorem SharesMove.eachArm (f : ArmId → State → State) (hf : ∀ a s, SharesMove s (f a s)) (s : State) :
    SharesMove s (s.eachArm f) :=
  (((hf 0 _).trans (hf 1 _)).trans (hf 2 _)).trans (hf 3 _)

/-! ## Primitive changes -/

/-- A change of an arm's step-up state, and of its reservation to none. -/
theorem SharesMove.modArm (a : ArmId) {f : Arm → Arm} (s : State)
    (hf : ∀ m, (f m).sansShares = m.sansShares := by intro _; rfl)
    (hr : ∀ m, (f m).reserved = m.reserved ∨ (f m).reserved = none := by
      intro _; first | exact .inl rfl | exact .inr rfl) : SharesMove s (s.modArm a f) where
  rest := by
    unfold State.sansShares
    congr 1
    exact vec4_congr fun b => State.arm_view Arm.sansShares a f hf s b
  sends := .refl _
  slots _ h := .inl h
  reserves b := by
    rw [State.arm_modArm]
    split
    · rcases hr (s.arm b) with e | e
      · exact .inl e
      · exact .inr (.inl e)
    · exact .inl rfl

/-- A change of an arm's reservation while claims may be taken. -/
theorem SharesMove.reserve (a : ArmId) (c : Option CompId) (s : State) (hm : s.mayClaim = true) :
    SharesMove s (s.modArm a fun m => { m with reserved := c }) where
  rest := by
    unfold State.sansShares
    congr 1
    exact vec4_congr fun b => State.arm_view Arm.sansShares a (fun m => { m with reserved := c }) (fun _ => rfl) s b
  sends := .refl _
  slots _ h := .inl h
  reserves _ := .inr (.inr hm)

/-- A change of a header's timers and flag, and of its slot where the slot is held or claims may be taken. -/
theorem SharesMove.modHeader (k : HeaderId) {f : Header → Header} (s : State)
    (hs : (f (s.header k)).slot ≠ none → (s.header k).slot ≠ none ∨ s.mayClaim = true := by
      exact .inl)
    (hf : ∀ x, (f x).sansShares = x.sansShares := by intro _; rfl) : SharesMove s (s.modHeader k f) where
  rest := by
    unfold State.sansShares
    congr 1
    exact vec8_congr fun b => State.header_view Header.sansShares k f hf s b
  sends := .refl _
  slots b h := by
    rw [State.header_modHeader] at h
    split at h
    · subst b; exact hs h
    · exact .inl h
  reserves _ := .inl rfl

/-- A change of the link controller and the period timer by hand-overs. -/
theorem SharesMove.send (s : State) (l : Link) (p : Timer) (h : Link.Sends s.link l) :
    SharesMove s { s with link := l, periodTimer := p } :=
  ⟨rfl, h, fun _ h => .inl h, fun _ => .inl rfl⟩

/-! ## Hand-overs -/

theorem State.composeState_moves (s : State) : SharesMove s s.composeState := by
  unfold State.composeState
  split
  · exact .refl s
  · refine .send s _ _ ?_
    refine .trans ?_ (.announced _ _)
    refine .trans ?_ (.numbered _)
    split
    · exact .refl _
    · split
      · exact .stateHead _ _ rfl
      · exact .stateTail _ _ rfl

/-- A hand-over of a frame for the tail that is no STOP and no STATE. -/
theorem State.handTail_moves (tag : FrameTag) (payload : List Byte) (ht : tag ≠ .stop ∧ tag ≠ .state) (s : State) :
    SharesMove s (s.handTail tag payload).1 := by
  have hn : Link.Sends s.link s.link.numbered := .numbered _
  unfold State.handTail
  split
  · exact .send s _ s.periodTimer hn
  · split
    · exact .send s _ s.periodTimer hn
    · refine .send s _ s.periodTimer (.trans (.tail _ (s.frameNow tag payload) ?_ ?_) (.numbered _))
      · simp [TxFrame.isStop, State.frameNow, ht.1]
      · simp [TxFrame.isState, State.frameNow, ht.2]

/-! ## Taking a slot and withdrawing -/

theorem State.withdrawClaim_moves (h : HeaderId) (a : ArmId) (kind : ClaimKind) (announce : Bool) (s : State) :
    SharesMove s (s.withdrawClaim h a kind announce) := by
  unfold State.withdrawClaim
  have h1 : SharesMove s (if announce then s.composeState else s) := by
    split
    · exact s.composeState_moves
    · exact .refl s
  have h2 : ∀ (t : State) (r : Timer), SharesMove t (t.modHeader h fun x => { x with retryTimer := r, slot := none }) :=
    fun t r => .modHeader h t fun e => absurd rfl e
  cases kind with
  | low => exact ((h1.trans (.modArm a _)).trans (.modHeader h _)).trans (h2 _ _)
  | stepUp => exact (h1.trans (.modArm a _)).trans (h2 _ _)

/-- The step-up state of an arm whose STEP-UP takes the slot. -/
theorem claiming_moves (a : ArmId) (kind : ClaimKind) (t : State) : SharesMove t
    (match kind with
      | .low => t
      | .stepUp => t.modArm a fun m => { m with stepUp := .inClaim }) := by
  cases kind
  · exact .refl t
  · exact .modArm a t

theorem State.takeSlot_moves (a : ArmId) (kind : ClaimKind) (s : State) (hm : s.mayClaim = true) :
    SharesMove s (s.takeSlot a kind) := by
  have hend : ∀ (t : State) (h : HeaderId) (payload : List Byte), SharesMove s t →
      SharesMove s (match (t.handTail (.claim h) payload).2 with
        | .full => (t.handTail (.claim h) payload).1.withdrawClaim h a kind true
        | _ => (t.handTail (.claim h) payload).1) := by
    intro t h payload ht
    have hh := ht.trans (t.handTail_moves (.claim h) payload ⟨nofun, nofun⟩)
    split
    · exact hh.trans (State.withdrawClaim_moves _ _ _ _ _)
    · exact hh
  unfold State.takeSlot
  dsimp only
  by_cases hc : (s.headerCfg (s.armCfg a).header).capacity <
      (s.header (s.armCfg a).header).ownShare + claimIncrease (s.armCfg a) kind
  · rw [if_pos hc]
    exact s.withdrawClaim_moves _ a kind false
  · rw [if_neg hc]
    exact hend _ _ _ ((SharesMove.modHeader _ s (fun _ => .inr hm)).trans (claiming_moves a kind _))

/-! ## Passing on and scanning -/

theorem State.offerSlot_moves (h : HeaderId) (s : State) (a : ArmId) (hm : s.mayClaim = true) :
    SharesMove s (s.offerSlot h a) := by
  unfold State.offerSlot
  split
  · exact s.takeSlot_moves a .stepUp hm
  · exact .refl s

/-- A fold of moves that are made only while claims may be taken. -/
theorem SharesMove.foldlMay {α : Type} (f : State → α → State)
    (hf : ∀ s x, s.mayClaim = true → SharesMove s (f s x)) (l : List α) (s : State) (hm : s.mayClaim = true) :
    SharesMove s (l.foldl f s) := by
  induction l generalizing s with
  | nil => exact .refl s
  | cons x l ih => exact (hf s x hm).trans (ih _ ((hf s x hm).mayClaim.trans hm))

theorem State.passArms_moves (h : HeaderId) (s : State) (hm : s.mayClaim = true) : SharesMove s (s.passArms h) :=
  .foldlMay _ (fun t a ht => t.offerSlot_moves h a ht) _ s hm

theorem State.scanOne_moves (s : State) (c : CompId) (hm : s.mayClaim = true) : SharesMove s (s.scanOne c) := by
  unfold State.scanOne
  split
  · exact .refl s
  · split
    · split
      · rename_i a _
        have h1 := SharesMove.reserve a (some c) s hm
        have h2 := State.takeSlot_moves a .low _ (h1.mayClaim.trans hm)
        exact (h1.trans h2).trans (State.passArms_moves _ _ ((h1.trans h2).mayClaim.trans hm))
      · exact .refl s
    · exact .refl s

theorem State.scan_moves (s : State) : SharesMove s s.scan := by
  unfold State.scan
  split
  · exact .foldlMay _ (fun t c ht => t.scanOne_moves c ht) _ s ‹_›
  · exact .refl s

theorem State.passOn_moves (h : HeaderId) (s : State) : SharesMove s (s.passOn h) := by
  unfold State.passOn
  split
  · rename_i hm
    have h1 := s.passArms_moves h hm
    dsimp only
    split
    · exact h1.trans (State.scan_moves _)
    · exact h1
  · exact .refl s

theorem State.requestStepUp_moves (a : ArmId) (s : State) : SharesMove s (s.requestStepUp a) := by
  unfold State.requestStepUp
  split
  · rename_i hm
    dsimp only
    split
    · split
      · exact (s.takeSlot_moves a .stepUp hm.1).trans (State.passOn_moves _ _)
      · exact s.takeSlot_moves a .stepUp hm.1
    · exact .modArm a s
  · exact .refl s

/-! ## Retry triggers -/

theorem State.wakeArm_moves (h : HeaderId) (a : ArmId) (s : State) : SharesMove s (s.wakeArm h a) := by
  unfold State.wakeArm
  split
  · exact .modArm a s
  · exact .refl s

theorem State.retryTrigger_moves (h : HeaderId) (s : State) : SharesMove s (s.retryTrigger h) := by
  unfold State.retryTrigger
  have h1 : SharesMove s (s.modHeader h fun x => { x with retryTimer := none }) :=
    .modHeader h s
  have h2 := h1.trans (SharesMove.eachArm (State.wakeArm h) (State.wakeArm_moves h) _)
  have h3 : ∀ t : State, SharesMove s t → SharesMove s (if (t.header h).slot = none then t.passOn h else t) := by
    intro t ht
    split
    · exact ht.trans (State.passOn_moves h _)
    · exact ht
  have h4 : ∀ t : State, SharesMove t (t.modHeader h fun x => { x with retryWait := false }) := fun t =>
    .modHeader h t
  exact ((h3 _ h2).trans (h4 _)).trans (State.scan_moves _)

theorem State.announceFall_moves (h : HeaderId) (s : State) : SharesMove s (s.announceFall h) :=
  s.composeState_moves.trans (State.retryTrigger_moves h _)

/-! ## Abandonment and release -/

theorem State.dropClaim_moves (h : HeaderId) (announce : Bool) (s : State) : SharesMove s (s.dropClaim h announce) := by
  unfold State.dropClaim
  split
  · exact .refl s
  · rename_i c _
    have h1 : SharesMove s (s.modHeader h fun x => { x with slot := none }) :=
      .modHeader h s fun e => absurd rfl e
    have h2 : SharesMove s
        (match c.kind with
          | .low => (s.modHeader h fun x => { x with slot := none }).modArm c.arm fun m => { m with reserved := none }
          | .stepUp => (s.modHeader h fun x => { x with slot := none }).modArm c.arm fun m => { m with stepUp := .none }) := by
      split
      · exact h1.trans (.modArm _ _)
      · exact h1.trans (.modArm _ _)
    dsimp only
    split
    · exact h2.trans (State.composeState_moves _)
    · exact h2

theorem State.abandon_moves (h : HeaderId) (s : State) : SharesMove s (s.abandon h) := by
  unfold State.abandon
  split
  · exact .refl s
  · exact (s.dropClaim_moves h true).trans (State.passOn_moves h _)

theorem State.abandonStepUp_moves (a : ArmId) (s : State) : SharesMove s (s.abandonStepUp a) := by
  unfold State.abandonStepUp
  split
  · split
    · exact s.abandon_moves _
    · exact .refl s
  · exact .refl s

theorem State.abandonLow_moves (s : State) (h : HeaderId) : SharesMove s (s.abandonLow h) := by
  unfold State.abandonLow
  split
  · split
    · exact s.abandon_moves _
    · exact .refl s
  · exact .refl s

theorem State.releaseReservation_moves (a : ArmId) (s : State) : SharesMove s (s.releaseReservation a) := by
  have hfree : SharesMove s (s.modArm a fun m => { m with reserved := none }) :=
    .modArm a s
  unfold State.releaseReservation
  split
  · exact .refl s
  · refine .trans ?_ (State.scan_moves _)
    split
    · split
      · exact s.abandon_moves _
      · exact hfree
    · exact hfree

theorem State.recheckReservation_moves (a : ArmId) (s : State) : SharesMove s (s.recheckReservation a) := by
  unfold State.recheckReservation
  split
  · exact .refl s
  · split
    · exact .refl s
    · split
      · exact .refl s
      · exact s.releaseReservation_moves a

end Sys2Proof.Machine
end

