-- ==== Sys2Proof/Laws/Moves.lean ====
section
/-! SUPPORT. What an operation may touch. `Prim l` is a single change of kind `l`; `Moves L` is a run of changes of the
kinds in `L`. Each operation of Machine/ has one lemma that says its kinds; an invariant or a frame follows by going
through the kinds once (`Moves.keeps`). -/

namespace Sys2Proof.Machine

-- One proof at a time: a waiting proof holds a thread and its stack.
set_option Elab.async false

/-- The kinds of change. -/
inductive Touch where
  | shares | arm | totals | learned | coupled | stage | opening | header | batch | injector | session | check | monitor
  | alarm | stops | link | clash | writes | memory | notes | peers | clock | newDay | revoke | socket | panel | listened
  | other
  deriving DecidableEq

/-- What of an arm most changes leave: stage, held share, totalizers, close-ahead value and coupled input. -/
def Arm.core (m : Arm) : Stage × Nat × BitVec 48 × BitVec 48 × Nat × Bool :=
  (m.stage, m.heldShare, m.grossTotal, m.stdTotal, m.closeAhead, m.coupled)

/-- A session change other than admission: CHECKING and ADMITTED are neither entered from outside nor given another
permit. -/
def Session.Keeps (x y : Session) : Prop :=
  y.state = .checking ∨ y.state = .admitted →
    (x.state = .checking ∨ x.state = .admitted) ∧ y.permit = x.permit

/-- The stop set raised or ended, as the monitor follows it. -/
def State.stopsChanged (v : Vector Peer 32) (b : Bool) (l : Link) (p : Timer) (s : State) : State :=
  ({ s with peers := v, ownStop := b, link := l, periodTimer := p } : State).followStopSet

/-- One change of a kind. -/
inductive Prim : Touch → State → State → Prop where
  /-- a move of the share negotiator or the dispatcher -/
  | shares {s t : State} : SharesMove s t → Prim .shares s t
  /-- an arm's fields other than its core; its reservation may be given up -/
  | arm (a : ArmId) (f : Arm → Arm) (s : State) : (∀ m, (f m).core = m.core) → Prim .arm s (s.modArm a f)
  /-- a slice's increments -/
  | totals (a : ArmId) (f : Arm → Arm) (s : State) :
      (∀ m, (f m).stage = m.stage ∧ (f m).heldShare = m.heldShare ∧ (f m).closeAhead = m.closeAhead ∧
        (f m).coupled = m.coupled) → Prim .totals s (s.modArm a f)
  /-- the learned close-ahead value (R137) -/
  | learned (a : ArmId) (g : Nat → Nat) (s : State) :
      Prim .learned s (s.modArm a fun m => { m with closeAhead := g m.closeAhead })
  /-- the coupled input -/
  | coupled (a : ArmId) (b : Bool) (s : State) : Prim .coupled s (s.modArm a fun m => { m with coupled := b })
  /-- a stage left that flows, or a stage entered that does not -/
  | stage (a : ArmId) (st : Stage) (s : State) : (s.arm a).stage.flowing = true ∨ st.flowing = false →
      Prim .stage s (s.moveStage a st)
  /-- an arm shut: CLOSED, its close fields cleared -/
  | shut (a : ArmId) (s : State) : Prim .stage s
      ((s.moveStage a .closed).modArm a fun m => { m with close := none, leak := false, heldShare := 0 })
  /-- a stage entered by a commit -/
  | opening (a : ArmId) (st : Stage) (s : State) : (∃ h, (s.header h).slot ≠ none) → Prim .opening s (s.moveStage a st)
  /-- a header's fields other than its own steady share, its slot kept or freed -/
  | header (h : HeaderId) (f : Header → Header) (s : State) :
      (∀ x, (f x).ownShare = x.ownShare ∧ ((f x).slot = none ∨ x.slot ≠ none)) → Prim .header s (s.modHeader h f)
  | batch (v : Vector (Option Batch) 8) (q : List CompId) (s : State) :
      Prim .batch s { s with batches := v, startQueue := q }
  | injector (v : Vector Injector 4) (s : State) : Prim .injector s { s with injectors := v }
  /-- the session, no check begun -/
  | session (x : Session) (s : State) : s.session.Keeps x → Prim .session s { s with session := x }
  /-- entry to CHECKING after the admission checks of R37 -/
  | check (x : Session) (card : List Byte) (p : Permit) (t : Tag) (s : State) : s.admission card = .ok (p, t) →
      x.state = .checking → x.permit = some p → Prim .check s { s with session := x }
  /-- the monitor, no permissive withdrawn that was held (unless stage 5 waits), the stop set's record kept -/
  | monitor (m : Monitor) (s : State) : (m.withdrawn = true → s.monitor.withdrawn = true ∨ s.stage5Waits = true) →
      m.terminal = s.monitor.terminal → Prim .monitor s { s with monitor := m }
  /-- a withdrawal, with its demands (R158) -/
  | alarm (m : Monitor) (r : Reason) (s : State) : m.withdrawn = true → m.terminal = s.monitor.terminal →
      Prim .alarm s (({ s with monitor := m } : State).withdraw r)
  /-- a change of the stop set, the RESTART line not asserted -/
  | stops (v : Vector Peer 32) (b : Bool) (l : Link) (p : Timer) (s : State) : Link.Sends s.link l →
      s.restart = false → Prim .stops s (s.stopsChanged v b l p)
  /-- the link controller, its queue kept sound -/
  | link (l : Link) (s : State) : (s.link.Sound → l.Sound) → Prim .link s { s with link := l }
  /-- the station state CLASH, the queue purged -/
  | clash (s : State) : s.linkOpen = true → Prim .clash s { s with station := .clash, link := s.link.purge }
  /-- the write queue, its held block and its timer -/
  | writes (r : Retention) (s : State) : r.mem = s.retention.mem → (s.retention.Sound → r.Sound) →
      Prim .writes s { s with retention := r }
  /-- the end of a write -/
  | memory (r : Retention) (s : State) : (Memory.wf s.retention.mem = true → Memory.wf r.mem = true) →
      (s.retention.Sound → r.Sound) → Prim .memory s { s with retention := r }
  | notes (n : Notes) (s : State) : Prim .notes s { s with notes := n }
  /-- peer entries, their stop flags kept -/
  | peers (v : Vector Peer 32) (s : State) : (∀ p : StationId, v[p].stop = s.peers[p].stop) →
      Prim .peers s { s with peers := v }
  /-- the clock within its day -/
  | clock (c : Clock) (s : State) : (s.clock.dateKnown = true → c.dateKnown = true ∧ c.day = s.clock.day) →
      Prim .clock s { s with clock := c }
  /-- a day change (R45) -/
  | newDay (c : Clock) (s : State) : c.dateKnown = true → Prim .newDay s (({ s with clock := c } : State).dayChange)
  /-- a REVOKE (R43, R47) -/
  | revoke (permit endDay : Nat) (s : State) : Prim .revoke s (s.deliverRevoke permit endDay)
  | socket (v : Option Tag) (s : State) : Prim .socket s { s with socketView := v }
  | panel (x : Panel) (s : State) : Prim .panel s { s with panel := x }
  /-- the end of a listen period that runs -/
  | listened (x : StationState) (s : State) : s.listenTimer ≠ none →
      x ≠ .configFault ∨ s.station = .configFault →
      Prim .listened s { s with listenTimer := none, station := x }
  /-- the STATE period timer and the count of free values -/
  | other (p : Timer) (d : Nat) (s : State) : Prim .other s { s with periodTimer := p, freeDraws := d }

/-- A run of changes of the kinds in `L`. -/
inductive Moves (L : List Touch) : State → State → Prop where
  | refl (s : State) : Moves L s s
  | step {s t u : State} (l : Touch) : Moves L s t → l ∈ L → Prim l t u → Moves L s u

variable {L L' : List Touch} {s t u : State}

theorem Moves.one (l : Touch) (p : Prim l s t) (h : l ∈ L := by decide) : Moves L s t := .step l (.refl s) h p

theorem Moves.trans (h : Moves L s t) (k : Moves L t u) : Moves L s u := by
  induction k with
  | refl => exact h
  | step l _ hl p ih => exact .step l ih hl p

theorem Moves.mono (h : Moves L s t) (hl : L ⊆ L' := by decide) : Moves L' s t := by
  induction h with
  | refl => exact .refl s
  | step l _ hm p ih => exact .step l ih (hl hm) p

/-- Going through the kinds once: what every kind in `L` keeps, a run of them keeps. -/
theorem Moves.keeps {P : State → Prop} (h : Moves L s t) (hp : ∀ l ∈ L, ∀ s t, Prim l s t → P s → P t) :
    P s → P t := by
  intro h0
  induction h with
  | refl => exact h0
  | step l _ hl p ih => exact hp l hl _ _ p ih

theorem Moves.ite {c : Prop} [Decidable c] (h : c → Moves L s t) (k : ¬c → Moves L s u) :
    Moves L s (if c then t else u) := by
  split
  · exact h ‹_›
  · exact k ‹_›

/-- A conditional change. -/
theorem Moves.when {c : Prop} [Decidable c] (h : c → Moves L s t) : Moves L s (if c then t else s) :=
  .ite h fun _ => .refl s

/-- A conditional change, the other way round. -/
theorem Moves.unless {c : Prop} [Decidable c] (h : ¬c → Moves L s t) : Moves L s (if c then s else t) :=
  .ite (fun _ => .refl s) h

theorem Moves.foldl {α : Type} (f : State → α → State) (hf : ∀ s x, Moves L s (f s x)) (l : List α) (s : State) :
    Moves L s (l.foldl f s) := by
  induction l generalizing s with
  | nil => exact .refl s
  | cons x l ih => exact (hf s x).trans (ih _)

theorem Moves.eachArm (f : ArmId → State → State) (hf : ∀ a s, Moves L s (f a s)) (s : State) :
    Moves L s (s.eachArm f) :=
  (((hf 0 _).trans (hf 1 _)).trans (hf 2 _)).trans (hf 3 _)

theorem Moves.eachInjector (f : InjectorId → State → State) (hf : ∀ i s, Moves L s (f i s)) (s : State) :
    Moves L s (s.eachInjector f) :=
  (((hf 0 _).trans (hf 1 _)).trans (hf 2 _)).trans (hf 3 _)

/-! ## Single changes, as operations write them -/

theorem Moves.shares (h : SharesMove s t) (hl : Touch.shares ∈ L := by decide) : Moves L s t := .one _ (.shares h) hl

theorem Moves.modArm (a : ArmId) {f : Arm → Arm} (s : State) (hf : ∀ m, (f m).core = m.core := by intro _; rfl)
    (hl : Touch.arm ∈ L := by decide) : Moves L s (s.modArm a f) := .one _ (.arm a f s hf) hl

theorem Moves.moveStage (a : ArmId) (st : Stage) (s : State)
    (h : (s.arm a).stage.flowing = true ∨ st.flowing = false := by exact .inr rfl)
    (hl : Touch.stage ∈ L := by decide) : Moves L s (s.moveStage a st) := .one _ (.stage a st s h) hl

theorem Moves.modHeader (h : HeaderId) {f : Header → Header} (s : State)
    (hf : ∀ x, (f x).ownShare = x.ownShare ∧ ((f x).slot = none ∨ x.slot ≠ none))
    (hl : Touch.header ∈ L := by decide) : Moves L s (s.modHeader h f) := .one _ (.header h f s hf) hl

theorem Moves.setBatch (c : CompId) (b : Option Batch) (s : State) (hl : Touch.batch ∈ L := by decide) :
    Moves L s (s.setBatch c b) := .one _ (.batch _ s.startQueue s) hl

theorem Moves.modBatch (c : CompId) (f : Batch → Batch) (s : State) (hl : Touch.batch ∈ L := by decide) :
    Moves L s (s.modBatch c f) := .setBatch c _ s hl

theorem Moves.modInjector (i : InjectorId) (f : Injector → Injector) (s : State)
    (hl : Touch.injector ∈ L := by decide) : Moves L s (s.modInjector i f) := .one _ (.injector _ s) hl

/-- A session change that leaves the state and the permit. -/
theorem Moves.modSession {f : Session → Session} (s : State)
    (hf : ∀ x, (f x).state = x.state ∧ (f x).permit = x.permit := by intro _; exact ⟨rfl, rfl⟩)
    (hl : Touch.session ∈ L := by decide) : Moves L s (s.modSession f) :=
  .one _ (.session _ s fun h => ⟨(hf s.session).1 ▸ h, (hf s.session).2⟩) hl

/-- A session change that leaves CHECKING and ADMITTED. -/
theorem Moves.endSession {f : Session → Session} (s : State)
    (hf : (f s.session).state = .none ∨ (f s.session).state = .ending) (hl : Touch.session ∈ L := by decide) :
    Moves L s (s.modSession f) :=
  .one _ (.session _ s fun h => by rcases hf with e | e <;> rw [e] at h <;> simp at h) hl

theorem Moves.modMonitor {f : Monitor → Monitor} (s : State)
    (hf : (f s.monitor).withdrawn = true → s.monitor.withdrawn = true)
    (ht : (f s.monitor).terminal = s.monitor.terminal := by rfl) (hl : Touch.monitor ∈ L := by decide) :
    Moves L s (s.modMonitor f) := .one _ (.monitor _ s (fun h => .inl (hf h)) ht) hl

theorem Moves.modNotes (f : Notes → Notes) (s : State) (hl : Touch.notes ∈ L := by decide) :
    Moves L s (s.modNotes f) := .one _ (.notes _ s) hl

theorem Moves.modLink {f : Link → Link} (s : State) (hf : s.link.Sound → (f s.link).Sound)
    (hl : Touch.link ∈ L := by decide) : Moves L s (s.modLink f) := .one _ (.link _ s hf) hl

/-! ## Shares' operations -/

theorem State.composeState_touch (s : State) : Moves [.shares] s s.composeState := .shares s.composeState_moves
theorem State.scan_touch (s : State) : Moves [.shares] s s.scan := .shares s.scan_moves
theorem State.passOn_touch (h : HeaderId) (s : State) : Moves [.shares] s (s.passOn h) := .shares (s.passOn_moves h)
theorem State.abandon_touch (h : HeaderId) (s : State) : Moves [.shares] s (s.abandon h) := .shares (s.abandon_moves h)
theorem State.retryTrigger_touch (h : HeaderId) (s : State) : Moves [.shares] s (s.retryTrigger h) :=
  .shares (s.retryTrigger_moves h)
theorem State.announceFall_touch (h : HeaderId) (s : State) : Moves [.shares] s (s.announceFall h) :=
  .shares (s.announceFall_moves h)
theorem State.recheckReservation_touch (a : ArmId) (s : State) : Moves [.shares] s (s.recheckReservation a) :=
  .shares (s.recheckReservation_moves a)
theorem State.abandonStepUp_touch (a : ArmId) (s : State) : Moves [.shares] s (s.abandonStepUp a) :=
  .shares (s.abandonStepUp_moves a)
theorem State.requestStepUp_touch (a : ArmId) (s : State) : Moves [.shares] s (s.requestStepUp a) :=
  .shares (s.requestStepUp_moves a)
theorem State.dropClaim_touch (h : HeaderId) (b : Bool) (s : State) : Moves [.shares] s (s.dropClaim h b) :=
  .shares (s.dropClaim_moves h b)
theorem State.withdrawClaim_touch (h : HeaderId) (a : ArmId) (k : ClaimKind) (b : Bool) (s : State) :
    Moves [.shares] s (s.withdrawClaim h a k b) := .shares (s.withdrawClaim_moves h a k b)

end Sys2Proof.Machine
end

