-- ==== Sys2Proof/Laws/FlowMoves.lean ====
section
/-! SUPPORT. What the flow side's operations may touch: closes and withdrawals (Stages), the deadman and idle timer
(Deadman), slices (Volume, Slice), commits (Commit). -/

namespace Sys2Proof.Machine

-- One proof at a time: a waiting proof holds a thread and its stack.
set_option Elab.async false

variable {L : List Touch}

/-! ## Flags -/

theorem State.flagLine_touch (c : CompId) (f : LineFlags → LineFlags) (s : State) : Moves [.batch] s (s.flagLine c f) :=
  .modBatch c _ s

theorem State.flagOwner_touch (a : ArmId) (f : LineFlags → LineFlags) (s : State) :
    Moves [.batch] s (s.flagOwner a f) := by
  unfold State.flagOwner; split
  · exact State.flagLine_touch _ f s
  · exact .refl s

/-! ## Shots and closes -/

theorem State.endShot_touch (cut : Bool) (i : InjectorId) (s : State) : Moves [.injector] s (s.endShot cut i) := by
  unfold State.endShot; exact .when fun _ => .modInjector i _ s

theorem State.cutArmShots_touch (a : ArmId) (s : State) : Moves [.injector] s (s.cutArmShots a) :=
  .eachInjector _ (fun i s => .when fun _ => s.endShot_touch true i) s

theorem State.cutAllShots_touch (s : State) : Moves [.injector] s s.cutAllShots :=
  .eachInjector _ (fun i s => s.endShot_touch true i) s

theorem State.enterSettle_touch (a : ArmId) (s : State) : Moves [.arm] s (s.enterSettle a) := .modArm a s

/-- The kinds of change of a close demand. -/
abbrev closeTouch : List Touch := [.stage, .arm, .injector, .shares]

theorem State.beginClose_touch (a : ArmId) (k : CloseKind) (r : Reason) (m : Manner) (s : State) :
    Moves closeTouch s (s.beginClose a k r m) := by
  have h1 : Moves closeTouch s (s.moveStage a .closing) := .moveStage a _ s
  have h2 : ∀ (x : Option Close) (p q w : Timer), Moves closeTouch s ((s.moveStage a .closing).modArm a fun m =>
      { m.quiet with close := x, leak := false, stepDown := p, settle := q, closeLimit := w }) :=
    fun x p q w => h1.trans (.modArm a _)
  have h3 : ∀ u : State, Moves closeTouch s u → Moves closeTouch s (if m = .fast then u.cutArmShots a else u) :=
    fun u h => .ite (fun _ => h.trans (u.cutArmShots_touch a).mono) fun _ => h
  unfold State.beginClose
  exact (h3 _ (h2 _ _ _ _)).trans (State.abandonStepUp_touch a _).mono

theorem State.closeDemand_touch (a : ArmId) (k : CloseKind) (r : Reason) (m : Manner) (s : State) :
    Moves closeTouch s (s.closeDemand a k r m) := by
  unfold State.closeDemand
  refine .unless fun _ => ?_
  split
  · exact .refl s
  · exact .when fun _ => (s.enterSettle_touch a).mono
  · exact s.beginClose_touch a k r m

theorem State.withdraw_touch (r : Reason) (s : State) : Moves closeTouch s (s.withdraw r) :=
  ((Moves.eachArm _ (fun a s => s.closeDemand_touch a .stop r .fast) s).trans
    (State.cutAllShots_touch _).mono).trans
    (.foldl _ (fun s h => (s.abandon_touch h).mono) _ _)

theorem State.restoreIf_touch (was : Bool) (s : State) : Moves [.shares] s (s.restoreIf was) := by
  unfold State.restoreIf; exact .when fun _ => s.scan_touch

/-! ## Idle timer and deadman -/

theorem State.stopIdle_touch (s : State) : Moves [.session] s s.stopIdle := .modSession s

theorem State.startIdle_touch (s : State) : Moves [.session] s s.startIdle := by
  unfold State.startIdle; exact .when fun _ => .modSession s

theorem State.restartIdle_touch (s : State) : Moves [.session] s s.restartIdle := by
  unfold State.restartIdle; exact .unless fun _ => .modSession s

/-- A deadman neither EXPIRED nor JAMMED withdraws nothing. -/
theorem Monitor.withdrawn_of_rested (m : Monitor) (d : Deadman) (hd : d ≠ .expired) (hj : d ≠ .jammed)
    (x : Timer) (c : Vector Bool 2) (j : Timer) (h : Bool)
    (hw : ({ m with deadman := d, deadmanTimer := x, counted := c, jam := j, horn := h } : Monitor).withdrawn = true) :
    m.withdrawn = true := by
  revert hw
  simp only [Monitor.withdrawn, Monitor.groundOut, Monitor.overfillOut, Monitor.stopInForce, Monitor.deadmanOut]
  have h1 : (d == Deadman.expired) = false := by simpa using hd
  have h2 : (d == Deadman.jammed) = false := by simpa using hj
  rw [h1, h2]
  cases m.ground
  · simp
  · simp; tauto

theorem State.runDeadman_touch (s : State) : Moves [.monitor] s s.runDeadman :=
  .modMonitor s (fun h => s.monitor.withdrawn_of_rested _ (by decide) (by decide) _ _ s.monitor.jam _ h)

/-- A change of the jam timer alone. -/
theorem State.setJam_touch (f : Monitor → Timer) (s : State) :
    Moves [.monitor] s (s.modMonitor fun m => { m with jam := f m }) :=
  .modMonitor s fun h => h

theorem State.startDeadman_touch (s : State) : Moves [.monitor] s s.startDeadman := by
  unfold State.startDeadman
  exact .when fun _ => s.runDeadman_touch.trans (State.setJam_touch _ _)

theorem State.stopDeadman_touch (s : State) : Moves [.monitor] s (s.modMonitor Monitor.stopDeadman) :=
  .modMonitor s (fun h => s.monitor.withdrawn_of_rested _ (by decide) (by decide) _ _ _ _ h)

theorem State.settleDeadman_touch (b : Bool) (s : State) : Moves [.monitor, .shares] s (s.settleDeadman b) := by
  unfold State.settleDeadman
  exact .when fun _ => s.stopDeadman_touch.mono.trans (State.restoreIf_touch _ _).mono

theorem State.afterDequeue_touch (s : State) : Moves [.monitor, .shares, .session] s s.afterDequeue := by
  unfold State.afterDequeue
  exact .when fun _ => (s.settleDeadman_touch false).mono.trans (State.startIdle_touch _).mono

theorem State.countClosure_touch (c : ContactId) (s : State) : Moves [.monitor, .shares] s (s.countClosure c) := by
  unfold State.countClosure
  exact .ite (fun _ => s.runDeadman_touch.mono.trans (State.restoreIf_touch _ _).mono) fun _ => .modMonitor s fun h => h

theorem State.tripDeadman_touch (trip : Deadman) (ht : trip = .expired ∨ trip = .jammed) (s : State) :
    Moves [.alarm, .monitor] s (s.tripDeadman trip) := by
  unfold State.tripDeadman State.withdrawIf
  have hd : ({ s.monitor with
      deadman := trip
      deadmanTimer := none
      counted := Vector.replicate 2 false
      jam := none
      horn := true } : Monitor).withdrawn = true := by
    rcases ht with e | e <;> subst e <;> simp [Monitor.withdrawn, Monitor.deadmanOut]
  refine .ite (fun _ => .one .alarm (.alarm _ _ s hd rfl)) fun h => .modMonitor s fun _ => ?_
  have h : s.monitor.deadmanOut = true := by simpa using h
  simp [Monitor.withdrawn, h]

/-! ## Slices -/

theorem State.addSlice_touch (a : ArmId) (f : SliceFigures) (s : State) :
    Moves [.totals, .other, .batch] s (s.addSlice a f) := by
  have h1 : ∀ g : Arm → Arm, (∀ m, (g m).stage = m.stage ∧ (g m).heldShare = m.heldShare ∧
      (g m).closeAhead = m.closeAhead ∧ (g m).coupled = m.coupled) →
      Moves [.totals, .other, .batch] s ({ s.modArm a g with freeDraws := s.freeDraws + 3 } : State) := fun g hg =>
    (Moves.one .totals (.totals a g s hg)).trans (.one .other (.other s.periodTimer (s.freeDraws + 3) (s.modArm a g)))
  have h2 : ∀ (u : State) (b : Bool) (g : LineFlags → LineFlags), Moves [.totals, .other, .batch] s u →
      Moves [.totals, .other, .batch] s (if b then u.flagOwner a g else u) := fun u b g h =>
    .ite (fun _ => h.trans (u.flagOwner_touch a g).mono) fun _ => h
  unfold State.addSlice
  refine h2 _ _ _ (h2 _ _ _ (h1 _ ?_))
  intro _
  exact ⟨rfl, rfl, rfl, rfl⟩

theorem State.faultEffect_touch (a : ArmId) (c : CompId) (s : State) :
    Moves (.batch :: closeTouch) s (s.faultEffect a c) := by
  unfold State.faultEffect
  refine .trans (.ite (fun _ => (s.flagLine_touch c _).mono) fun _ => .when fun _ => ?_)
    (State.recheckReservation_touch a _).mono
  exact (s.closeDemand_touch a _ _ _).mono

/-- The kinds of change of the injector channels. -/
abbrev doseTouch : List Touch := [.stage, .arm, .injector, .shares, .batch, .session]

theorem State.judgeWindow_touch (i : InjectorId) (s : State) : Moves doseTouch s (s.judgeWindow i) := by
  unfold State.judgeWindow
  split
  · exact .refl s
  · dsimp only
    refine .ite (fun _ => ?_) fun _ => .modInjector i _ s
    have h1 : ∀ f : Injector → Injector, Moves doseTouch s (s.modInjector i f) := fun f => .modInjector i f s
    exact ((h1 _).trans (.modSession _)).trans (State.faultEffect_touch _ _ _).mono

theorem State.fireShot_touch (a : ArmId) (c : CompId) (i : InjectorId) (s : State) :
    Moves [.arm, .injector] s (s.fireShot a c i) := by
  unfold State.fireShot
  exact .trans (.modArm a s) (.modInjector i _ _)

theorem State.dose_touch (a : ArmId) (dG : Nat) (b : Bool) (s : State) : Moves doseTouch s (s.dose a dG b) := by
  unfold State.dose
  split
  · exact .refl s
  · split
    · exact .refl s
    · dsimp only
      split
      · exact .modArm a s
      · refine .trans (.modArm a s) (.when fun _ => ?_)
        exact .trans (State.judgeWindow_touch _ _) (.unless fun _ => (State.fireShot_touch _ _ _ _).mono)

theorem State.meterFault_touch (a : ArmId) (s : State) : Moves closeTouch s (s.meterFault a) := by
  unfold State.meterFault
  dsimp only
  exact ((Moves.modArm a s).trans (State.recheckReservation_touch a _).mono).trans
    (.when fun _ => State.closeDemand_touch a _ _ _ _)

theorem State.dualPulse_touch (a : ArmId) (f : SliceFigures) (s : State) : Moves closeTouch s (s.dualPulse a f) := by
  unfold State.dualPulse
  dsimp only
  refine .when fun _ => .trans (.modArm a s) (.when fun _ => State.meterFault_touch a _)

/-- The kinds of change of the stage controller's tests. -/
abbrev testTouch : List Touch := [.stage, .arm, .injector, .shares, .batch]

theorem State.applyPreset_touch (a : ArmId) (b : Bool) (s : State) : Moves testTouch s (s.applyPreset a b) := by
  unfold State.applyPreset
  split
  · exact .refl s
  · split
    · exact .refl s
    · dsimp only
      exact .trans (.modBatch _ _ s) (.when fun _ => (State.closeDemand_touch a _ _ _ _).mono)

theorem State.enterSlowdown_touch (a : ArmId) (s : State) (h : (s.arm a).stage.flowing = true) :
    Moves testTouch s (s.enterSlowdown a) := by
  unfold State.enterSlowdown
  dsimp only
  refine .trans (.trans (.trans (.moveStage a .slowdown s (.inl h)) (.modArm a _))
    (State.abandonStepUp_touch a _).mono) (.when fun _ => (State.announceFall_touch _ _).mono)

theorem State.slowdownTest_touch (a : ArmId) (s : State) : Moves testTouch s (s.slowdownTest a) := by
  unfold State.slowdownTest
  split
  · exact .refl s
  · exact .refl s
  · exact .refl s
  · rename_i st r h1 h2 h3 _ 
    exact .when fun _ => s.enterSlowdown_touch a (by cases e : (s.arm a).stage <;> simp_all [Stage.flowing])
  · exact .refl s

theorem State.closeAheadTest_touch (a : ArmId) (s : State) : Moves testTouch s (s.closeAheadTest a) := by
  unfold State.closeAheadTest
  split
  · exact .when fun _ => (s.closeDemand_touch a _ _ _).mono
  · exact .refl s

theorem State.startVolumeTest_touch (a : ArmId) (s : State) : Moves testTouch s (s.startVolumeTest a) := by
  unfold State.startVolumeTest
  exact .when fun _ => (s.requestStepUp_touch a).mono

theorem State.stageTests_touch (a : ArmId) (p r : Bool) (s : State) : Moves testTouch s (s.stageTests a p r) := by
  unfold State.stageTests
  dsimp only
  refine .ite (fun _ => s.applyPreset_touch a r) fun _ => ?_
  exact (((s.applyPreset_touch a r).trans (State.slowdownTest_touch a _)).trans
    (State.closeAheadTest_touch a _)).trans (State.startVolumeTest_touch a _)

theorem State.overdrawStep_touch (a : ArmId) (s : State) (h : (s.arm a).stage.flowing = true) :
    Moves testTouch s (s.overdrawStep a) :=
  ((Moves.moveStage a .low s (.inl h)).trans (.modArm a _)).trans (State.announceFall_touch _ _).mono

theorem State.overdrawTest_touch (a : ArmId) (rate : Nat) (s : State) : Moves testTouch s (s.overdrawTest a rate) := by
  unfold State.overdrawTest
  dsimp only
  split
  · rename_i e
    exact .ite (fun _ => .ite (fun _ => .modArm a s) fun _ => s.overdrawStep_touch a (by rw [e]; rfl)) fun _ => .modArm a s
  · exact .modArm a s
  · exact .modArm a s
  · exact .refl s

theorem State.yieldStep_touch (a : ArmId) (s : State) (h : (s.arm a).stage.flowing = true) :
    Moves testTouch s (s.yieldStep a) :=
  ((Moves.moveStage a .reduced s (.inl h)).trans (.modArm a _)).trans (State.announceFall_touch _ _).mono

theorem State.decideYield_touch (a : ArmId) (s : State) : Moves testTouch s (s.decideYield a) := by
  unfold State.decideYield
  dsimp only
  refine .when fun _ => .trans (.modArm a s) (.when fun hs => State.yieldStep_touch a _ ?_)
  simp only [Bool.and_eq_true, beq_iff_eq] at hs
  simp [hs.1, Stage.flowing]

theorem Arm.startConversion_converts (now : Nat) (m : Arm) : Converts now m (m.startConversion now) where
  idle h := by simp [Arm.startConversion, due, h, Config.conversionMs]
  ended e h hd := by simp [Arm.startConversion, due, h, hd, Config.conversionMs]
  running e h hd := by simp [Arm.startConversion, due, h, Nat.not_le.mpr hd]

theorem State.startConversion_touch (a : ArmId) (s : State) : Moves [.arm] s (s.startConversion a) := .modArm a s

theorem State.reload_touch (a : ArmId) (b : Bool) (s : State) : Moves [.arm] s (s.reload a b) := .modArm a s

theorem State.noteRate_touch (a : ArmId) (n : Nat) (s : State) : Moves [.arm] s (s.noteRate a n) := .modArm a s

/-- The kinds of change of a slice. -/
abbrev sliceTouch : List Touch := [.totals, .other, .stage, .arm, .injector, .shares, .batch, .session]

theorem State.fullSlice_touch (a : ArmId) (s : State) : Moves sliceTouch s (s.fullSlice a) := by
  unfold State.fullSlice
  dsimp only
  exact .trans (.trans (.trans (.trans (.trans (.trans (.trans (.trans (s.addSlice_touch a _).mono
    (State.noteRate_touch a _ _).mono) (State.dose_touch a _ _ _).mono) (State.dualPulse_touch a _ _).mono)
    (State.stageTests_touch a _ _ _).mono) (State.overdrawTest_touch a _ _).mono) (State.decideYield_touch a _).mono)
    (State.reload_touch a _ _).mono) (State.startConversion_touch a _).mono

theorem State.closeSlice_touch (a : ArmId) (s : State) : Moves sliceTouch s (s.closeSlice a) := by
  unfold State.closeSlice
  dsimp only
  exact .trans (.trans (.trans (.trans (.trans (.trans (s.addSlice_touch a _).mono
    (State.dose_touch a _ _ _).mono) (State.dualPulse_touch a _ _).mono)
    (State.stageTests_touch a _ _ _).mono) (State.decideYield_touch a _).mono)
    (State.reload_touch a _ _).mono) (State.startConversion_touch a _).mono

theorem State.releaseSlice_touch (a : ArmId) (s : State) : Moves sliceTouch s (s.releaseSlice a) := by
  unfold State.releaseSlice
  dsimp only
  exact .trans (.trans (.trans (.trans (s.addSlice_touch a _).mono
    (State.dose_touch a _ _ _).mono) (State.dualPulse_touch a _ _).mono)
    (State.stageTests_touch a _ _ _).mono) (State.reload_touch a _ _).mono

/-! ## Commits -/

/-- The kinds of change of an arm context's hand-over. -/
abbrev contextTouch : List Touch := [.arm, .batch]

theorem State.saveOwner_touch (a : ArmId) (s : State) : Moves contextTouch s (s.saveOwner a) := by
  unfold State.saveOwner
  split
  · exact .refl s
  · exact .trans (.modBatch _ _ s) (.modArm a _)

theorem State.handContext_touch (a : ArmId) (c : CompId) (b : Batch) (s : State) :
    Moves contextTouch s (s.handContext a c b) := by
  have h1 : Moves contextTouch s (if (s.arm a).owner = some c then s else s.saveOwner a) :=
    .unless fun _ => s.saveOwner_touch a
  unfold State.handContext
  refine .unless fun _ => ?_
  refine .trans ?_ (.trans (.modArm a _) (.modBatch c _ _))
  dsimp only
  refine .ite (fun _ => h1.trans (.modArm a _)) fun _ => ?_
  split
  · exact (h1.trans (State.saveOwner_touch _ _)).trans (.modArm a _)
  · exact .ite (fun _ => h1) fun _ => h1.trans (.modArm a _)

theorem State.openChannel_touch (a : ArmId) (s : State) : Moves [.arm] s (s.openChannel a) :=
  (Moves.modArm a s).trans (State.startConversion_touch a _)

theorem State.activate_touch (a : ArmId) (s : State) : Moves contextTouch s (s.activate a) := by
  have h1 : ∀ q : List CompId, Moves contextTouch s
      (({ s with startQueue := q } : State).modArm a fun m => { m with reserved := none }) := fun q =>
    .trans (.one .batch (.batch s.batches q s)) (.modArm a _)
  have h2 : ∀ (q : List CompId) (c : CompId) (b : Batch) (f : Batch → Batch), Moves contextTouch s
      (((({ s with startQueue := q } : State).modArm a fun m => { m with reserved := none }).handContext a c b).modBatch
        c f) := fun q c b f => ((h1 q).trans (State.handContext_touch a c b _)).trans (.modBatch c f _)
  unfold State.activate
  split
  · exact .refl s
  · dsimp only
    split
    · exact h1 _
    · split
      · exact (h2 _ _ _ _).trans (.when fun _ => (State.flagLine_touch _ _ _).mono)
      · exact h2 _ _ _ _

/-- The kinds of change of a commit. -/
abbrev commitTouch : List Touch := [.opening, .arm, .batch, .session, .monitor, .shares, .header]

/-- A slot freed. -/
theorem Moves.freeSlot (h : HeaderId) (s : State) (hl : Touch.header ∈ L := by decide) :
    Moves L s (s.modHeader h fun x => { x with slot := none }) :=
  .modHeader h s (fun _ => ⟨rfl, .inl rfl⟩) hl

theorem State.commit_touch (h : HeaderId) (c : Claim) (s : State) (hs : (s.header h).slot ≠ none) :
    Moves commitTouch s (s.commit h c) := by
  have ho : ∀ st : Stage, Moves commitTouch s (s.moveStage c.arm st) := fun st =>
    .one .opening (.opening c.arm st s ⟨h, hs⟩)
  unfold State.commit
  dsimp only
  refine .trans (.trans (.trans ?_ (State.composeState_touch _).mono) (.freeSlot h _)) (State.passOn_touch h _).mono
  split
  · exact (((((ho .low).trans (State.openChannel_touch _ _).mono).trans (State.activate_touch _ _).mono).trans
      (State.stopIdle_touch _).mono).trans (State.startDeadman_touch _).mono)
  · exact (ho .full).trans (.modArm _ _)

theorem State.sendYield_touch (h : HeaderId) (n : Nat) (s : State) : Moves [.shares, .header] s (s.sendYield h n) := by
  unfold State.sendYield
  refine .when fun _ => ?_
  dsimp only
  refine .trans (Moves.shares (State.handTail_moves (.yield h) _ ⟨nofun, nofun⟩ s)) (.modHeader h _ fun x => ⟨rfl, ?_⟩)
  cases e : x.slot <;> simp

theorem State.withdrawFully_touch (h : HeaderId) (c : Claim) (n : Option Nat) (s : State) :
    Moves [.shares, .header] s (s.withdrawFully h c n) := by
  have h1 := (s.withdrawClaim_touch h c.arm c.kind true).mono (L' := [.shares, .header])
  have h2 : ∀ u : State, Moves [.shares, .header] s u → Moves [.shares, .header] s
      (match c.kind with
        | .low => (u.passOn h).scan
        | .stepUp => u.passOn h) := by
    intro u hu
    have hu := hu.trans (u.passOn_touch h).mono
    split
    · exact hu.trans (State.scan_touch _).mono
    · exact hu
  unfold State.withdrawFully
  refine h2 _ ?_
  split
  · exact h1.trans (State.sendYield_touch _ _ _)
  · exact h1

theorem State.evaluate_touch (h : HeaderId) (c : Claim) (s : State) (hs : (s.header h).slot ≠ none) :
    Moves commitTouch s (s.evaluate h c) := by
  unfold State.evaluate
  dsimp only
  exact .ite (fun _ => s.commit_touch h c hs) fun _ => (s.withdrawFully_touch h c _).mono

end Sys2Proof.Machine
end

