-- ==== Sys2Proof/Laws/Memory.lean ====
section
/-! SUPPORT. The retention memory: a read after a write, the canonical form kept by every memory operation, and what a
whole record's write leaves. -/

namespace Sys2Proof.Machine

-- One proof at a time: a waiting proof holds a thread and its stack.
set_option Elab.async false

theorem readByte_writeByte (mem : List Host.Cell) (a b : Nat) (x : Byte) (h : Memory.wf mem = true) :
    readByte (writeByte mem a x) b = if b = a then x else readByte mem b := by
  have below : ∀ (l : List Host.Cell) (n : Nat), l.all (fun c => decide (n < c.1)) = true → ∀ m ≤ n,
      readByte l m = unwritten := by
    intro l
    induction l with
    | nil => intros; rfl
    | cons c rest ih =>
      intro n hn m hm
      obtain ⟨k, y⟩ := c
      simp only [List.all_cons, Bool.and_eq_true, decide_eq_true_eq] at hn
      simp only [readByte]
      rw [if_neg (by omega)]
      exact ih n hn.2 m hm
  induction mem with
  | nil =>
    simp only [writeByte]
    split
    · rename_i e; subst e; split <;> simp_all [readByte]
    · simp only [readByte]
      by_cases e : b = a
      · simp [e]
      · rw [if_neg (Ne.symm e), if_neg e]
  | cons c rest ih =>
    obtain ⟨k, y⟩ := c
    simp only [Memory.wf, Bool.and_eq_true] at h
    obtain ⟨⟨_, hlow⟩, hrest⟩ := h
    have ih := ih hrest
    simp only [writeByte]
    by_cases hlt : a < k
    · rw [if_pos hlt]
      split
      · rename_i e
        subst e
        by_cases eb : b = a
        · subst eb
          rw [if_pos rfl]
          simp only [readByte]
          rw [if_neg (by omega)]
          exact below rest k hlow b (by omega)
        · rw [if_neg eb]
      · by_cases eb : b = a
        · subst eb; simp [readByte]
        · rw [if_neg eb]
          simp only [readByte]
          rw [if_neg (Ne.symm eb)]
    · rw [if_neg hlt]
      by_cases he : a = k
      · subst he
        rw [if_pos rfl]
        split
        · rename_i e
          by_cases eb : b = a
          · subst eb; rw [if_pos rfl, e]; exact below rest b hlow b (by omega)
          · rw [if_neg eb]; simp only [readByte]; rw [if_neg (Ne.symm eb)]
        · by_cases eb : b = a
          · subst eb; simp [readByte]
          · rw [if_neg eb]; simp only [readByte]; rw [if_neg (Ne.symm eb), if_neg (Ne.symm eb)]
      · rw [if_neg he]
        simp only [readByte]
        by_cases ek : k = b
        · rw [if_pos ek, if_neg (by omega), if_pos ek]
        · rw [if_neg ek, ih]; simp [ek]

/-- A lower bound of every listed address is kept by a write at or above it. -/
theorem writeByte_all (n a : Nat) (x : Byte) (hn : n < a) (mem : List Host.Cell)
    (h : mem.all (fun c => decide (n < c.1)) = true) : (writeByte mem a x).all (fun c => decide (n < c.1)) = true := by
  induction mem with
  | nil => simp only [writeByte]; split <;> simp [hn]
  | cons c rest ih =>
    obtain ⟨k, y⟩ := c
    rw [List.all_cons, Bool.and_eq_true] at h
    have hk := of_decide_eq_true h.1
    have ih := ih h.2
    simp only [writeByte]
    repeat' split
    · rw [List.all_cons, h.1, h.2]; rfl
    · rw [List.all_cons, List.all_cons, h.1, h.2]; simp [hn]
    · exact h.2
    · rw [List.all_cons, h.2]; simp [hn]
    · rw [List.all_cons, h.1, ih]; rfl

/-- Every single-byte write keeps the canonical form. -/
theorem writeByte_wf (mem : List Host.Cell) (a : Nat) (x : Byte) (h : Memory.wf mem = true) :
    Memory.wf (writeByte mem a x) = true := by
  induction mem with
  | nil => simp only [writeByte]; split <;> simp_all [Memory.wf]
  | cons c rest ih =>
    obtain ⟨k, y⟩ := c
    have h0 := h
    simp only [Memory.wf, Bool.and_eq_true] at h
    obtain ⟨⟨hy, hlow⟩, hrest⟩ := h
    simp only [writeByte]
    by_cases hlt : a < k
    · rw [if_pos hlt]
      split
      · exact h0
      · rename_i e
        simp only [Memory.wf, Bool.and_eq_true]
        refine ⟨⟨by simpa using e, ?_⟩, ⟨hy, hlow⟩, hrest⟩
        simp only [List.all_cons, Bool.and_eq_true, decide_eq_true_eq]
        refine ⟨hlt, ?_⟩
        simp only [List.all_eq_true, decide_eq_true_eq] at hlow ⊢
        intro c hc
        have := hlow c hc
        omega
    · rw [if_neg hlt]
      by_cases he : a = k
      · rw [if_pos he]
        split
        · exact hrest
        · rename_i e
          subst he
          simp only [Memory.wf, Bool.and_eq_true]
          exact ⟨⟨by simpa using e, hlow⟩, hrest⟩
      · rw [if_neg he]
        simp only [Memory.wf, Bool.and_eq_true]
        exact ⟨⟨hy, writeByte_all k a x (by omega) rest hlow⟩, ih hrest⟩

/-- Every write of bytes keeps the canonical form. -/
theorem writeBytes_wf (bs : List Byte) (mem : List Host.Cell) (a : Nat) (h : Memory.wf mem = true) :
    Memory.wf (writeBytes mem a bs) = true := by
  induction bs generalizing mem a with
  | nil => exact h
  | cons b bs ih => exact ih _ _ (writeByte_wf mem a b h)

/-- What a write of bytes leaves at an address. -/
theorem readByte_writeBytes (bs : List Byte) (mem : List Host.Cell) (a n : Nat) (h : Memory.wf mem = true) :
    readByte (writeBytes mem a bs) n = if a ≤ n ∧ n < a + bs.length then bs.getD (n - a) 0 else readByte mem n := by
  induction bs generalizing mem a with
  | nil => rw [if_neg (by simp)]; rfl
  | cons b bs ih =>
    simp only [writeBytes, List.length_cons]
    rw [ih _ _ (writeByte_wf mem a b h), readByte_writeByte _ _ _ _ h]
    by_cases e : n = a
    · subst e
      rw [if_neg (by omega), if_pos rfl, if_pos (by omega)]
      simp
    · by_cases hr : a + 1 ≤ n ∧ n < a + 1 + bs.length
      · rw [if_pos hr, if_pos (by omega)]
        have : n - a = (n - (a + 1)) + 1 := by omega
        rw [this]
        simp
      · rw [if_neg hr, if_neg e, if_neg (by omega)]

/-- A record written is read back. -/
theorem readBytes_writeBytes (bs : List Byte) (mem : List Host.Cell) (a : Nat) (h : Memory.wf mem = true) :
    readBytes (writeBytes mem a bs) a bs.length = bs := by
  have key : ∀ (k : Nat) (i : Nat), i + k = bs.length → readBytes (writeBytes mem a bs) (a + i) k = bs.drop i := by
    intro k
    induction k with
    | zero => intro i hi; simp [readBytes, List.drop_eq_nil_of_le (by omega : bs.length ≤ i)]
    | succ k ih =>
      intro i hi
      have hlt : i < bs.length := by omega
      simp only [readBytes]
      rw [readByte_writeBytes _ _ _ _ h, if_pos (by omega), show a + i + 1 = a + (i + 1) by omega, ih (i + 1) (by omega)]
      rw [List.drop_eq_getElem_cons hlt, show a + i - a = i by omega]
      simp [hlt]
  simpa using key bs.length 0 (by omega)

/-- Bytes outside a write are read as before it. -/
theorem readBytes_congr (mem mem' : List Host.Cell) (a k : Nat)
    (h : ∀ n, a ≤ n → n < a + k → readByte mem' n = readByte mem n) : readBytes mem' a k = readBytes mem a k := by
  induction k generalizing a with
  | zero => rfl
  | succ k ih =>
    simp only [readBytes]
    rw [h a (by omega) (by omega), ih (a + 1) fun n h1 h2 => h n (by omega) (by omega)]

/-- A performed write leaves the memory in its canonical form. -/
theorem performWrite_wf (mem mem' : List Host.Cell) (count : Nat) (w : Write) (h : Memory.wf mem = true)
    (hw : performWrite mem count w = some mem') : Memory.wf mem' = true := by
  cases w with
  | totals t =>
    simp only [performWrite, Option.some.injEq] at hw
    subst hw
    unfold writeTotals
    split <;> exact writeBytes_wf _ _ _ h
  | note n r x =>
    simp only [performWrite, Option.map_eq_some_iff] at hw
    obtain ⟨k, _, rfl⟩ := hw
    exact writeBytes_wf _ _ _ h
  | removal n =>
    simp only [performWrite] at hw
    split at hw
    · cases hw; exact writeBytes_wf _ _ _ h
    · cases hw; exact h

end Sys2Proof.Machine
end

