-- ==== Sys2Proof/Laws/SessionMoves.lean ====
section
/-! SUPPORT. What the operations on notes, the write queue, the session, received frames, close completions and panel
requests may touch. -/

namespace Sys2Proof.Machine

-- One proof at a time: a waiting proof holds a thread and its stack.
set_option Elab.async false

variable {L : List Touch}

/-! ## The write queue -/

theorem State.queueWrite_touch (w : Write) (s : State) (h : s.retention.hasRoom = true) :
    Moves [.writes] s (s.queueWrite w) := by
  unfold State.queueWrite
  refine .unless fun _ => .one .writes (.writes _ s rfl fun hs => ⟨?_, ?_⟩)
  · have h : s.retention.queue.length < 4 := of_decide_eq_true h
    simp; omega
  · have := hs.timer
    cases e : s.retention.queue <;> simp_all [State.after]

theorem State.handTotals_touch (s : State) : Moves [.writes] s s.handTotals := by
  unfold State.handTotals
  exact .ite (fun h => s.queueWrite_touch _ h) fun _ => .one .writes (.writes _ s rfl fun hs => ⟨hs.room, hs.timer⟩)

theorem State.offerHeld_touch (s : State) : Moves [.writes] s s.offerHeld := by
  unfold State.offerHeld
  split
  · exact .when fun h => (s.queueWrite_touch _ h).trans
      (.one .writes (.writes _ _ rfl fun hs => ⟨hs.room, hs.timer⟩))
  · exact .refl s

theorem State.drainOutbox_touch (n : Nat) (s : State) : Moves [.writes, .notes] s (State.drainOutbox n s) := by
  induction n generalizing s with
  | zero => exact .refl s
  | succ n ih =>
    unfold State.drainOutbox
    split
    · exact .refl s
    · exact .when fun h => .trans (.trans (s.queueWrite_touch _ h).mono (.modNotes _ _)) (ih _)

theorem State.endWrite_touch (b : Bool) (s : State) : Moves [.memory] s (s.endWrite b) := by
  unfold State.endWrite
  split
  · exact .refl s
  · rename_i w waiting hq
    refine .one .memory (.memory _ s (fun h => ?_) fun hs => ⟨?_, ?_⟩)
    · dsimp only
      cases hd : performWrite s.retention.mem s.retention.issueCount w with
      | none => simpa using h
      | some m =>
        split
        · exact performWrite_wf _ _ _ _ h hd
        · exact h
    · have := hs.room
      rw [hq] at this
      refine Nat.le_trans (List.dropWhile_sublist _).length_le ?_
      simp at this
      omega
    · dsimp only
      generalize List.dropWhile _ waiting = rest
      cases rest <;> simp [State.after]

/-! ## Notes -/

theorem State.clearMarker_touch (n id : Nat) (s : State) : Moves [.notes] s (s.clearMarker n id) := .modNotes _ s

theorem State.sendNote_touch (n : Nat) (r : List Byte) (s : State) : Moves [.notes, .shares] s (s.sendNote n r) := by
  have h1 : ∀ (f : Notes → Notes), Moves [.notes, .shares] s ((s.modNotes f).handTail (.note n) r).1 := fun f =>
    .trans (.modNotes f s) (.shares (State.handTail_moves (.note n) r ⟨nofun, nofun⟩ _))
  have h2 : ∀ f : Notes → Notes, Moves [.notes, .shares] s
      (match ((s.modNotes f).handTail (.note n) r).2 with
        | .full => ((s.modNotes f).handTail (.note n) r).1.clearMarker n s.link.nextId
        | .clash => ((s.modNotes f).handTail (.note n) r).1.clearMarker n s.link.nextId
        | _ => ((s.modNotes f).handTail (.note n) r).1) := by
    intro f
    split
    · exact (h1 f).trans (State.clearMarker_touch _ _ _).mono
    · exact (h1 f).trans (State.clearMarker_touch _ _ _).mono
    · exact h1 f
  exact h2 _

/-- The kinds of change of an issue. -/
abbrev issueTouch : List Touch := [.notes, .shares, .writes]

theorem State.issueNote_touch (s : State) (h : s.retention.hasRoom = true) : Moves issueTouch s s.issueNote := by
  have h1 : ∀ (f : Notes → Notes) (w : Write), Moves issueTouch s ((s.modNotes f).queueWrite w) := fun f w =>
    .trans (.modNotes f s) ((s.modNotes f).queueWrite_touch w h).mono
  exact (h1 _ _).trans (State.sendNote_touch _ _ _).mono

/-! ## Session -/

theorem State.checkFail_touch (r : Reason) (s : State) : Moves [.session] s (s.checkFail r) := by
  unfold State.checkFail
  exact .when fun _ => .endSession s (.inl rfl)

theorem State.discarded_touch (f : TxFrame) (s : State) :
    Moves [.shares, .header, .session, .notes] s (s.discarded f) := by
  unfold State.discarded
  split
  · exact .refl s
  · exact .refl s
  · exact .refl s
  · split
    · exact (s.withdrawFully_touch _ _ _).mono
    · exact .refl s
  · exact .when fun _ => (s.checkFail_touch _).mono
  · exact (s.clearMarker_touch _ _).mono

theorem State.purged_touch (s : State) (f : TxFrame) : Moves [.session, .notes] s (s.purged f) := by
  unfold State.purged
  split
  · exact .when fun _ => (s.checkFail_touch _).mono
  · exact (s.clearMarker_touch _ _).mono
  · exact .refl s

/-- The kinds of change of the completion of ENDING. -/
abbrev endTouch : List Touch :=
  [.batch, .header, .monitor, .shares, .session, .injector, .arm, .notes, .writes]

theorem State.settleBatches_touch (s : State) : Moves endTouch s s.settleBatches := by
  have hw : ∀ (t : State) (h : HeaderId), Moves endTouch t (t.modHeader h fun x => { x with retryWait := false }) :=
    fun t h => .modHeader h t fun x => ⟨rfl, by cases e : x.slot <;> simp⟩
  have h1 : Moves endTouch s (allComps.foldl State.settleComp s) :=
    .foldl _ (fun s c => .setBatch c _ s) _ s
  have h2 : ∀ q : List CompId, Moves endTouch s ({ allComps.foldl State.settleComp s with startQueue := q } : State) :=
    fun q => h1.trans (.one .batch (.batch (allComps.foldl State.settleComp s).batches q _))
  have h3 : ∀ q : List CompId, Moves endTouch s (allHeaders.foldl
      (fun s h => s.modHeader h fun x => { x with retryWait := false })
      ({ allComps.foldl State.settleComp s with startQueue := q } : State)) := fun q =>
    (h2 q).trans (.foldl _ (fun s h => hw s h) _ _)
  have h4 : ∀ (b : Bool) (t : State), Moves endTouch s t →
      Moves endTouch s (if b then t.settleDeadman false else t) := fun b t h =>
    .ite (fun _ => h.trans (t.settleDeadman_touch false).mono) fun _ => h
  exact h4 _ _ (h3 [])

theorem State.closeSession_touch (s : State) : Moves endTouch s s.closeSession := by
  have h1 : Moves endTouch s (s.modSession fun x => { x with latches := Vector.replicate 4 false }) := .modSession s
  have h2 : ∀ t, Moves endTouch t (t.eachInjector fun i s => s.modInjector i fun x => { x with badRun := 0 }) := fun t =>
    .eachInjector _ (fun i s => .modInjector i _ s) t
  have h3 : ∀ t, Moves endTouch t (t.eachArm fun a s => s.modArm a fun m => { m with meterCause := false }) := fun t =>
    .eachArm _ (fun a s => .modArm a s) t
  have h4 : ∀ t : State, Moves endTouch t (t.modSession fun x => { x with state := .none, permit := none, tag := none }) :=
    fun t => .endSession t (.inl rfl)
  have h5 : ∀ t : State, Moves endTouch t ({ t with batches := Vector.replicate 8 none } : State) := fun t =>
    .one .batch (.batch _ t.startQueue t)
  have h6 : ∀ t, Moves endTouch t (t.eachArm fun a s => s.modArm a fun m => { m with owner := none }) := fun t =>
    .eachArm _ (fun a s => .modArm a s) t
  exact (((((h1.trans (h2 _)).trans (h3 _)).trans (h4 _)).trans (h5 _)).trans (h6 _)).trans
    (State.composeState_touch _).mono

theorem State.offerIssue_touch (s : State) : Moves endTouch s s.offerIssue := by
  unfold State.offerIssue
  refine .ite (fun h => .trans (s.issueNote_touch ?_).mono (State.closeSession_touch _)) fun _ => .modNotes _ s
  unfold State.issueFits at h
  simp only [Bool.and_eq_true] at h
  exact h.2

theorem State.completeEnding_touch (s : State) : Moves endTouch s s.completeEnding := by
  unfold State.completeEnding
  refine .when fun _ => ?_
  exact .ite (fun _ => s.settleBatches_touch.trans (State.offerIssue_touch _)) fun _ =>
    s.settleBatches_touch.trans (State.closeSession_touch _)

/-- The kinds of change of entry to ENDING. -/
abbrev enterTouch : List Touch := .stage :: endTouch

theorem State.abandonLow_touch (s : State) (h : HeaderId) : Moves [.shares] s (s.abandonLow h) :=
  .shares (s.abandonLow_moves h)

theorem State.enterEnding_touch (r : Reason) (s : State) : Moves enterTouch s (s.enterEnding r) := by
  unfold State.enterEnding
  refine .when fun _ => ?_
  dsimp only
  refine .trans ?_ (State.completeEnding_touch _).mono
  refine .trans ?_ (.eachArm _ (fun a s => (s.closeDemand_touch a _ _ _).mono) _)
  refine .trans ?_ (.eachArm _ (fun a s => .modArm a s) _)
  exact .trans (.endSession s (.inr rfl)) (.foldl _ (fun s h => (s.abandonLow_touch h).mono) _ _)

theorem State.enterClash_touch (s : State) (hl : s.linkOpen = true) :
    Moves (.clash :: enterTouch) s s.enterClash := by
  have hp : Moves (.clash :: enterTouch) s ({ s with station := .clash, link := s.link.purge } : State) :=
    .one .clash (.clash s hl)
  unfold State.enterClash
  refine .unless fun _ => ?_
  dsimp only
  refine .trans ?_ (State.enterEnding_touch _ _).mono
  refine .trans ?_ (State.checkFail_touch _ _).mono
  refine .trans ?_ (.eachArm _ (fun a s => (s.closeDemand_touch a _ _ _).mono) _)
  refine .trans ?_ (.foldl _ (fun s h => (s.dropClaim_touch h _).mono) _ _)
  exact hp.trans (.foldl _ (fun s f => (s.purged_touch f).mono) _ _)

/-- The kinds of change of a day change. -/
theorem State.dayEnd_touch (s : State) (r r' : Reason) : Moves enterTouch s ((s.checkFail r).enterEnding r') :=
  (s.checkFail_touch r).mono.trans (State.enterEnding_touch r' _)

theorem State.offerPlace_touch (s : State) : Moves endTouch s s.offerPlace := by
  have h1 : Moves endTouch s (State.drainOutbox Config.writeCapacity s.offerHeld) :=
    s.offerHeld_touch.mono.trans (State.drainOutbox_touch _ _).mono
  unfold State.offerPlace
  refine .ite (fun h => h1.trans (.trans (State.issueNote_touch _ ?_).mono (State.closeSession_touch _))) fun _ => h1
  simp only [Bool.and_eq_true, State.issueFits] at h
  exact h.2.2

theorem Link.Sends.sound {l m : Link} (h : Link.Sends l m) : l.Sound → m.Sound := by
  induction h with
  | refl => exact id
  | trans _ _ h1 h2 => exact fun h => h2 (h1 h)
  | numbered => exact fun h => h.numbered
  | tail l f => exact fun h => h.pushTail f
  | stateHead l f => exact fun h => h.pushStateHead f
  | stateTail l f => exact fun h => h.pushStateTail f
  | announced l b => exact fun h => ⟨h.room, h.attempts, h.empty, h.slots⟩

/-- The kinds of change of a STOP's hand-over. -/
abbrev stopTouch : List Touch := [.link, .shares, .header, .session, .notes]

theorem State.handStop_touch (s : State) : Moves stopTouch s s.handStop := by
  have h1 : Moves stopTouch s
      ({ s with link := (s.link.pushStop (s.frameNow .stop [])).1.numbered } : State) :=
    .one .link (.link _ s fun h => (h.pushStop _).numbered)
  unfold State.handStop
  refine .when fun _ => ?_
  dsimp only
  split
  · exact h1.trans (State.discarded_touch _ _).mono
  · exact h1

theorem State.composeState_eq (s : State) :
    ∃ l p, s.composeState = { s with link := l, periodTimer := p } ∧ Link.Sends s.link l := by
  unfold State.composeState
  split
  · exact ⟨s.link, s.periodTimer, rfl, .refl _⟩
  · refine ⟨_, _, rfl, ?_⟩
    refine .trans ?_ (.announced _ _)
    refine .trans ?_ (.numbered _)
    split
    · exact .refl _
    · split
      · exact .stateHead _ _ rfl
      · exact .stateTail _ _ rfl

theorem State.setOwnStop_touch (b : Bool) (s : State) (hr : s.restart = false) : Moves [.stops] s (s.setOwnStop b) := by
  unfold State.setOwnStop
  refine .unless fun _ => ?_
  obtain ⟨l, p, e, hl⟩ := ({ s with ownStop := b } : State).composeState_eq
  rw [e]
  exact .one .stops (.stops s.peers b l p s hl hr)

/-! ## Reception -/

theorem State.hear_touch (p : StationId) (s : State) : Moves [.peers] s (s.hear p) := by
  refine .one .peers (.peers _ s fun q => ?_)
  by_cases e : q = p
  · subst e; simp
  · have : p.val ≠ q.val := fun h => e (Fin.ext h.symm)
    simp [Vector.getElem_set_ne, this]

/-- Peer entries with their stop flags kept. -/
theorem Moves.modPeer (p : StationId) {f : Peer → Peer} (s : State) (hf : ∀ x, (f x).stop = x.stop := by intro _; rfl)
    (hl : Touch.peers ∈ L := by decide) : Moves L s (s.modPeer p f) := by
  refine .one .peers (.peers _ s fun q => ?_) hl
  by_cases e : q = p
  · subst e; simp [hf]
  · have : p.val ≠ q.val := fun h => e (Fin.ext h.symm)
    simp [Vector.getElem_set_ne, this]

theorem State.retryFold_touch (f : State → HeaderId → State) (hf : ∀ s h, f s h = s.retryTrigger h ∨ f s h = s)
    (s : State) : Moves [.shares] s (allHeaders.foldl f s) :=
  .foldl f (fun s h => by rcases hf s h with e | e <;> rw [e]
                          · exact s.retryTrigger_touch h
                          · exact .refl s) _ s

theorem State.permitOffer_touch (p : StationId) (permit : Option Nat) (s : State) :
    Moves enterTouch s (s.permitOffer p permit) := by
  unfold State.permitOffer
  refine .when fun _ => ?_
  split
  · exact .refl s
  · exact (s.checkFail_touch _).mono
  · exact .when fun _ => s.enterEnding_touch _
  · exact .refl s

theorem State.deliverState_touch (p : StationId) (cls : PriorityClass) (stop isOpen : Bool) (shares : Vector Nat 8)
    (permit : Option Nat) (s : State) (hr : s.restart = false) :
    Moves (.stops :: enterTouch) s (s.deliverState p cls stop isOpen shares permit) := by
  have h1 : ∀ f : Peer → Peer, Moves (.stops :: enterTouch) s (s.modPeer p f).followStopSet := fun f =>
    .one .stops (.stops (s.modPeer p f).peers s.ownStop s.link s.periodTimer s (.refl _) hr)
  unfold State.deliverState
  dsimp only
  refine .trans (.trans (h1 _) (State.retryFold_touch _ ?_ _).mono) (State.permitOffer_touch _ _ _).mono
  intro s h
  unfold State.shareFell
  split
  · exact .inl rfl
  · exact .inr rfl

theorem State.deliverClaim_touch (p : StationId) (h : HeaderId) (n : Nat) (cls : PriorityClass) (s : State) :
    Moves [.peers] s (s.deliverClaim p h n cls) := .modPeer p s

theorem State.deliverYield_touch (h : HeaderId) (cls : PriorityClass) (s : State) :
    Moves [.arm] s (s.deliverYield h cls) := by
  unfold State.deliverYield
  refine .when fun _ => ?_
  split
  · exact .modArm _ s
  · exact .refl s

theorem State.deliverPermitClaim_touch (p : StationId) (n : Nat) (s : State) :
    Moves [.session, .shares] s (s.deliverPermitClaim p n) := by
  unfold State.deliverPermitClaim
  refine .when fun _ => ?_
  split
  · exact .refl s
  · exact .when fun _ => (s.checkFail_touch _).mono
  · exact s.composeState_touch.mono
  · exact s.composeState_touch.mono

theorem State.deliverTime_touch (d x : Nat) (s : State) : Moves [.newDay, .clock] s (s.deliverTime d x) := by
  unfold State.deliverTime
  dsimp only
  refine .ite (fun _ => .one .newDay (.newDay _ s rfl)) fun h => .one .clock (.clock _ s fun _ => ⟨rfl, ?_⟩)
  simp at h
  exact h.2.symm

theorem State.deliverStop_touch (p : StationId) (s : State) (hr : s.restart = false) :
    Moves [.stops] s (s.deliverStop p) :=
  .one .stops (.stops (s.modPeer p fun x => { x with stop := true }).peers s.ownStop s.link s.periodTimer s (.refl _) hr)

theorem State.deliverNoteRequest_touch (p : StationId) (s : State) :
    Moves [.notes, .shares] s (s.deliverNoteRequest p) := by
  unfold State.deliverNoteRequest
  refine .when fun _ => ?_
  split
  · exact .refl s
  · exact .when fun _ => s.sendNote_touch _ _

theorem State.offerRemoval_touch (n : Nat) (s : State) : Moves [.writes, .notes] s (s.offerRemoval n) := by
  unfold State.offerRemoval
  exact .ite (fun h => (s.queueWrite_touch _ h).mono) fun _ => .modNotes _ s

theorem State.deliverNoteTaken_touch (p : StationId) (n : Nat) (s : State) :
    Moves [.writes, .notes] s (s.deliverNoteTaken p n) := by
  unfold State.deliverNoteTaken
  exact .when fun _ => .trans (.modNotes _ s) (State.offerRemoval_touch _ _)

/-- A complete frame: what the receiver takes, then CLASH or the delivery. -/
theorem State.receive_touch (frame : List Byte) (deliver : StationId → Frame → State → State) (s : State)
    (hd : ∀ p f t, t.restart = false → Moves L t (deliver p f t)) (hl : Touch.link :: .clash :: enterTouch ⊆ L := by decide) :
    Moves L s (s.receive frame deliver) := by
  have h1 : ∀ f : Link → Link, (s.link.Sound → (f s.link).Sound) → Moves L s (s.modLink f) := fun f hf =>
    .modLink s hf (hl (.head _))
  unfold State.receive
  refine .unless fun hopen => ?_
  simp only [Bool.or_eq_true, not_or] at hopen
  have hopen : s.linkOpen = true := by simpa using hopen.1.1
  have hr : s.restart = false := by
    simp only [State.linkOpen, Bool.and_eq_true] at hopen
    simpa using hopen.2
  have h2 : Moves L s (s.modLink fun l => { l with rx := .skip, buffer := frame }) :=
    h1 _ fun h => ⟨h.room, h.attempts, h.empty, h.slots⟩
  dsimp only
  split
  · exact h2
  · refine .ite (fun _ => h2.trans ?_) fun _ => h2.trans (hd _ _ _ hr)
    refine (State.enterClash_touch _ ?_).mono (List.Subset.trans (by decide) hl)
    exact hopen

theorem State.frameSent_touch (f : TxFrame) (s : State) :
    Moves [.header, .shares, .session, .notes] s (s.frameSent f) := by
  unfold State.frameSent
  split
  · exact .refl s
  · exact .refl s
  · exact .refl s
  · rename_i h _
    split
    · rename_i c hc
      have hs : (s.header h).slot ≠ none := by
        unfold State.claimOfFrame at hc
        cases e : (s.header h).slot with
        | none => simp [e] at hc
        | some _ => simp
      have hm : s.modHeader h (fun x => { x with slot := some { c with
          phase := .settling (s.now + Config.settleWindowMs) } }) = s.modHeader h (fun x => { x with
          slot := if x.slot = none then none
            else some { c with phase := .settling (s.now + Config.settleWindowMs) } }) := by
        have hs' : s.headers[h].slot ≠ none := hs
        simp only [State.modHeader, if_neg hs']
      rw [hm]
      refine .modHeader h s fun x => ⟨rfl, ?_⟩
      cases e : x.slot <;> simp
    · exact s.composeState_touch.mono
  · exact .when fun _ => .modSession s
  · exact (s.clearMarker_touch _ _).mono

/-! ## Close completion -/

/-- The kinds of change of a close completion. -/
abbrev completeTouch : List Touch :=
  [.totals, .other, .stage, .arm, .injector, .shares, .batch, .session, .writes, .learned, .header, .monitor, .notes]

theorem State.learn_touch (a : ArmId) (r : Reason) (b : Bool) (s : State) :
    Moves [.batch, .learned] s (s.learn a r b) := by
  unfold State.learn
  split
  · exact .refl s
  · rename_i c b' _
    have h1 : ∀ (p : Prop) [Decidable p], Moves [.batch, .learned] s (if p then s.flagLine c LineFlags.setShort else s) :=
      fun p _ => .when fun _ => (s.flagLine_touch _ _).mono
    have h2 : ∀ (t : State) (g : Nat → Nat), Moves [.batch, .learned] t
        (t.modArm a fun m => { m with closeAhead := g m.closeAhead }) := fun t g => .one .learned (.learned a g t)
    exact .ite (fun _ => (h1 _).trans (h2 _ fun n => learned n (-remaining b' (s.arm a).live))) fun _ => h1 _

theorem State.closeOutcome_touch (a : ArmId) (k : CloseKind) (r : Reason) (s : State) :
    Moves [.batch] s (s.closeOutcome a k r) := by
  unfold State.closeOutcome
  split
  · exact .modBatch _ _ s
  · exact .refl s

theorem State.closeWindows_touch (a : ArmId) (s : State) : Moves doseTouch s (s.closeWindows a) :=
  .eachInjector _ (fun i s => .when fun _ => .trans (s.endShot_touch true i).mono (State.judgeWindow_touch i _)) s

/-- An arm CLOSED with its close fields cleared. -/
theorem State.shut_touch (a : ArmId) (s : State) : Moves [.stage] s
    ((s.moveStage a .closed).modArm a fun m => { m with close := none, leak := false, heldShare := 0 }) :=
  .one .stage (.shut a s)

theorem State.completeClose_touch (a : ArmId) (c : Close) (s : State) : Moves completeTouch s (s.completeClose a c) := by
  have h1 : Moves completeTouch s ((s.closeSlice a).handTotals.modArm a Arm.quietChannel) :=
    .trans (.trans (s.closeSlice_touch a).mono (State.handTotals_touch _).mono) (.modArm a _)
  have h2 : ∀ t (r : Reason) (b : Bool), Moves completeTouch s t →
      Moves completeTouch s (if c.kind = .normal then t.learn a r b else t) := fun t r b h =>
    .ite (fun _ => h.trans (t.learn_touch a r b).mono) fun _ => h
  have h3 : ∀ u : State, Moves completeTouch s u → Moves completeTouch s
      (State.settleDeadman true (State.closeWindows a
        ((u.announceFall (u.armCfg a).header).closeOutcome a c.kind c.cause).scan)).completeEnding.startIdle :=
    fun u h => ((((((h.trans (State.announceFall_touch _ _).mono).trans
      (State.closeOutcome_touch a _ _ _).mono).trans (State.scan_touch _).mono).trans
      (State.closeWindows_touch a _).mono).trans (State.settleDeadman_touch _ _).mono).trans
      (State.completeEnding_touch _).mono).trans (State.startIdle_touch _).mono
  exact h3 _ ((h2 _ _ _ h1).trans (State.shut_touch a _).mono)

end Sys2Proof.Machine
end

