-- ==== Sys2Proof/Laws/Touches.lean ====
section
/-! SUPPORT. What each command may touch: `touches`, and `exec_touches` which says it of every command but the cold
start and the RESTART line's two. -/

namespace Sys2Proof.Machine

-- One proof at a time: a waiting proof holds a thread and its stack.
set_option Elab.async false

variable {L : List Touch}

/-! ## Panel requests -/

theorem State.answer_touch (a : Answer) (s : State) (hl : Touch.panel ∈ L := by decide) : Moves L s (s.answer a) :=
  .one .panel (.panel _ s) hl

/-- The end of a frame touches what taking it touches, and the panel port. -/
theorem State.frameEnd_touch (take : State → State) (s : State) (ht : Moves L s (take s))
    (hl : Touch.panel ∈ L := by decide) : Moves L s (s.frameEnd take) := by
  unfold State.frameEnd
  split
  · exact ht
  · exact .refl s
  · exact .one .panel (.panel _ s) hl

/-- A request touches what its owner touches, the panel port and the idle timer. -/
theorem State.request_touch (ok : Bool) (owner : State → State × Answer) (s : State)
    (ho : ∀ t, t.restart = false → Moves L t (owner t).1) (hl : [.panel, .session] ⊆ L := by decide) : Moves L s (s.request ok owner) := by
  have hp : Touch.panel ∈ L := hl (.head _)
  unfold State.request
  refine s.frameEnd_touch _ (.ite (fun _ => s.answer_touch _ hp) fun _ => .ite (fun _ => s.answer_touch _ hp) fun _ =>
    .ite (fun _ => s.answer_touch _ hp) fun hr => ?_) hp
  refine .trans (.trans (s.restartIdle_touch.mono fun x hx => ?_) (ho _ ?_)) (State.answer_touch _ _ hp)
  · simp only [List.mem_singleton] at hx
    exact hx ▸ hl (.tail _ (.head _))
  · have e : s.restartIdle.restart = s.restart := by unfold State.restartIdle; split <;> rfl
    simpa [e] using hr

theorem State.presentCard_touch (card : List Byte) (s : State) :
    Moves [.check, .shares, .session] s (s.presentCard card).1 := by
  unfold State.presentCard
  split
  · exact .refl s
  · rename_i p t e
    have h1 : ∀ f : Session → Session, (f s.session).state = .checking → (f s.session).permit = some p →
        Moves [.check, .shares, .session] s ((s.modSession f).handTail .permitClaim (beBytes 4 p.id)).1 := fun f h1 h2 =>
      .trans (.one .check (.check _ card p t s e h1 h2)) (.shares (State.handTail_moves .permitClaim _ ⟨nofun, nofun⟩ _))
    have h2 : ∀ f : Session → Session, (f s.session).state = .checking → (f s.session).permit = some p →
        Moves [.check, .shares, .session] s
          (match ((s.modSession f).handTail .permitClaim (beBytes 4 p.id)).2 with
            | .full => ((s.modSession f).handTail .permitClaim (beBytes 4 p.id)).1.checkFail .linkBusy
            | .clash => ((s.modSession f).handTail .permitClaim (beBytes 4 p.id)).1.checkFail .clash
            | _ => ((s.modSession f).handTail .permitClaim (beBytes 4 p.id)).1) := by
      intro f e1 e2
      split
      · exact (h1 f e1 e2).trans (State.checkFail_touch _ _).mono
      · exact (h1 f e1 e2).trans (State.checkFail_touch _ _).mono
      · exact h1 f e1 e2
    exact h2 _ rfl rfl

theorem State.finishSession_touch (s : State) : Moves enterTouch s s.finishSession.1 := by
  unfold State.finishSession
  split
  · exact .refl s
  · exact .refl s
  · split
    · exact s.enterEnding_touch _
    · exact .refl s
  · exact .refl s

theorem State.planBatch_touch (c : Byte) (g : GradeId) (p : Nat) (n : Option ArmId) (s : State) :
    Moves [.batch] s (s.planBatch c g p n).1 := by
  unfold State.planBatch
  split
  · exact .refl s
  · split
    · exact .refl s
    · repeat' split
      all_goals first | exact .refl s | exact .setBatch _ _ s

theorem State.amendBatch_touch (c : Byte) (p : Nat) (s : State) : Moves [.batch] s (s.amendBatch c p).1 := by
  unfold State.amendBatch
  split
  · exact .refl s
  · split
    · exact .refl s
    · split
      · exact .modBatch _ _ s
      · exact .modBatch _ _ s

theorem State.unqueue_touch (c : CompId) (s : State) : Moves [.batch] s (s.unqueue c) :=
  .one .batch (.batch s.batches _ s)

theorem State.releaseFor_touch (c : CompId) (s : State) : Moves [.shares] s (s.releaseFor c) := by
  unfold State.releaseFor
  split
  · exact .shares (s.releaseReservation_moves _)
  · exact .refl s

/-- The kinds of change of a batch that leaves the queue. -/
abbrev queueTouch : List Touch := [.batch, .shares, .monitor, .session]

theorem State.cancelBatch_touch (c : Byte) (s : State) : Moves queueTouch s (s.cancelBatch c).1 := by
  unfold State.cancelBatch
  split
  · exact .refl s
  · split
    · exact .setBatch _ _ s
    · split
      · exact .trans (.trans (.trans (s.unqueue_touch _).mono (.setBatch _ _ _)) (State.releaseFor_touch _ _).mono)
          (State.afterDequeue_touch _).mono
      · exact .refl s

theorem State.enqueue_touch (c : CompId) (q : List CompId) (s : State) : Moves queueTouch s (s.enqueue c q) := by
  have h1 : ∀ f : Batch → Batch, Moves queueTouch s ({ s.modBatch c f with startQueue := q } : State).stopIdle :=
    fun f => .trans (.trans (.modBatch c f s) (.one .batch (.batch (s.modBatch c f).batches q _)))
      (State.stopIdle_touch _).mono
  have h2 : ∀ t : State, Moves queueTouch s t →
      Moves queueTouch s (if t.allClosed then t.startDeadman else t).scan := fun t h =>
    .trans (.ite (fun _ => h.trans t.startDeadman_touch.mono) fun _ => h) (State.scan_touch _).mono
  exact h2 _ (h1 _)

theorem State.startBatch_touch (c : Byte) (s : State) : Moves queueTouch s (s.startBatch c).1 := by
  unfold State.startBatch
  split
  · exact .refl s
  · split
    · exact .refl s
    · repeat' split
      all_goals first | exact .refl s | exact s.enqueue_touch _ _

theorem State.resumeBatch_touch (c : Byte) (s : State) : Moves queueTouch s (s.resumeBatch c).1 := by
  unfold State.resumeBatch
  split
  · exact .refl s
  · split
    · exact .refl s
    · repeat' split
      all_goals first | exact .refl s | exact s.enqueue_touch _ _

/-- The kinds of change of HOLD. -/
abbrev holdTouch : List Touch := [.stage, .arm, .injector, .shares, .batch, .monitor, .session]

theorem State.holdBatch_touch (c : CompId) (s : State) : Moves holdTouch s (s.holdBatch c) := by
  unfold State.holdBatch
  split
  · exact .refl s
  · split
    · exact (s.closeDemand_touch _ _ _ _).mono
    · exact .trans (s.unqueue_touch c).mono (.modBatch _ _ _)
    · exact .refl s

theorem State.holdAll_touch (cs : List CompId) (s : State) : Moves holdTouch s (s.holdAll cs) := by
  unfold State.holdAll
  exact .trans (.trans (.foldl _ (fun s c => s.holdBatch_touch c) _ s)
    (.foldl _ (fun s c => (s.releaseFor_touch c).mono) _ _)) (State.afterDequeue_touch _).mono

theorem State.holdOne_touch (c : Byte) (s : State) : Moves holdTouch s (s.holdOne c).1 := by
  unfold State.holdOne
  split
  · exact .refl s
  · repeat' split
    all_goals first | exact .refl s | exact s.holdAll_touch _

theorem State.holdEvery_touch (s : State) : Moves holdTouch s s.holdEvery.1 := by
  unfold State.holdEvery
  repeat' split
  all_goals first | exact .refl s | exact s.holdAll_touch _

theorem Monitor.withdrawn_iff (x : Monitor) : x.withdrawn = true ↔ x.groundOut = true ∨ x.overfillOut = true ∨
    x.stopInForce = true ∨ x.terminal = true ∨ x.deadmanOut = true := by
  simp only [Monitor.withdrawn, Bool.or_eq_true]
  tauto

/-- A local stop no longer latched withdraws no more than before. -/
theorem Monitor.withdrawn_of_unlatched (m : Monitor) (i l : Bool) (hi : i = true → m.stopInForce = true)
    (hl : l = true → m.stopInForce = true)
    (h : ({ m with stopInput := i, stopLatch := l } : Monitor).withdrawn = true) : m.withdrawn = true := by
  rw [Monitor.withdrawn_iff] at h ⊢
  rcases h with h | h | h | h | h
  · exact .inl h
  · exact .inr (.inl h)
  · have h : (i || l) = true := h
    rw [Bool.or_eq_true] at h
    exact .inr (.inr (.inl (h.elim hi hl)))
  · exact .inr (.inr (.inr (.inl h)))
  · exact .inr (.inr (.inr (.inr h)))

theorem State.clearLatch_touch (s : State) (hr : s.restart = false) : Moves [.monitor, .stops, .shares] s s.clearLatch.1 := by
  unfold State.clearLatch
  split
  · exact .refl s
  · split
    · have h1 : Moves [.monitor, .stops, .shares] s (s.modMonitor fun m => { m with stopLatch := false }) :=
        .modMonitor s fun h => s.monitor.withdrawn_of_unlatched s.monitor.stopInput false
          (fun e => by simp [Monitor.stopInForce, e]) nofun h
      have h2 := (State.setOwnStop_touch false (s.modMonitor fun m => { m with stopLatch := false }) hr).mono
        (L' := [.monitor, .stops, .shares])
      exact (h1.trans h2).trans (State.restoreIf_touch _ _).mono
    · exact .refl s

/-! ## Withdrawals -/

/-- A withdrawal on a monitor with a permissive out. -/
theorem State.withdraw_alarm (r : Reason) (s : State) (h : s.monitor.withdrawn = true) :
    Moves [.alarm] s (s.withdraw r) := .one .alarm (.alarm s.monitor r s h rfl)

theorem State.withdrawIf_alarm (r : Reason) (was now : Bool) (s : State)
    (h : now = true → s.monitor.withdrawn = true) : Moves [.alarm] s (s.withdrawIf r was now) := by
  unfold State.withdrawIf
  refine .when fun hc => s.withdraw_alarm r (h ?_)
  simp only [Bool.and_eq_true] at hc
  exact hc.2

theorem State.setSocket_touch (g : Bool) (v : Vector Sensor 8) (s : State) :
    Moves [.monitor, .alarm, .shares] s (s.setSocket g v) := by
  obtain ⟨m, hm⟩ : ∃ m : Monitor, m = { s.monitor with ground := g, sensors := v } := ⟨_, rfl⟩
  have ht : m.terminal = s.monitor.terminal := by rw [hm]
  have hsame : m.withdrawn = true → m.groundOut = false → m.overfillOut = false → s.monitor.withdrawn = true := by
    intro h h1 h2
    rw [Monitor.withdrawn_iff] at h ⊢
    rw [h1, h2, hm] at h
    rcases h with h | h | h | h | h
    · cases h
    · cases h
    · exact .inr (.inr (.inl h))
    · exact .inr (.inr (.inr (.inl h)))
    · exact .inr (.inr (.inr (.inr h)))
  have hgw : m.groundOut = true → m.withdrawn = true := fun h => m.withdrawn_iff.mpr (.inl h)
  have how : ∀ x : Monitor, x.overfillOut = true → x.withdrawn = true := fun x h => x.withdrawn_iff.mpr (.inr (.inl h))
  have hend : ∀ t : State, Moves [.monitor, .alarm, .shares] s t →
      Moves [.monitor, .alarm, .shares] s (t.restoreIf s.monitor.withdrawn) := fun t h =>
    h.trans (t.restoreIf_touch _).mono
  have hgoal : s.setSocket g v =
      ((({ s with monitor := m } : State).withdrawIf .ground s.monitor.groundOut m.groundOut).withdrawIf .overfill
        s.monitor.overfillOut
        (({ s with monitor := m } : State).withdrawIf .ground s.monitor.groundOut m.groundOut).monitor.overfillOut).restoreIf
        s.monitor.withdrawn := by rw [hm]; rfl
  rw [hgoal]
  refine hend _ ?_
  by_cases hw : s.monitor.withdrawn = true
  · have h1 : Moves [.monitor, .alarm, .shares] s ({ s with monitor := m } : State) :=
      .one .monitor (.monitor m s (fun _ => .inl hw) ht)
    have h2 := h1.trans (State.withdrawIf_alarm .ground s.monitor.groundOut m.groundOut _ hgw).mono
    exact h2.trans (State.withdrawIf_alarm .overfill _ _ _ (how _)).mono
  · have hg0 : s.monitor.groundOut = false := by
      by_contra h; exact hw (s.monitor.withdrawn_iff.mpr (.inl (by simpa using h)))
    have ho0 : s.monitor.overfillOut = false := by
      by_contra h; exact hw (how _ (by simpa using h))
    rw [hg0, ho0]
    by_cases hg : m.groundOut = true
    · have h1 : Moves [.monitor, .alarm, .shares] s (({ s with monitor := m } : State).withdrawIf .ground false m.groundOut) := by
        rw [hg]
        exact .one .alarm (.alarm m .ground s (hgw hg) ht)
      exact h1.trans (State.withdrawIf_alarm .overfill _ _ _ (how _)).mono
    · have hg : m.groundOut = false := by simpa using hg
      have e : ({ s with monitor := m } : State).withdrawIf .ground false m.groundOut = { s with monitor := m } := by
        rw [hg]; rfl
      rw [e]
      by_cases ho : m.overfillOut = true
      · have e2 : ({ s with monitor := m } : State).withdrawIf .overfill false m.overfillOut =
            ({ s with monitor := m } : State).withdraw .overfill := by rw [ho]; rfl
        show Moves _ s (({ s with monitor := m } : State).withdrawIf .overfill false m.overfillOut)
        rw [e2]
        exact .one .alarm (.alarm m .overfill s (how m ho) ht)
      · have ho : m.overfillOut = false := by simpa using ho
        have e2 : ({ s with monitor := m } : State).withdrawIf .overfill false m.overfillOut = { s with monitor := m } := by
          rw [ho]; rfl
        show Moves _ s (({ s with monitor := m } : State).withdrawIf .overfill false m.overfillOut)
        rw [e2]
        exact .one .monitor (.monitor m s (fun h => .inl (hsame h hg ho)) ht)

end Sys2Proof.Machine
end

