-- ==== Sys2Proof/Laws/ExecTouches.lean ====
section
/-! SUPPORT. What each command may touch: `touches`, and `exec_touches`, which says it of every command but the cold
start and the RESTART line's two. -/

namespace Sys2Proof.Machine

-- One proof at a time: a waiting proof holds a thread and its stack.
set_option Elab.async false

variable {L : List Touch}

/-! ## Received frames -/

/-- The kinds of change of a received frame before its own kind's. -/
abbrev frameTouch : List Touch := .link :: .clash :: .peers :: enterTouch

/-! ## The table -/

/-- What each command may touch. The cold start and the RESTART line's commands are not in this table. -/
def touches : Instr → List Touch
  | .lineIdle => [.link]
  | .lineBusy _ => [.link]
  | .collision => [.link, .shares, .header, .session, .notes]
  | .backoffEnd => [.link]
  | .readBackCompletion => [.link, .header, .shares, .session, .notes]
  | .brokenCharacter => [.link]
  | .startByteMismatch => [.link]
  | .stateReceived _ => .stops :: frameTouch
  | .claimReceived _ => frameTouch
  | .yieldReceived _ => frameTouch
  | .permitClaimReceived _ => frameTouch
  | .revokeReceived _ => .revoke :: frameTouch
  | .timeReceived _ => .newDay :: .clock :: frameTouch
  | .stopReceived _ => .stops :: frameTouch
  | .noteReceived _ => frameTouch
  | .noteRequestReceived _ => frameTouch
  | .noteTakenReceived _ => frameTouch
  | .clockSecond => [.clock, .newDay]
  | .peerStale _ => [.peers]
  | .peerGone _ => [.peers, .shares]
  | .pendingClaimExpiry _ _ => [.peers]
  | .listenPeriodEnd => [.listened, .shares]
  | .statePeriodExpiry => [.other, .shares]
  | .present _ => [.panel, .session, .check, .shares]
  | .finish => .panel :: enterTouch
  | .plan _ _ _ _ => [.panel, .session, .batch]
  | .amend _ _ => [.panel, .session, .batch]
  | .cancel _ => .panel :: queueTouch
  | .start _ => .panel :: queueTouch
  | .resume _ => .panel :: queueTouch
  | .hold _ => .panel :: holdTouch
  | .statusSession => [.panel, .session]
  | .statusCompartment _ => [.panel, .session]
  | .statusArm _ => [.panel, .session]
  | .noteCopy _ => [.panel, .session]
  | .clearStop => [.panel, .session, .monitor, .stops, .shares]
  | .panelFormatError => [.panel]
  | .panelFrameCut => [.panel]
  | .panelAnswerComplete _ => [.panel]
  | .permitClaimWindowEnd => [.session, .shares]
  | .idleTimerExpiry => enterTouch
  | .socketTimerExpiry => enterTouch
  | .tagReport _ => .socket :: enterTouch
  | .unplugReport _ => [.socket, .session, .monitor, .alarm, .shares]
  | .socketStateReport _ _ => [.monitor, .alarm, .shares]
  | .settleWindowEnd _ => commitTouch
  | .retryTimerExpiry _ => [.shares]
  | .yieldTimerExpiry _ => [.header]
  | .holdOffExpiry _ => [.arm, .shares]
  | .overdrawTimerExpiry _ => closeTouch
  | .aPulse _ => sliceTouch
  | .bPulse _ => [.arm]
  | .conversionComplete _ _ => [.arm]
  | .noFlowExpiry _ => closeTouch
  | .flowTimeSecond _ => [.arm]
  | .stepDownExpiry _ => [.arm]
  | .settleTimerExpiry _ => completeTouch
  | .noteIssue => endTouch
  | .closeLimitExpiry _ => [.arm, .shares, .batch]
  | .coupledInputChange _ _ => .coupled :: closeTouch
  | .feedbackPulse _ => [.injector, .arm]
  | .widthTimerExpiry _ => [.injector]
  | .localStopActive => .monitor :: .alarm :: .stops :: stopTouch
  | .localStopNormal => [.monitor]
  | .contactClosure _ => [.monitor, .shares]
  | .contactOpening _ => [.monitor, .shares]
  | .deadmanWarning => [.monitor]
  | .deadmanExpiry => [.alarm, .monitor]
  | .jamTimerExpiry => [.alarm, .monitor]
  | .bypassKeyChange _ => .monitor :: closeTouch
  | .retentionWriteEnd _ => .memory :: endTouch
  | .retentionWriteTimeout => .memory :: endTouch
  | .coldStart _ _ _ => []
  | .restartAsserted => []
  | .restartReleased => []

/-- The commands the table leaves out. -/
def wholePart : Instr → Bool
  | .coldStart _ _ _ => true
  | .restartAsserted => true
  | .restartReleased => true
  | _ => false

theorem State.tagSeen_touch (id : Nat) (s : State) : Moves enterTouch s (s.tagSeen id) := by
  unfold State.tagSeen
  split
  · exact .refl s
  · exact .unless fun _ => (s.checkFail_touch _).mono
  · exact .ite (fun _ => .modSession s) fun _ => s.enterEnding_touch _
  · exact .refl s

theorem State.unplugged_touch (s : State) : Moves [.session] s s.unplugged := by
  unfold State.unplugged
  split
  · exact .refl s
  · exact s.checkFail_touch _
  · exact .when fun _ => .modSession s
  · exact .refl s

theorem State.bypassOff_touch (a : ArmId) (s : State) : Moves closeTouch s (s.bypassOff a) := by
  unfold State.bypassOff
  split
  · exact .refl s
  · exact .when fun _ => s.closeDemand_touch a _ _ _

theorem State.countFeedback_touch (i : InjectorId) (s : State) : Moves [.injector, .arm] s (s.countFeedback i) :=
  .trans (.modInjector i _ s) (.modArm _ _)

theorem State.localStop_touch (s : State) : Moves [.monitor, .alarm] s
    ((s.modMonitor fun m => { m with stopInput := true, stopLatch := true }).withdrawIf .localStop
      s.monitor.stopInForce true) := by
  have hw : ({ s.monitor with stopInput := true, stopLatch := true } : Monitor).withdrawn = true :=
    Monitor.withdrawn_iff _ |>.mpr (.inr (.inr (.inl rfl)))
  cases h : s.monitor.stopInForce with
  | true =>
    have e : ∀ t : State, t.withdrawIf .localStop true true = t := fun _ => rfl
    rw [e]
    exact .modMonitor s fun _ => s.monitor.withdrawn_iff.mpr (.inr (.inr (.inl h)))
  | false =>
    have e : ∀ t : State, t.withdrawIf .localStop false true = t.withdraw .localStop := fun _ => rfl
    rw [e]
    exact .one .alarm (.alarm _ _ s hw rfl)

/-- A STOP's hand-over leaves the RESTART line's record. -/
theorem State.handStop_restart (s : State) : s.handStop.restart = s.restart := by
  refine s.handStop_touch.keeps (P := fun t => t.restart = s.restart) (fun l hl t u p h => ?_) rfl
  cases p with
  | shares hm => exact hm.restart.trans h
  | link => exact h
  | header => exact h
  | session => exact h
  | notes => exact h
  | _ => simp at hl

/-- Every command but three touches no more than the table gives it. -/
theorem exec_touches (c : Instr) (hc : wholePart c = false) (s : State) :
    ∃ t, exec c s = .next t ∧ Moves (touches c) s t := by
  have hlink : ∀ (L : List Touch) (f : Link → Link) (s : State), (s.link.Sound → (f s.link).Sound) →
      Touch.link ∈ L → Moves L s (s.modLink f) := fun L f s h hl => .modLink s h hl
  cases c with
  | coldStart => cases hc
  | restartAsserted => cases hc
  | restartReleased => cases hc
  | lineIdle =>
    refine ⟨_, rfl, .unless fun _ => .ite (fun _ => ?_) fun _ => ?_⟩
    · exact hlink _ _ s (fun h => ⟨h.room, h.attempts, h.empty, h.slots⟩) (by decide)
    · exact hlink _ _ s (fun h => h.idleEvent) (by decide)
  | lineBusy n =>
    simp only [touches]
    exact ⟨_, rfl, .unless fun _ => hlink _ _ s (fun h => h.busyEvent n) (by decide)⟩
  | collision =>
    refine ⟨_, rfl, .when fun ht => ?_⟩
    have h1 : Moves (touches .collision) s ({ s with link := (s.link.collide s.cfg.station).1 } : State) :=
      .one .link (.link _ s fun h => h.collide s.cfg.station ht)
    dsimp only
    split
    · exact h1.trans (State.discarded_touch _ _).mono
    · exact h1
  | backoffEnd =>
    exact ⟨_, rfl, .when fun ht => hlink _ _ s (fun h => h.beginAttempt (by simp [ht.1])) (by decide)⟩
  | readBackCompletion =>
    refine ⟨_, rfl, .when fun _ => ?_⟩
    split
    · have h1 : Moves (touches .readBackCompletion) s (s.modLink fun l => { l.popFront with rx := .skip }) :=
        hlink _ _ s (fun h => ⟨h.popFront.room, h.popFront.attempts, h.popFront.empty, h.popFront.slots⟩) (by decide)
      exact h1.trans (State.frameSent_touch _ _).mono
    · exact .refl s
  | brokenCharacter =>
    exact ⟨_, rfl, .when fun _ => hlink _ _ s (fun h => ⟨h.room, h.attempts, h.empty, h.slots⟩) (by decide)⟩
  | startByteMismatch =>
    exact ⟨_, rfl, .when fun _ => hlink _ _ s (fun h => ⟨h.room, h.attempts, h.empty, h.slots⟩) (by decide)⟩
  | stateReceived frame =>
    simp only [touches]
    refine ⟨_, rfl, s.receive_touch frame _ fun p f t hr => ?_⟩
    split
    · exact .trans (t.hear_touch p).mono (State.deliverState_touch _ _ _ _ _ _ (t.hear p) hr).mono
    · exact .refl t
  | claimReceived frame =>
    simp only [touches]
    refine ⟨_, rfl, s.receive_touch frame _ fun p f t hr => ?_⟩
    split
    · exact .trans (t.hear_touch p).mono (State.deliverClaim_touch _ _ _ _ _).mono
    · exact .refl t
  | yieldReceived frame =>
    simp only [touches]
    refine ⟨_, rfl, s.receive_touch frame _ fun p f t hr => ?_⟩
    split
    · exact .trans (t.hear_touch p).mono (State.deliverYield_touch _ _ _).mono
    · exact .refl t
  | permitClaimReceived frame =>
    simp only [touches]
    refine ⟨_, rfl, s.receive_touch frame _ fun p f t hr => ?_⟩
    split
    · exact .trans (t.hear_touch p).mono (State.deliverPermitClaim_touch _ _ _).mono
    · exact .refl t
  | revokeReceived frame =>
    simp only [touches]
    refine ⟨_, rfl, s.receive_touch frame _ fun p f t hr => ?_⟩
    split
    · exact .trans (t.hear_touch p).mono (.one .revoke (.revoke _ _ _))
    · exact .refl t
  | timeReceived frame =>
    simp only [touches]
    refine ⟨_, rfl, s.receive_touch frame _ fun p f t hr => ?_⟩
    split
    · exact .trans (t.hear_touch p).mono (State.deliverTime_touch _ _ _).mono
    · exact .refl t
  | stopReceived frame =>
    simp only [touches]
    refine ⟨_, rfl, s.receive_touch frame _ fun p f t hr => ?_⟩
    split
    · exact .trans (t.hear_touch p).mono (State.deliverStop_touch _ (t.hear p) hr).mono
    · exact .refl t
  | noteReceived frame =>
    simp only [touches]
    refine ⟨_, rfl, s.receive_touch frame _ fun p f t hr => ?_⟩
    split
    · exact (t.hear_touch p).mono
    · exact .refl t
  | noteRequestReceived frame =>
    simp only [touches]
    refine ⟨_, rfl, s.receive_touch frame _ fun p f t hr => ?_⟩
    split
    · exact .trans (t.hear_touch p).mono (State.deliverNoteRequest_touch _ _).mono
    · exact .refl t
  | noteTakenReceived frame =>
    simp only [touches]
    refine ⟨_, rfl, s.receive_touch frame _ fun p f t hr => ?_⟩
    split
    · exact .trans (t.hear_touch p).mono (State.deliverNoteTaken_touch _ _ _).mono
    · exact .refl t
  | clockSecond =>
    refine ⟨_, rfl, .when fun _ => .ite (fun h => ?_) fun h => ?_⟩
    · simp only [Bool.and_eq_true, decide_eq_true_eq] at h
      exact .one .newDay (.newDay _ s h.2)
    · refine .one .clock (.clock _ s fun hk => ?_)
      simp only [Bool.and_eq_true, decide_eq_true_eq, not_and] at h
      unfold Clock.tick
      by_cases hs : s.clock.second < 86399
      · rw [if_pos hs]; exact ⟨hk, rfl⟩
      · exact absurd hk (by
          have e : ({ s with clock := s.clock.tick s.now } : State).clock.dateKnown = s.clock.dateKnown := by
            show (s.clock.tick s.now).dateKnown = _
            unfold Clock.tick; split <;> rfl
          rw [← e]
          exact h (by omega))
  | peerStale p =>
    simp only [touches]
    exact ⟨_, rfl, .when fun _ => .modPeer p s⟩
  | peerGone p =>
    simp only [touches]
    refine ⟨_, rfl, .when fun _ => .trans (.modPeer p s) (State.retryFold_touch _ (fun t h => ?_) _).mono⟩
    unfold State.peerLeft
    split
    · exact .inl rfl
    · exact .inr rfl
  | pendingClaimExpiry p h =>
    simp only [touches]
    exact ⟨_, rfl, .modPeer p s⟩
  | listenPeriodEnd =>
    refine ⟨_, rfl, .unless fun ht => .trans (.one .listened (.listened _ s ht ?_)) (State.scan_touch _).mono⟩
    by_cases e : s.station = .configFault
    · exact .inr e
    · refine .inl ?_
      split
      · simp
      · exact e
  | statePeriodExpiry =>
    exact ⟨_, rfl, .unless fun _ => .trans (.one .other (.other none s.freeDraws s)) (State.composeState_touch _).mono⟩
  | present card =>
    simp only [touches]
    exact ⟨_, rfl, s.request_touch _ _ fun t _ => (t.presentCard_touch card).mono⟩
  | finish => exact ⟨_, rfl, s.request_touch _ _ fun t _ => t.finishSession_touch.mono⟩
  | plan c g p a =>
    simp only [touches]
    exact ⟨_, rfl, s.request_touch _ _ fun t _ => (t.planBatch_touch _ _ _ _).mono⟩
  | amend c p =>
    simp only [touches]
    exact ⟨_, rfl, s.request_touch _ _ fun t _ => (t.amendBatch_touch _ _).mono⟩
  | cancel c =>
    simp only [touches]
    exact ⟨_, rfl, s.request_touch _ _ fun t _ => (t.cancelBatch_touch _).mono⟩
  | start c =>
    simp only [touches]
    exact ⟨_, rfl, s.request_touch _ _ fun t _ => (t.startBatch_touch _).mono⟩
  | resume c =>
    simp only [touches]
    exact ⟨_, rfl, s.request_touch _ _ fun t _ => (t.resumeBatch_touch _).mono⟩
  | hold c =>
    simp only [touches]
    refine ⟨_, rfl, s.request_touch _ _ fun t _ => ?_⟩
    split
    · exact t.holdEvery_touch.mono
    · exact (t.holdOne_touch _).mono
  | statusSession => exact ⟨_, rfl, s.request_touch _ _ fun t _ => .refl t⟩
  | statusCompartment c =>
    simp only [touches]
    exact ⟨_, rfl, s.request_touch _ _ fun t _ => .refl t⟩
  | statusArm a =>
    simp only [touches]
    exact ⟨_, rfl, s.request_touch _ _ fun t _ => .refl t⟩
  | noteCopy n =>
    simp only [touches]
    refine ⟨_, rfl, s.request_touch _ _ fun t _ => ?_⟩
    unfold State.copyNote
    split <;> exact .refl t
  | clearStop => exact ⟨_, rfl, s.request_touch _ _ fun t hr => (t.clearLatch_touch hr).mono⟩
  | panelFormatError => exact ⟨_, rfl, s.frameEnd_touch _ (s.answer_touch _)⟩
  | panelFrameCut => exact ⟨_, rfl, s.frameEnd_touch _ (s.answer_touch _)⟩
  | panelAnswerComplete _ => exact ⟨_, rfl, .when fun _ => .one .panel (.panel _ s) (.head _)⟩
  | permitClaimWindowEnd =>
    refine ⟨_, rfl, .when fun h => ?_⟩
    have h1 : ∀ f : Session → Session, (f s.session).permit = s.session.permit →
        Moves [.session, .shares] s (s.modSession f) := fun f hf =>
      .one .session (.session (f s.session) s fun _ => ⟨.inl h.1, hf⟩)
    have h2 : ∀ t : State, Moves [.session, .shares] t t.startIdle.composeState.scan := fun t =>
      (t.startIdle_touch.mono.trans (State.composeState_touch _).mono).trans (State.scan_touch _).mono
    dsimp only
    exact .trans (h1 _ rfl) (h2 _)
  | idleTimerExpiry => exact ⟨_, rfl, .unless fun _ => s.enterEnding_touch _⟩
  | socketTimerExpiry => exact ⟨_, rfl, .unless fun _ => s.enterEnding_touch _⟩
  | tagReport tag =>
    simp only [touches]
    refine ⟨_, rfl, ?_⟩
    split
    · exact .refl s
    · exact .trans (.one .socket (.socket _ s)) (State.tagSeen_touch _ _).mono
  | unplugReport x =>
    simp only [touches]
    refine ⟨_, rfl, .unless fun _ => .trans (.trans (.one .socket (.socket none s)) (State.unplugged_touch _).mono) ?_⟩
    exact .unless fun _ => (State.setSocket_touch _ _ _).mono
  | socketStateReport b x =>
    simp only [touches]
    exact ⟨_, rfl, .unless fun _ => .ite (fun _ => s.setSocket_touch _ _) fun _ => s.setSocket_touch _ _⟩
  | settleWindowEnd h =>
    simp only [touches]
    refine ⟨_, rfl, ?_⟩
    split
    · rename_i c e
      split
      · exact s.evaluate_touch h c (by simp [e])
      · exact .refl s
    · exact .refl s
  | retryTimerExpiry h =>
    simp only [touches]
    exact ⟨_, rfl, .unless fun _ => s.retryTrigger_touch h⟩
  | yieldTimerExpiry h =>
    simp only [touches]
    refine ⟨_, rfl, .modHeader h s fun x => ⟨rfl, ?_⟩⟩
    cases e : x.slot <;> simp
  | holdOffExpiry a =>
    simp only [touches]
    exact ⟨_, rfl, .unless fun _ => .ite (fun _ => .trans (.modArm a s) (State.requestStepUp_touch a _).mono)
      fun _ => .modArm a s⟩
  | overdrawTimerExpiry a =>
    simp only [touches]
    exact ⟨_, rfl, .unless fun _ => .trans (.modArm a s) (State.closeDemand_touch a _ _ _ _)⟩
  | aPulse a =>
    simp only [touches]
    refine ⟨_, rfl, .when fun _ => .ite (fun _ => .trans (.modArm a s) (State.fullSlice_touch a _)) fun _ => .modArm a s⟩
  | bPulse a =>
    simp only [touches]
    exact ⟨_, rfl, .when fun _ => .modArm a s⟩
  | conversionComplete a r =>
    simp only [touches]
    exact ⟨_, rfl, .unless fun _ => .modArm a s⟩
  | noFlowExpiry a =>
    simp only [touches]
    exact ⟨_, rfl, .unless fun _ => .trans (.modArm a s) (State.closeDemand_touch a _ _ _ _)⟩
  | flowTimeSecond a =>
    simp only [touches]
    exact ⟨_, rfl, .unless fun _ => .modArm a s⟩
  | stepDownExpiry a =>
    simp only [touches]
    exact ⟨_, rfl, .unless fun _ => s.enterSettle_touch a⟩
  | settleTimerExpiry a =>
    simp only [touches]
    refine ⟨_, rfl, .unless fun _ => ?_⟩
    split
    · exact s.completeClose_touch a _
    · exact .refl s
  | noteIssue =>
    refine ⟨_, rfl, .when fun h => .trans (s.issueNote_touch ?_).mono (State.closeSession_touch _)⟩
    simp only [Bool.and_eq_true, State.issueFits] at h
    exact h.2.2
  | closeLimitExpiry a =>
    simp only [touches]
    exact ⟨_, rfl, .unless fun _ => .trans (.trans (.modArm a s) (State.recheckReservation_touch a _).mono)
      (State.flagOwner_touch a _ _).mono⟩
  | coupledInputChange a b =>
    simp only [touches]
    refine ⟨_, rfl, .unless fun _ => ?_⟩
    have h1 : Moves (.coupled :: closeTouch) s (s.modArm a fun m => { m with coupled := b }) :=
      .one .coupled (.coupled a b s)
    exact .ite (fun _ => h1) fun _ => .ite (fun _ => h1.trans (State.scan_touch _).mono) fun _ =>
      (h1.trans (State.closeDemand_touch a _ _ _ _).mono).trans (State.recheckReservation_touch a _).mono
  | feedbackPulse i =>
    simp only [touches]
    exact ⟨_, rfl, .unless fun _ => .ite (fun _ => (s.countFeedback_touch i).trans (State.endShot_touch _ _ _).mono)
      fun _ => s.countFeedback_touch i⟩
  | widthTimerExpiry i =>
    simp only [touches]
    exact ⟨_, rfl, .unless fun _ => s.endShot_touch _ i⟩
  | localStopActive =>
    refine ⟨_, rfl, .unless fun _ => .ite (fun h => ?_) fun _ => ?_⟩
    · exact .one .monitor (.monitor _ s (fun _ => .inr h) rfl)
    · have h1 := s.localStop_touch.mono (L' := touches .localStopActive)
      exact .ite (fun _ => h1) fun hr => (h1.trans (State.handStop_touch _).mono).trans
        (State.setOwnStop_touch _ _ (by rw [State.handStop_restart]; simpa using hr)).mono
  | localStopNormal =>
    refine ⟨_, rfl, .unless fun _ => .modMonitor s fun h => ?_⟩
    exact s.monitor.withdrawn_of_unlatched false s.monitor.stopLatch nofun
      (fun e => by simp [Monitor.stopInForce, e]) h
  | contactClosure c =>
    simp only [touches]
    refine ⟨_, rfl, .unless fun _ => ?_⟩
    have h1 : Moves [.monitor, .shares] s (s.modMonitor fun m => { m with contacts := m.contacts.set c true }) :=
      .modMonitor s fun h => h
    refine .ite (fun _ => h1) fun _ => .ite (fun _ => .ite (fun _ => ?_) fun _ => h1) fun _ =>
      .ite (fun _ => h1.trans (State.countClosure_touch c _).mono) fun _ => h1
    exact h1.trans (State.setJam_touch _ _).mono
  | contactOpening c =>
    simp only [touches]
    refine ⟨_, rfl, .unless fun _ => ?_⟩
    have h1 : Moves [.monitor, .shares] s
        (s.modMonitor fun m => { m with contacts := m.contacts.set c false, jam := none }) := .modMonitor s fun h => h
    exact .ite (fun _ => (h1.trans (State.stopDeadman_touch _).mono).trans (State.restoreIf_touch _ _).mono) fun _ => h1
  | deadmanWarning =>
    refine ⟨_, rfl, .when fun h => .modMonitor s fun hw => ?_⟩
    exact s.monitor.withdrawn_of_rested .warning (by decide) (by decide) _ s.monitor.counted s.monitor.jam _ hw
  | deadmanExpiry => exact ⟨_, rfl, .when fun _ => s.tripDeadman_touch _ (.inl rfl)⟩
  | jamTimerExpiry => exact ⟨_, rfl, .unless fun _ => s.tripDeadman_touch _ (.inr rfl)⟩
  | bypassKeyChange b =>
    simp only [touches]
    refine ⟨_, rfl, .unless fun _ => ?_⟩
    have h1 : Moves (.monitor :: closeTouch) s (s.modMonitor fun m => { m with bypass := b }) :=
      .modMonitor s fun h => h
    refine .ite (fun _ => h1) fun _ => .ite (fun _ => h1.trans (State.scan_touch _).mono) fun _ => ?_
    exact ((h1.trans (.eachArm _ (fun a s => (s.bypassOff_touch a).mono) _)).trans
      (.eachArm _ (fun a s => (s.recheckReservation_touch a).mono) _)).trans (State.scan_touch _).mono
  | retentionWriteEnd b =>
    simp only [touches]
    exact ⟨_, rfl, .unless fun _ => .trans (s.endWrite_touch b).mono (State.offerPlace_touch _).mono⟩
  | retentionWriteTimeout =>
    exact ⟨_, rfl, .unless fun _ => .trans (s.endWrite_touch false).mono (State.offerPlace_touch _).mono⟩

end Sys2Proof.Machine
end

