-- ==== Sys2Proof/Laws/Kept.lean ====
section
/-! SUPPORT. How an invariant is carried through the kinds of change: the four composite kinds reduced to the others
(`keeps_all`), what a stage move, a close demand and an abandonment leave. -/

namespace Sys2Proof.Machine

-- One proof at a time: a waiting proof holds a thread and its stack.
set_option Elab.async false

/-! ## Stage moves -/

/-- The arms after a stage move. -/
theorem State.moveStage_arm (a b : ArmId) (st : Stage) (s : State) : (s.moveStage a st).arm b =
    if b = a then { s.arm a with stage := st, heldShare := stageShare (s.armCfg a) (s.arm a) } else s.arm b := by
  unfold State.moveStage State.arm
  dsimp only
  by_cases e : b = a
  · subst e; simp
  · have : a.val ≠ b.val := fun h => e (Fin.ext h.symm)
    simp [Vector.getElem_set_ne, this, e]

/-- Own steady share after a stage move: the difference of the stage shares on the arm's header (R77). -/
theorem State.moveStage_ownShare (a : ArmId) (k : HeaderId) (st : Stage) (s : State) : ((s.moveStage a st).header k).ownShare =
    if k = (s.armCfg a).header then (s.header k).ownShare +
      stageShare (s.armCfg a) { s.arm a with stage := st, heldShare := stageShare (s.armCfg a) (s.arm a) } -
        stageShare (s.armCfg a) (s.arm a)
    else (s.header k).ownShare := by
  unfold State.moveStage State.header
  dsimp only
  by_cases e : k = (s.armCfg a).header
  · subst e; simp
  · have : (s.armCfg a).header.val ≠ k.val := fun h => e (Fin.ext h.symm)
    simp [Vector.getElem_set_ne, this, e]

/-- A stage move leaves every claim slot. -/
theorem State.moveStage_slot (a : ArmId) (k : HeaderId) (st : Stage) (s : State) :
    ((s.moveStage a st).header k).slot = (s.header k).slot := by
  unfold State.moveStage State.header
  dsimp only
  by_cases e : k = (s.armCfg a).header
  · subst e; simp
  · have : (s.armCfg a).header.val ≠ k.val := fun h => e (Fin.ext h.symm)
    simp [Vector.getElem_set_ne, this]

/-! ## The composite kinds -/

/-- The kinds of change that hold a run of others. -/
def composite : List Touch := [.alarm, .stops, .newDay, .revoke]

/-- A day change: the list pruned, then the session. -/
theorem State.dayChange_touch (s : State) : ∃ r, Moves enterTouch ({ s with revoked := r } : State) s.dayChange := by
  refine ⟨s.revoked.filter fun r => decide (s.clock.day ≤ r.endDay), ?_⟩
  unfold State.dayChange
  dsimp only
  split
  · split
    · exact State.dayEnd_touch _ _ _
    · exact .refl _
  · exact .refl _

/-- A REVOKE: the list, then the session. -/
theorem State.deliverRevoke_touch (a b : Nat) (s : State) :
    ∃ r, Moves enterTouch ({ s with revoked := r } : State) (s.deliverRevoke a b) := by
  refine ⟨revokeList a b s.revoked, ?_⟩
  unfold State.deliverRevoke
  dsimp only
  split
  · exact State.dayEnd_touch _ _ _
  · exact .refl _

/-- The stop set followed: the monitor's record, then the closes of a withdrawal. -/
theorem State.followStopSet_touch (s : State) : ∃ m : Monitor,
    Moves closeTouch ({ s with monitor := m } : State) s.followStopSet := by
  unfold State.followStopSet
  dsimp only
  split
  · exact ⟨s.monitor, .refl _⟩
  · refine ⟨{ s.monitor with terminal := s.stopSetNonempty }, ?_⟩
    split
    · exact State.withdraw_touch _ _
    · exact (State.restoreIf_touch _ _).mono

/-- What every simple kind keeps, and what a bare change of the monitor, the clock, the revocation list or the stop set
keeps, every kind keeps. -/
theorem Prim.keeps_all {P : State → Prop}
    (simple : ∀ l, l ∉ composite → ∀ s t, Prim l s t → P s → P t)
    (hm : ∀ (s : State) m, P s → P { s with monitor := m })
    (hc : ∀ (s : State) c, P s → P { s with clock := c })
    (hr : ∀ (s : State) r, P s → P { s with revoked := r })
    (hs : ∀ (s : State) v b l p, Link.Sends s.link l → P s →
      P { s with peers := v, ownStop := b, link := l, periodTimer := p })
    (l : Touch) (s t : State) (p : Prim l s t) (h : P s) : P t := by
  have run : ∀ L : List Touch, (∀ l ∈ L, l ∉ composite) → ∀ s t, Moves L s t → P s → P t := fun L hL s t hmv =>
    hmv.keeps fun l hl => simple l (hL l hl)
  by_cases hcp : l ∈ composite
  · cases p with
    | alarm m r s _ _ => exact run closeTouch (by decide) _ _ (State.withdraw_touch r _) (hm _ _ h)
    | stops v b l p s hl _ =>
      obtain ⟨m, hmv⟩ := State.followStopSet_touch
        ({ s with peers := v, ownStop := b, link := l, periodTimer := p } : State)
      exact run closeTouch (by decide) _ _ hmv (hm _ _ (hs _ _ _ _ _ hl h))
    | newDay c s _ =>
      obtain ⟨r, hmv⟩ := State.dayChange_touch ({ s with clock := c } : State)
      exact run enterTouch (by decide) _ _ hmv (hr _ _ (hc _ _ h))
    | revoke a b s =>
      obtain ⟨r, hmv⟩ := State.deliverRevoke_touch a b s
      exact run enterTouch (by decide) _ _ hmv (hr _ _ h)
    | _ => simp [composite] at hcp
  · exact simple l hcp s t p h

/-! ## Closes and abandonments -/

/-- The closes' kinds start no flow. -/
theorem Moves.noFlow (b : ArmId) {s t : State} (h : Moves enterTouch s t)
    (h0 : (s.arm b).stage.flowing = false) : (t.arm b).stage.flowing = false := by
  refine h.keeps (P := fun s => (s.arm b).stage.flowing = false) (fun l hl s t p h => ?_) h0
  have hv : ∀ (a : ArmId) (f : Arm → Arm) (s : State), (∀ m, (f m).stage = m.stage) →
      (s.arm b).stage.flowing = false → ((s.modArm a f).arm b).stage.flowing = false := by
    intro a f s hf h
    rw [State.arm_view Arm.stage a f hf s b]; exact h
  have hst : ∀ (a : ArmId) (st : Stage) (s : State), ((s.arm a).stage.flowing = true ∨ st.flowing = false) →
      (s.arm b).stage.flowing = false → ((s.moveStage a st).arm b).stage.flowing = false := by
    intro a st s hg h
    rw [State.moveStage_arm]; split
    · rename_i e; subst e
      rcases hg with hg | hg
      · rw [h] at hg; cases hg
      · exact hg
    · exact h
  cases p with
  | shares hm => show ((_ : State).arm b).stage.flowing = false; rw [hm.stage]; exact h
  | arm a f s hf => exact hv a f s (fun m => congrArg Prod.fst (hf m)) h
  | stage a st s hg => exact hst a st s hg h
  | shut a s => exact hv a _ _ (fun m => rfl) (hst a .closed s (.inr rfl) h)
  | header => exact h
  | batch => exact h
  | injector => exact h
  | session => exact h
  | monitor => exact h
  | writes => exact h
  | notes => exact h
  | _ => simp at hl

/-- A close begun leaves its arm closing, not flowing (R131). -/
theorem State.beginClose_noFlow (a : ArmId) (k : CloseKind) (r : Reason) (m : Manner) (s : State) :
    ((s.beginClose a k r m).arm a).stage.flowing = false := by
  have h1 : ((s.moveStage a .closing).arm a).stage.flowing = false := by rw [State.moveStage_arm, if_pos rfl]; rfl
  have h2 : ∀ (x : Option Close) (p q w : Timer), Moves enterTouch (s.moveStage a .closing)
      ((s.moveStage a .closing).modArm a fun m => { m.quiet with close := x, leak := false, stepDown := p, settle := q, closeLimit := w }) :=
    fun x p q w => .modArm a _
  have h3 : ∀ t u : State, Moves enterTouch t u → Moves enterTouch t (if m = .fast then u.cutArmShots a else u) :=
    fun t u h => .ite (fun _ => h.trans (u.cutArmShots_touch a).mono) fun _ => h
  unfold State.beginClose
  exact Moves.noFlow a ((h3 _ _ (h2 _ _ _ _)).trans (State.abandonStepUp_touch a _).mono) h1

/-- A close demand leaves its arm not flowing, the RESTART line not asserted (R131). -/
theorem State.closeDemand_noFlow (a : ArmId) (k : CloseKind) (r : Reason) (m : Manner) (s : State) (hr : s.restart = false) :
    ((s.closeDemand a k r m).arm a).stage.flowing = false := by
  unfold State.closeDemand
  rw [hr]
  simp only [Bool.false_eq_true, if_false]
  split
  · rename_i e; rw [e]; rfl
  · rename_i e
    have h0 : (s.arm a).stage.flowing = false := by rw [e]; rfl
    split
    · exact Moves.noFlow a (s.enterSettle_touch a).mono h0
    · exact h0
  · exact State.beginClose_noFlow a k r m s

/-- An abandonment leaves its header's slot FREE while no claim may be taken (R87). -/
theorem State.abandon_slot (h : HeaderId) (s : State) (hm : s.mayClaim = false) : ((s.abandon h).header h).slot = none := by
  unfold State.abandon
  split
  · assumption
  · rename_i c e
    have hd : (s.dropClaim h true).mayClaim = false := by rw [(s.dropClaim_moves h true).mayClaim]; exact hm
    have hp : (s.dropClaim h true).passOn h = s.dropClaim h true := by unfold State.passOn; rw [hd]; simp
    rw [hp]
    unfold State.dropClaim
    rw [e]
    have h1 : ∀ u : State, (u.header h).slot = none → SharesMove s u → ∀ v, SharesMove u v → (v.header h).slot = none := by
      intro u hu hsu v huv
      by_contra hc
      rcases huv.slots h hc with x | x
      · exact x hu
      · rw [hsu.mayClaim, hm] at x; cases x
    have h0 : ((s.modHeader h fun x => { x with slot := none }).header h).slot = none := by
      rw [State.header_modHeader]; simp
    have hs0 : SharesMove s (s.modHeader h fun x => { x with slot := none }) := .modHeader h s fun e => absurd rfl e
    dsimp only
    have h2 : SharesMove (s.modHeader h fun x => { x with slot := none })
        (match c.kind with
          | .low => (s.modHeader h fun x => { x with slot := none }).modArm c.arm fun m => { m with reserved := none }
          | .stepUp => (s.modHeader h fun x => { x with slot := none }).modArm c.arm fun m => { m with stepUp := .none }) := by
      split
      · exact .modArm _ _
      · exact .modArm _ _
    split
    · exact h1 _ h0 hs0 _ (h2.trans (State.composeState_moves _))
    · exact h1 _ h0 hs0 _ h2

end Sys2Proof.Machine
end

