-- ==== Sys2Proof/Laws/Layout.lean ====
section
/-! SUPPORT. The encoding rules of R187: numbers to bytes and back, the CRC's width, a record followed by its check
value agrees with it. -/

namespace Sys2Proof.Machine

-- One proof at a time: a waiting proof holds a thread and its stack.
set_option Elab.async false

theorem beBytes_length (w n : Nat) : (beBytes w n).length = w := by
  induction w with
  | zero => rfl
  | succ w ih => simp [beBytes, ih]

theorem beValue_cons (b : Byte) (bs : List Byte) : beValue (b :: bs) = b.toNat * 256 ^ bs.length + beValue bs := by
  have key : ∀ (bs : List Byte) (k : Nat),
      bs.foldl (fun acc b => acc * 256 + b.toNat) k = k * 256 ^ bs.length + beValue bs := by
    intro bs
    induction bs with
    | nil => intro k; simp [beValue]
    | cons c cs ih =>
      intro k
      simp only [List.foldl_cons, beValue, List.length_cons]
      rw [ih, ih (0 * 256 + c.toNat)]
      ring
  unfold beValue
  rw [List.foldl_cons, key]
  simp [beValue]

/-- A number carried in enough bytes is read back. -/
theorem beValue_beBytes (w n : Nat) (h : n < 256 ^ w) : beValue (beBytes w n) = n := by
  have key : ∀ w n, beValue (beBytes w n) = n % 256 ^ w := by
    intro w
    induction w with
    | zero => intro n; simp [beBytes, beValue, Nat.mod_one]
    | succ w ih =>
      intro n
      rw [beBytes, beValue_cons, beBytes_length, ih, BitVec.toNat_ofNat, pow_succ 256 w, Nat.mod_mul, Nat.add_comm,
        Nat.mul_comm]
  rw [key, Nat.mod_eq_of_lt h]

theorem crcBit_lt (c b : Nat) : crcBit c b < 65536 := by
  unfold crcBit
  cases h : (c / 32768 + b) % 2 == 0
  · simp only [cond_false]
    exact Nat.xor_lt_two_pow (n := 16) (by omega) (by omega)
  · simp only [cond_true]
    omega

theorem crcByte_lt (c b : Nat) : crcByte c b < 65536 := by
  unfold crcByte
  simp only [List.foldl_cons, List.foldl_nil]
  exact crcBit_lt _ _

/-- The CRC of any bytes fits its two bytes. -/
theorem crc16_lt (bs : List Byte) : crc16 bs < 65536 := by
  have key : ∀ (bs : List Byte) (c : Nat), c < 65536 → crcFrom bs c < 65536 := by
    intro bs
    induction bs with
    | nil => exact fun c h => h
    | cons b bs ih =>
      intro c _
      have hb := crcByte_lt c b.toNat
      simp only [crcFrom]
      split
      · exact ih 0 (by omega)
      · rename_i n e; exact ih (n + 1) (by omega)
  exact key bs _ (by norm_num)

theorem withCheck_length (bs : List Byte) : (withCheck bs).length = bs.length + 2 := by
  simp [withCheck, beBytes_length]

/-- A record followed by its check value agrees with it. -/
theorem checkAgrees_withCheck (bs : List Byte) : checkAgrees (withCheck bs) = true := by
  have hl := withCheck_length bs
  unfold checkAgrees
  rw [hl]
  simp only [Nat.add_sub_cancel, Bool.and_eq_true, decide_eq_true_eq, beq_iff_eq]
  refine ⟨by omega, ?_⟩
  unfold withCheck
  rw [List.take_left, List.drop_left, beValue_beBytes 2 _ (by have := crc16_lt bs; norm_num; omega)]

end Sys2Proof.Machine
end

