-- ==== Sys2Proof/Laws/Queue.lean ====
section
/-! SUPPORT. What a hand-over does to the transmit queue: the place a STOP and a STATE take (R8, R9), and that every
operation keeps Link.Orderly. -/

namespace Sys2Proof.Machine

-- One proof at a time: a waiting proof holds a thread and its stack.
set_option Elab.async false

variable {l : Link} {f : TxFrame}

/-! ## Kinds -/

theorem TxFrame.isState_iff : f.isState = true ↔ f.tag = .state := by simp [TxFrame.isState]

theorem TxFrame.isStop_iff : f.isStop = true ↔ f.tag = .stop := by simp [TxFrame.isStop]

theorem TxFrame.isStop_of_isState (h : f.isState = true) : f.isStop = false := by
  simp [TxFrame.isStop, TxFrame.isState_iff.mp h]

/-- No STATE in a list of frames, in the two spellings. -/
theorem no_state (q : List TxFrame) : q.any TxFrame.isState = false ↔ ∀ g ∈ q, g.tag ≠ .state := by
  simp [List.any_eq_false, TxFrame.isState]

theorem some_state (q : List TxFrame) : q.any TxFrame.isState = true ↔ ∃ g ∈ q, g.tag = .state := by
  simp [List.any_eq_true, TxFrame.isState]

theorem takeWhile_stops (stops more : List TxFrame) (hs : ∀ x ∈ stops, x.tag = .stop)
    (hm : ∀ x, more.head? = some x → x.tag ≠ .stop) :
    ((stops ++ more).takeWhile TxFrame.isStop).length = stops.length := by
  induction stops with
  | nil =>
    cases more with
    | nil => rfl
    | cons g _ => have := hm g rfl; simp [TxFrame.isStop, this]
  | cons g rest ih =>
    have hg := TxFrame.isStop_iff.mpr (hs g (.head _))
    simp [hg, ih fun x hx => hs x (.tail _ hx)]

/-! ## Parts of a hand-over -/

@[simp] theorem Link.beginAttempt_queue : l.beginAttempt.queue = l.queue := rfl

@[simp] theorem Link.startIfReady_queue : l.startIfReady.queue = l.queue := by
  unfold Link.startIfReady; split <;> rfl

@[simp] theorem Link.wake_queue : l.wake.queue = l.queue := by
  unfold Link.wake; rw [Link.startIfReady_queue]; split <;> rfl

theorem Link.enterStop_queue (q : List TxFrame) : (l.enterStop f q).queue =
    insertAt (headPlace l.inProgress (if l.inProgress then q else oneStateWaits q)) f
      (if l.inProgress then q else oneStateWaits q) := Link.wake_queue

@[simp] theorem Link.pushTail_queue : (l.pushTail f).1.queue = if l.queue.length < 8 then l.queue ++ [f] else l.queue := by
  unfold Link.pushTail; split
  · rename_i h; rw [if_pos (show l.queue.length < 8 from h), Link.wake_queue]
  · rename_i h; rw [if_neg (show ¬ l.queue.length < 8 from h)]

theorem replaceFirst_split (p : TxFrame → Bool) (f g : TxFrame) (before after : List TxFrame) (hg : p g = true)
    (hb : ∀ x ∈ before, p x = false) : replaceFirst p f (before ++ g :: after) = before ++ f :: after := by
  induction before with
  | nil => simp [replaceFirst, hg]
  | cons x rest ih => simp [replaceFirst, hb x (.head _), ih fun y hy => hb y (.tail _ hy)]

/-! ## Places -/

/-- Where a STOP enters (R8, R9): StopEntered, on a queue with none waiting. -/
theorem Link.enterStop_entered (q : List TxFrame)
    (hw : ∀ g ∈ (if l.inProgress then q.drop 1 else q), g.tag ≠ .stop) :
    StopEntered l.tx f q (l.enterStop f q).queue := by
  have none (r : List TxFrame) (hr : ∀ g ∈ r, g.tag ≠ .stop) : r.takeWhile TxFrame.isStop = [] := by
    cases r with
    | nil => rfl
    | cons g _ => simp [TxFrame.isStop, hr g (.head _)]
  rw [Link.enterStop_queue]
  refine ⟨?_, fun hp front rest hq => ?_, fun h1 h2 front rest hq hs => ?_, fun h1 h2 front rest hq hf hs => ?_⟩
  · rintro rfl; simp [headPlace, insertAt, oneStateWaits]
  · have hi : l.inProgress = true := by rcases hp with e | e <;> simp [Link.inProgress, e]
    subst hq
    simp only [hi, if_true, List.drop_succ_cons, List.drop_zero] at hw ⊢
    simp [headPlace, insertAt, none rest hw]
  · have hi : l.inProgress = false := by simp [Link.inProgress, h1, h2]
    subst hq
    simp only [hi, Bool.false_eq_true, if_false] at hw ⊢
    have hk : oneStateWaits (front :: rest) = front :: rest := by
      rw [oneStateWaits]
      have : (front.isState && rest.any TxFrame.isState) = false := by
        rcases hs with h | h
        · simp [TxFrame.isState, h]
        · simp [(no_state rest).mpr h]
      simp [this]
    rw [hk]
    simp [headPlace, insertAt, none _ hw]
  · have hi : l.inProgress = false := by simp [Link.inProgress, h1, h2]
    subst hq
    simp only [hi, Bool.false_eq_true, if_false] at hw ⊢
    have hk : oneStateWaits (front :: rest) = rest := by
      simp [oneStateWaits, TxFrame.isState_iff.mpr hf, (some_state rest).mpr hs]
    rw [hk]
    simp [headPlace, insertAt, none rest fun g hg => hw g (.tail _ hg)]

/-- Where a STATE enters that clears no stop flag (R8, R9, log 11). -/
theorem Link.pushStateTail_entered : StateEntered l.tx false f l.queue (l.pushStateTail f).queue := by
  unfold Link.pushStateTail
  refine ⟨fun h => ?_, fun _ front before g after h hg hb => ?_, fun _ ht front rest h hf hr => ?_,
    fun _ front rest h hf hr => ?_, nofun, nofun, nofun⟩
  · simp [h]
  · rw [h]
    have hg' := TxFrame.isState_iff.mpr hg
    have : (before ++ g :: after).any TxFrame.isState = true := by simp [hg']
    simp only [List.cons_append, this, if_true]
    rw [replaceFirst_split _ _ _ _ _ hg' fun x hx => by simp [TxFrame.isState, hb x hx]]
  · rw [h]
    simp [(no_state rest).mpr hr, TxFrame.isState_iff.mpr hf, ht]
  · have hc : (front.isState && l.tx != .sending) = false := by
      rcases hf with e | e
      · simp [TxFrame.isState, e]
      · simp [e]
    rw [h]
    simp only [(no_state rest).mpr hr, hc, Bool.false_eq_true, if_false, Link.pushTail_queue, h]

/-- Where a STATE enters that clears a stop flag announced before (R8, R9). -/
theorem Link.pushStateHead_entered : StateEntered l.tx true f l.queue (l.pushStateHead f).queue := by
  unfold Link.pushStateHead
  refine ⟨fun h => ?_, nofun, nofun, nofun, fun _ front rest stops more h hp hq hs hm hn => ?_,
    fun _ front rest stops more h h1 h2 hf hq hs hm hn => ?_, fun _ front rest h hn => ?_⟩
  · simp [h, headPlace, insertAt, Config.txCapacity]
  · have hb : (l.inProgress || front.isState) = true := by
      rcases hp with e | e | e <;> simp [Link.inProgress, TxFrame.isState, e]
    simp only [h, List.take_succ_cons, List.take_zero, List.drop_succ_cons, List.drop_zero, List.cons_append,
      List.nil_append, hb]
    rw [hq, if_pos (by simp only [Config.txCapacity, List.length_cons]; omega)]
    simp [headPlace, insertAt, takeWhile_stops _ _ hs hm, Nat.add_comm 1]
  · have hb : (l.inProgress || front.isState) = false := by
      simp [Link.inProgress, TxFrame.isState, h1, h2, hf]
    simp only [h, List.take_succ_cons, List.take_zero, List.drop_succ_cons, List.drop_zero, List.cons_append,
      List.nil_append, hb]
    rw [hq, if_pos (show _ < Config.txCapacity from hn)]
    simp [headPlace, insertAt, takeWhile_stops _ _ hs hm]
  · simp only [h, List.take_succ_cons, List.take_zero, List.drop_succ_cons, List.drop_zero, List.cons_append,
      List.nil_append]
    rw [if_neg (by simp only [Config.txCapacity, List.length_cons]; omega), h]

/-! ## One STATE and one STOP behind the front -/

/-- What is behind the front of a shorter queue was behind it before. -/
theorem drop_one_sublist {p q : List TxFrame} (h : p.Sublist q) : (p.drop 1).Sublist (q.drop 1) := by
  cases h with
  | slnil => exact .slnil
  | cons _ h => exact (List.drop_sublist 1 _).trans h
  | cons_cons _ h => exact h

/-- Frames that go leave Link.Orderly. -/
theorem Link.Orderly.sublist (h : l.Orderly) {m : Link} (hq : m.queue.Sublist l.queue) : m.Orderly where
  states := (((drop_one_sublist hq).filter _).length_le).trans h.states
  stops := (((drop_one_sublist hq).filter _).length_le).trans h.stops

/-- Link.Orderly is about the queue alone. -/
theorem Link.Orderly.same (h : l.Orderly) {m : Link} (hq : m.queue = l.queue) : m.Orderly := h.sublist (by rw [hq])

theorem Link.Orderly.popFront (h : l.Orderly) : l.popFront.Orderly := h.sublist (List.tail_sublist _)

theorem Link.Orderly.purge (h : l.Orderly) : l.purge.Orderly := by
  unfold Link.purge
  dsimp only
  split
  · split
    · exact h.sublist List.filter_sublist
    · exact h.sublist (by rw [Link.startIfReady_queue]; exact List.filter_sublist)
  · exact h

theorem Link.Orderly.collide (h : l.Orderly) (station : StationId) : (l.collide station).1.Orderly := by
  unfold Link.collide
  dsimp only
  split
  · exact h.same rfl
  · split
    · split
      · exact h.same rfl
      · exact h.popFront
    · exact h.popFront

theorem Link.Orderly.pushTail (h : l.Orderly) (hf : f.isStop = false) (hs : f.isState = false) :
    (l.pushTail f).1.Orderly := by
  have hd : ∀ p : TxFrame → Bool, p f = false →
      (((l.queue ++ [f]).drop 1).filter p).length ≤ ((l.queue.drop 1).filter p).length := by
    intro p hp
    cases hq : l.queue with
    | nil => simp
    | cons g rest => simp [hp]
  constructor
  · rw [Link.pushTail_queue]; split
    · exact (hd _ hs).trans h.states
    · exact h.states
  · rw [Link.pushTail_queue]; split
    · exact (hd _ hf).trans h.stops
    · exact h.stops

theorem replaceFirst_count (q : List TxFrame) (hs : f.isState = true) :
    ((replaceFirst TxFrame.isState f q).filter TxFrame.isState).length = (q.filter TxFrame.isState).length ∧
      ((replaceFirst TxFrame.isState f q).filter TxFrame.isStop).length = (q.filter TxFrame.isStop).length := by
  induction q with
  | nil => exact ⟨rfl, rfl⟩
  | cons g rest ih =>
    have hp := TxFrame.isStop_of_isState hs
    simp only [replaceFirst]
    by_cases hg : g.isState = true
    · simp [hg, hs, hp, TxFrame.isStop_of_isState hg]
    · simp only [hg, Bool.false_eq_true, if_false, List.filter_cons]
      refine ⟨ih.1, ?_⟩
      split <;> simp [ih.2]

theorem Link.Orderly.pushStateTail (h : l.Orderly) (hs : f.isState = true) : (l.pushStateTail f).Orderly := by
  have hp := TxFrame.isStop_of_isState hs
  unfold Link.pushStateTail
  split
  · rename_i hq
    constructor <;> simp [hq]
  · rename_i front rest hq
    have h1 := h.states
    have h2 := h.stops
    simp only [hq, List.drop_succ_cons, List.drop_zero] at h1 h2
    split
    · have hc := replaceFirst_count (f := f) rest hs
      exact ⟨by simpa [hc.1] using h1, by simpa [hc.2] using h2⟩
    · rename_i hr
      split
      · exact ⟨by simpa using h1, by simpa using h2⟩
      · have h0 : rest.filter TxFrame.isState = [] := List.filter_eq_nil_iff.mpr fun g hg e =>
          hr (List.any_eq_true.mpr ⟨g, hg, e⟩)
        constructor
        · rw [Link.pushTail_queue]; split
          · simp [hq, h0, hs]
          · simpa [hq] using h1
        · rw [Link.pushTail_queue]; split
          · simpa [hq, hp] using h2
          · simpa [hq] using h2

theorem insertAt_zero (f : TxFrame) (q : List TxFrame) : insertAt 0 f q = f :: q := by simp [insertAt]

theorem insertAt_succ (n : Nat) (f g : TxFrame) (q : List TxFrame) :
    insertAt (n + 1) f (g :: q) = g :: insertAt n f q := by simp [insertAt]

theorem insertAt_count (p : TxFrame → Bool) (n : Nat) (f : TxFrame) (q : List TxFrame) :
    ((insertAt n f q).filter p).length = (q.filter p).length + (if p f then 1 else 0) := by
  have h : (q.filter p).length = ((q.take n).filter p).length + ((q.drop n).filter p).length := by
    rw [← List.length_append, ← List.filter_append, List.take_append_drop]
  unfold insertAt
  rw [List.filter_append, List.length_append, List.filter_cons, h]
  split
  · simp only [List.length_cons]; omega
  · omega

theorem Link.Orderly.pushStateHead (h : l.Orderly) (hs : f.isState = true) : (l.pushStateHead f).Orderly := by
  have hp := TxFrame.isStop_of_isState hs
  unfold Link.pushStateHead
  dsimp only
  split
  · refine Link.Orderly.same (l := { l with queue := insertAt _ f _ }) ?_ Link.wake_queue
    cases hq : l.queue with
    | nil => constructor <;> simp [headPlace, insertAt]
    | cons front rest =>
      simp only [List.take_succ_cons, List.take_zero, List.drop_succ_cons, List.drop_zero, List.cons_append,
        List.nil_append]
      have h0 : (rest.filter fun g => !g.isState).filter TxFrame.isState = [] := by
        simp [List.filter_filter]
      have h2 : ((rest.filter fun g => !g.isState).filter TxFrame.isStop).length ≤ 1 := by
        have := h.stops
        simp only [hq, List.drop_succ_cons, List.drop_zero] at this
        exact ((List.filter_sublist.filter _).length_le).trans this
      generalize rest.filter (fun g => !g.isState) = r at h0 h2
      have behind (n : Nat) : ({ l with queue := front :: insertAt n f r } : Link).Orderly := by
        constructor <;> simp [insertAt_count, h0, h2, hs, hp]
      by_cases hb : (l.inProgress || front.isState) = true
      · rw [hb]
        simp only [headPlace, List.isEmpty_cons, Bool.not_false, Bool.and_true, if_true, List.drop_succ_cons,
          List.drop_zero, Nat.add_comm 1]
        rw [insertAt_succ]
        exact behind _
      · have hf : front.isState = false := by simp at hb; exact hb.2
        simp only [Bool.not_eq_true] at hb
        rw [hb]
        simp only [headPlace, Bool.false_and, Bool.false_eq_true, if_false, List.drop_zero, Nat.zero_add,
          List.takeWhile_cons]
        by_cases hfs : front.isStop = true
        · rw [if_pos hfs, List.length_cons, insertAt_succ]
          exact behind _
        · rw [if_neg hfs, List.length_nil, insertAt_zero]
          constructor <;> simp [hf, hfs, h0, h2]
  · exact h

theorem Link.Orderly.enterStop (hf : f.isStop = true) (q : List TxFrame)
    (hw : ∀ g ∈ (if l.inProgress then q.drop 1 else q), g.tag ≠ .stop)
    (h : ((q.drop 1).filter TxFrame.isState).length ≤ 1) : (l.enterStop f q).Orderly := by
  have hs : f.isState = false := by simp [TxFrame.isState, TxFrame.isStop_iff.mp hf]
  have e := Link.enterStop_entered (l := l) (f := f) q hw
  have none (r : List TxFrame) (hr : ∀ g ∈ r, g.tag ≠ .stop) : r.filter TxFrame.isStop = [] :=
    List.filter_eq_nil_iff.mpr fun g hg => by simp [TxFrame.isStop, hr g hg]
  cases q with
  | nil =>
    have := e.empty rfl
    constructor <;> simp [this]
  | cons front rest =>
    simp only [List.drop_succ_cons, List.drop_zero] at h hw
    by_cases hi : l.inProgress = true
    · have hp : l.tx = .sending ∨ l.tx = .backoff := by simpa [Link.inProgress] using hi
      have hn := e.behind hp front rest rfl
      simp only [hi, if_true] at hw
      constructor <;> simp [hn, hf, hs, h, none rest hw]
    · have ht : l.tx ≠ .sending ∧ l.tx ≠ .backoff := by simpa [Link.inProgress] using hi
      simp only [Bool.not_eq_true] at hi
      simp only [hi, Bool.false_eq_true, if_false] at hw
      have hr := none rest fun g hg => hw g (.tail _ hg)
      by_cases hc : front.tag = .state ∧ ∃ g ∈ rest, g.tag = .state
      · have hn := e.newer ht.1 ht.2 front rest rfl hc.1 hc.2
        exact ⟨by simpa [hn] using h, by simp [hn, hr]⟩
      · have hc' : front.tag ≠ .state ∨ ∀ g ∈ rest, g.tag ≠ .state := by
          by_cases hx : front.tag = .state
          · exact .inr fun g hg e => hc ⟨hx, g, hg, e⟩
          · exact .inl hx
        have hn := e.first ht.1 ht.2 front rest rfl hc'
        have hfs : front.isStop = false := by simp [TxFrame.isStop, hw front (.head _)]
        refine ⟨?_, by simp [hn, hr, hfs]⟩
        rcases hc' with hx | hx
        · have : front.isState = false := by simp [TxFrame.isState, hx]
          simpa [hn, this] using h
        · have : rest.filter TxFrame.isState = [] :=
            List.filter_eq_nil_iff.mpr fun g hg => by simp [TxFrame.isState, hx g hg]
          simp only [hn, List.drop_succ_cons, List.drop_zero, List.filter_cons, this]
          split <;> simp

theorem Link.Orderly.pushStop (h : l.Orderly) (hf : f.isStop = true) : (l.pushStop f).1.Orderly := by
  unfold Link.pushStop
  split
  · exact h
  · rename_i hn
    have hw : ∀ g ∈ l.waiting, g.tag ≠ .stop := fun g hg e =>
      hn (List.any_eq_true.mpr ⟨g, hg, TxFrame.isStop_iff.mpr e⟩)
    unfold Link.waiting at hw
    split
    · exact .enterStop hf _ hw h.states
    · split
      · exact h
      · rename_i g _
        have hsub : (l.queue.filter (·.id != g.id)).Sublist l.queue := List.filter_sublist
        refine .enterStop hf _ (fun x hx => hw x ?_) (((drop_one_sublist hsub).filter _).length_le.trans h.states)
        split
        · rename_i hi
          rw [if_pos hi] at hx
          exact (drop_one_sublist hsub).subset hx
        · rename_i hi
          rw [if_neg hi] at hx
          exact hsub.subset hx

/-- Hand-overs of frames other than STOP keep Link.Orderly. -/
theorem Link.Sends.orderly {l m : Link} (h : Link.Sends l m) : l.Orderly → m.Orderly := by
  induction h with
  | refl => exact id
  | trans _ _ h1 h2 => exact fun h => h2 (h1 h)
  | numbered => exact fun h => h.same rfl
  | tail l f hf hs => exact fun h => h.pushTail hf hs
  | stateHead l f hs => exact fun h => h.pushStateHead hs
  | stateTail l f hs => exact fun h => h.pushStateTail hs
  | announced l b => exact fun h => h.same rfl

end Sys2Proof.Machine
end

