-- ==== Sys2Proof/WellFormed.lean ====
section
/-! DEFINITION. Which commands can stand for an event of the part's lines: the shape a frame, record or report
has by its own layout (chapter 13). A command's meaning does not depend on these checks. -/

namespace Sys2Proof

/-- The length the header of a link frame calls for, header and CRC included: R188's short and long forms. -/
def headerLength : List Byte → Option Nat
  | b0 :: b1 :: rest =>
    if b0.getLsbD 7 then
      match rest with
      | b2 :: _ => some (3 + ((b1.toNat % 2) * 256 + b2.toNat) + 2)
      | [] => none
    else some (2 + b1.toNat % 16 + 2)
  | _ => none

/-- A frame's bytes as the receiver takes them: as many as its header gives, of the kind `code` of its row or of a
kind code that R188 leaves unknown. -/
def frameShape (code : Nat) (frame : List Byte) : Bool :=
  headerLength frame == some frame.length &&
    match frame with
    | _ :: b1 :: _ => b1.toNat / 16 == code || b1.toNat / 16 == 0 || decide (10 < b1.toNat / 16)
    | _ => false

/-- The checks, command by command. A conversion result is one of 16 signed bits (log 48). -/
def wellFormed : Instr → Bool
  | .coldStart preload _ _ => decide (preload.length ≤ 6510)
  | .restartAsserted => true
  | .restartReleased => true
  | .lineIdle => true
  | .collision => true
  | .backoffEnd => true
  | .readBackCompletion => true
  | .brokenCharacter => true
  | .stateReceived frame => frameShape 1 frame
  | .claimReceived frame => frameShape 2 frame
  | .yieldReceived frame => frameShape 3 frame
  | .permitClaimReceived frame => frameShape 4 frame
  | .revokeReceived frame => frameShape 5 frame
  | .timeReceived frame => frameShape 6 frame
  | .stopReceived frame => frameShape 7 frame
  | .noteReceived frame => frameShape 8 frame
  | .noteRequestReceived frame => frameShape 9 frame
  | .noteTakenReceived frame => frameShape 10 frame
  | .clockSecond => true
  | .peerStale _ => true
  | .peerGone _ => true
  | .pendingClaimExpiry _ _ => true
  | .listenPeriodEnd => true
  | .statePeriodExpiry => true
  | .present card => card.length == 12
  | .finish => true
  | .plan _ _ _ _ => true
  | .amend _ _ => true
  | .cancel _ => true
  | .start _ => true
  | .resume _ => true
  | .hold _ => true
  | .statusSession => true
  | .statusCompartment _ => true
  | .statusArm _ => true
  | .noteCopy _ => true
  | .clearStop => true
  | .panelFormatError => true
  | .panelFrameCut => true
  | .panelAnswerComplete _ => true
  | .permitClaimWindowEnd => true
  | .idleTimerExpiry => true
  | .socketTimerExpiry => true
  | .tagReport tag => decide (10 ≤ tag.length ∧ tag.length ≤ 31)
  | .unplugReport _ => true
  | .socketStateReport body _ => body.length == 9
  | .settleWindowEnd _ => true
  | .retryTimerExpiry _ => true
  | .yieldTimerExpiry _ => true
  | .holdOffExpiry _ => true
  | .overdrawTimerExpiry _ => true
  | .aPulse _ => true
  | .bPulse _ => true
  | .conversionComplete _ result => decide (-32768 ≤ result ∧ result ≤ 32767)
  | .noFlowExpiry _ => true
  | .flowTimeSecond _ => true
  | .stepDownExpiry _ => true
  | .settleTimerExpiry _ => true
  | .noteIssue => true
  | .closeLimitExpiry _ => true
  | .coupledInputChange _ _ => true
  | .feedbackPulse _ => true
  | .widthTimerExpiry _ => true
  | .localStopActive => true
  | .localStopNormal => true
  | .contactClosure _ => true
  | .contactOpening _ => true
  | .deadmanWarning => true
  | .deadmanExpiry => true
  | .jamTimerExpiry => true
  | .bypassKeyChange _ => true
  | .retentionWriteEnd _ => true
  | .retentionWriteTimeout => true
  | .lineBusy slots => decide (slots ≤ 16)
  | .startByteMismatch => true

/-- A command that can stand for an event of the part's lines. -/
abbrev WellFormed (i : Instr) : Prop := wellFormed i = true

end Sys2Proof
end

