-- ==== Sys2Proof/Tests/Slice0.lean ====
section
/-! SUPPORT. Tests: the checks of WellFormed, one step of each command against figures of the manual, and for each
statement the states and operands that meet its hypotheses. -/

namespace Sys2Proof.Tests

open Sys2Proof Sys2Proof.Machine

-- One proof at a time: each kernel evaluation below would otherwise wait on a thread of its own.
set_option Elab.async false

/-! ## Helpers -/

/-- The state after one command. -/
def after (c : Instr) (s : State) : State :=
  match exec c s with
  | .next t => t
  | .fault _ => s
  | .refused _ => s

/-- The configured values of 7.10.1 and 9.10: station 9, header 3 of 40 units, arms 0 to 2, injector 1 on arm 1. -/
def cfg : ConfigImage where
  station := 9
  headers := (Vector.replicate 8 ⟨false, 0, 1, 0, 0⟩).set 3 ⟨true, 2, 40, 12000, 1150⟩
  grades := ((Vector.replicate 16 ⟨false, 0, none, 1⟩).set 1 ⟨true, 3, none, 1⟩).set 3 ⟨true, 3, some 1, 200⟩
  arms := (Vector.replicate 4 ⟨true, 3, 40000, 10012, 9985, 300, 400, 5, 13, 200, 300, 1500, 400⟩).set 3
    ⟨false, 0, 1000, 10000, 10000, 0, 1, 1, 2, 0, 0, 0, 0⟩
  injectors := (Vector.replicate 4 ⟨false, 0, 0, 100, 10, 1, 1, 0⟩).set 1 ⟨true, 1, 1, 2000, 300, 250, 10, 50⟩
  deadman := 120
  idleLimit := 300
  pulseLimit := 0
  minBatch := 10

def permit : Permit := ⟨30418, 211, 255, 1, 1000⟩
def tag : Tag := ⟨5120774, [10000, 9000, 8000]⟩

/-- RUNNING at a coupled tanker, no session. -/
def bay : State :=
  { State.reset with
    now := 50000
    station := .running
    faultKind := none
    cfg := cfg
    periodTimer := some 50700
    link := { Link.cold with
      rx := .hunt
      nextId := 40 }
    clock := ⟨410, 3600, true, 49600⟩
    socketView := some tag
    arms := Vector.replicate 4 (Arm.cold 1500 400 0 0 true)
    monitor := { Monitor.cold with
      ground := true
      sensors := Vector.replicate 8 .dry } }

def session (st : SessionState) : Session :=
  { Session.cold with
    state := st
    permit := some permit
    tag := some tag
    checkFrame := 7 }

/-- A session in a state. -/
def inSession (st : SessionState) : State := { bay with session := session st }

/-- ADMITTED with the idle timer running. -/
def admitted : State := { bay with session := { session .admitted with
  start := some (410, 3000)
  outcome := some .admitted
  idle := some 300000 } }

def batch (st : BatchState) : Batch :=
  { grade := 1
    preset := 6000
    pendPreset := none
    named := none
    state := st
    started := false
    suspReason := none
    suspCount := 0
    lastArm := none
    saved := false
    savedAcc := Accum.zero
    flags := LineFlags.empty }

def started (st : BatchState) : Batch :=
  { batch st with
    started := true
    lastArm := some 1
    saved := true }

/-- ADMITTED with a batch in compartment 2. -/
def holding (b : Batch) : State := { admitted with batches := (Vector.replicate 8 none).set 1 (some b) }

/-- ADMITTED with a batch WAITING in compartment 2. -/
def queued (b : Batch) : State := { holding b with
  startQueue := [1]
  session := { session .admitted with idle := none }
  monitor := { bay.monitor with
    deadman := .running
    deadmanTimer := some 170000 } }

/-- Arm 1 open in a stage for compartment 2, one pulse before a slice completes. -/
def open_ (st : Stage) : Arm :=
  { Arm.cold 1500 400 0 0 true with
    stage := st
    owner := some 1
    counting := true
    sliceCounter := 1
    bCount := 400
    sliceTimer := some 49590
    noFlow := some 59000
    flowCounter := some 49500
    lastGood := some 2540 }

def running (st : BatchState) : Batch :=
  { batch st with
    started := true
    lastArm := some 1 }

/-- A batch ACTIVE on arm 1 in a stage, the own share as R77 gives it. -/
def loading (st : Stage) (g : GradeId := 1) : State :=
  { queued { running .active with grade := g } with
    startQueue := []
    arms := bay.arms.set 1 (open_ st)
    headers := bay.headers.set 3 { Header.cold with ownShare := if st = .full then 13 else 5 } }

/-- Arm 1 CLOSING. -/
def closing (c : Close) : State :=
  { loading .closing with
    arms := bay.arms.set 1 { open_ .closing with
      heldShare := 5
      close := some c
      stepDown := if c.phase = .stepDown then some 51000 else none
      settle := if c.phase = .settle then some 51000 else none
      closeLimit := if c.phase = .settle then some 79000 else none } }

/-- A frame's bytes after the start byte. -/
def frameFrom (p : StationId) (kind : Nat) (payload : List Byte) : List Byte := (lineImage p kind payload).tail

/-- A transmitter SENDING its front frame. -/
def sending (t : FrameTag) (k : Nat) : Link :=
  { bay.link with
    tx := .sending
    attempts := k
    rx := .frame
    queue := [⟨7, t, []⟩] }

/-- A low claim of arm 1 on header 3. -/
def lowClaim (ph : ClaimPhase) : Claim := ⟨1, .low, 5, 5, ph, 7⟩

/-- Compartment 2 reserved to arm 1 with its low claim. -/
def claiming (ph : ClaimPhase) : State :=
  { queued (batch .waiting) with
    arms := bay.arms.set 1 { bay.arms[1] with reserved := some 1 }
    headers := bay.headers.set 3 { Header.cold with slot := some (lowClaim ph) } }

/-- Note 58 of `issuing`, written out by R190: head of 26 bytes, one line of 25 with no optional part. -/
def record : List Byte :=
  [0, 0, 58, 9, 0, 0, 0x76, 0xD2, 0, 211, 0, 0x4E, 0x23, 6, 1, 0x9A, 0, 0x0B, 0xB8, 1, 0x9A, 0, 0x0E, 0x10, 28, 0] ++
    [2, 1, 1, 0, 0x17, 0x70, 0, 0, 0, 0, 0, 0, 0, 0, 0, 0, 0, 0, 0, 0, 0, 0, 0, 0, 0]

/-- A note in the store. -/
def note (n : Nat) : StoredNote := ⟨n, [8, 0], none⟩

/-! ## A memory that nothing has written holds no slot -/

theorem readBytes_nil (a n : Nat) : readBytes [] a n = List.replicate n 0 := by
  induction n generalizing a with
  | zero => rfl
  | succ n ih => simp [readBytes, readByte, unwritten, ih, List.replicate_succ]

theorem readSlot_blank (n : Nat) : readSlot [] n = none := by
  unfold readSlot
  rw [readBytes_nil]
  decide +kernel

theorem issuedSlot_blank (number : Nat) : issuedSlot [] number = none := by
  simp [issuedSlot, slotNumbers, readSlot_blank]

/-! ## WellFormed: an ill-formed term for each check -/

theorem test_wf_cold_start : ¬ WellFormed (.coldStart (List.replicate 6511 0) ⟨true, true, true⟩
    ⟨false, Vector.replicate 2 false, false, Vector.replicate 4 false, false⟩) := by
  have h : (List.replicate 6511 (0 : Byte)).length = 6511 := List.length_replicate
  simp only [WellFormed, wellFormed, h]
  decide

theorem test_wf_cut_frame : ¬ WellFormed (.stateReceived [4, 0x12, 0, 0, 1]) := by decide

theorem test_wf_state_kind : ¬ WellFormed (.stateReceived (frameFrom 4 7 [])) := by decide
theorem test_wf_claim_kind : ¬ WellFormed (.claimReceived (frameFrom 4 7 [])) := by decide
theorem test_wf_yield_kind : ¬ WellFormed (.yieldReceived (frameFrom 4 7 [])) := by decide
theorem test_wf_permit_claim_kind : ¬ WellFormed (.permitClaimReceived (frameFrom 4 7 [])) := by decide
theorem test_wf_revoke_kind : ¬ WellFormed (.revokeReceived (frameFrom 4 7 [])) := by decide
theorem test_wf_time_kind : ¬ WellFormed (.timeReceived (frameFrom 4 7 [])) := by decide
theorem test_wf_stop_kind : ¬ WellFormed (.stopReceived (frameFrom 4 1 [0, 0])) := by decide
theorem test_wf_note_kind : ¬ WellFormed (.noteReceived (frameFrom 4 7 [])) := by decide
theorem test_wf_note_request_kind : ¬ WellFormed (.noteRequestReceived (frameFrom 4 7 [])) := by decide
theorem test_wf_note_taken_kind : ¬ WellFormed (.noteTakenReceived (frameFrom 4 7 [])) := by decide
theorem test_wf_card_length : ¬ WellFormed (.present [1, 2, 3]) := by decide
theorem test_wf_tag_length : ¬ WellFormed (.tagReport [0, 0, 0, 1, 1]) := by decide
theorem test_wf_report_length : ¬ WellFormed (.socketStateReport [1, 0, 0] 0) := by decide
theorem test_wf_conversion_range : ¬ WellFormed (.conversionComplete 1 32768) := by decide
theorem test_wf_slots : ¬ WellFormed (.lineBusy 17) := by decide

theorem test_wf_good : WellFormed (.stopReceived (frameFrom 4 7 [])) ∧ WellFormed (.conversionComplete 1 (-32768)) ∧
    WellFormed (.lineBusy 16) := by decide

/-! ## Decode: no row gives bits -/

theorem test_no_word_decodes : decodeTableWord 8 0x55 = none := by decide

/-! ## One step of each command; figures of the chapter named -/

/-- A frame as received from station 4. -/
def hear (kind : Nat) (payload : List Byte) : List Byte := frameFrom 4 kind payload

def backoff (rx : RxState) : State :=
  { bay with link := { sending .state 1 with
    tx := .backoff
    wait := 2
    lineIdle := true
    rx := rx } }

-- Chapter 1. 1.2.2: station 7 waits 5 slots at k = 3; a STOP's 16th count waits 6.
theorem test_collision_wait : (after .collision { bay with
    cfg := { cfg with station := 7 }
    link := sending .state 2 }).link.wait = 5 := by decide
theorem test_collision_stop : (after .collision { bay with
    cfg := { cfg with station := 7 }
    link := sending .stop 15 }).link.wait = 6 := by decide
theorem test_line_idle_starts : (after .lineIdle { bay with link := { sending .state 0 with tx := .ready } }).link.tx =
    .sending := by decide
-- 1.2.3: a part-counted slot is counted again.
theorem test_line_busy : (after (.lineBusy 0) { bay with link := { sending .state 1 with
    tx := .backoff
    wait := 2
    lineIdle := true } }).link.wait = 2 := by decide
theorem test_backoff_end : (after .backoffEnd { bay with link := { sending .state 1 with
    tx := .backoff
    wait := 1
    lineIdle := true } }).link.tx = .sending := by decide
theorem test_read_back_claim : (after .readBackCompletion { claiming .queued with
    link := sending (.claim 3) 0 }).headers[3].slot = some (lowClaim (.settling 50250)) := by decide
theorem test_read_back_permit_claim : (after .readBackCompletion { inSession .checking with
    link := sending .permitClaim 0 }).session.window = some 50500 := by decide
theorem test_broken_character : (after .brokenCharacter bay).link.rx = .skip := by decide
-- R5, R12: in HUNT; and after a collision within the own start byte.
theorem test_start_byte_mismatch : (after .startByteMismatch bay).link.rx = .skip ∧
    (after .startByteMismatch (after .collision (after .backoffEnd (backoff .hunt)))).link.rx = .skip := by decide
theorem test_state_received : (after (.stateReceived (hear 1 [0x00, 0x08, 10])) bay).peers[4].shares[3] = 10 := by decide
theorem test_state_stop_flag : (after (.stateReceived (hear 1 [0x04, 0x00])) bay).monitor.terminal = true := by decide
theorem test_claim_received : (after (.claimReceived (hear 2 [3, 13, 1])) bay).peers[4].claims[3] =
    some ⟨14, 1, 50000⟩ := by decide
-- R190: bits 5 to 7 of a line's flags byte carry nothing, so a line with one set is dropped.
theorem test_note_line_flags : (after (.noteReceived (hear 8 (record.set 49 31))) bay).peers[4].fresh = .fresh ∧
    (after (.noteReceived (hear 8 (record.set 49 32))) bay).peers[4].fresh = .gone := by decide +kernel
theorem test_permit_claim_lower : (after (.permitClaimReceived (hear 4 [0, 0, 0x76, 0xD2]))
    (inSession .checking)).session.outcome = some .inUse := by decide
theorem test_permit_claim_higher : (after (.permitClaimReceived (frameFrom 10 4 [0, 0, 0x76, 0xD2]))
    (inSession .checking)).session.state = .checking := by decide
theorem test_revoke_check : (after (.revokeReceived (hear 5 [0, 0, 0x76, 0xD2, 1, 0x9A]))
    (inSession .checking)).session.outcome = some .revoked := by decide
theorem test_revoke_later_day : (after (.revokeReceived (hear 5 [0, 0, 0, 9, 1, 0x9A]))
    { bay with revoked := [⟨9, 300⟩, ⟨8, 200⟩] }).revoked = [⟨9, 410⟩, ⟨8, 200⟩] := by decide
theorem test_time_received : (after (.timeReceived (hear 6 [1, 0x9B, 0, 0x0E, 0x10])) bay).clock =
    ⟨411, 3600, true, 50000⟩ := by decide
theorem test_stop_received : (after (.stopReceived (hear 7 [])) bay).peers[4].stop = true := by decide
theorem test_note_request : (after (.noteRequestReceived (hear 9 [9])) { bay with
    notes := ⟨[note 41], 42, [], false⟩ }).notes.store = [{ note 41 with marker := some 40 }] := by decide
theorem test_note_taken : (after (.noteTakenReceived (hear 10 [9, 0, 0, 41])) { bay with
    notes := ⟨[note 41, note 42], 43, [], false⟩
    retention := { bay.retention with queue := [.totals bay.totalsNow] } }).retention.queue =
      [.totals bay.totalsNow, .removal 41] := by decide
theorem test_own_number : (after (.stopReceived (frameFrom 9 7 [])) bay).station = .clash := by decide
theorem test_clock_second : (after .clockSecond { bay with clock := ⟨65535, 86399, true, 0⟩ }).clock =
    ⟨0, 0, true, 50000⟩ := by decide

-- Chapter 2.
theorem test_peer_stale : (after (.peerStale 4) { bay with peers := bay.peers.set 4 { Peer.cold with
    fresh := .fresh } }).peers[4].fresh = .stale := by decide
theorem test_peer_gone : (after (.peerGone 4) { bay with peers := bay.peers.set 4 { Peer.cold with
    fresh := .stale
    shares := Vector.replicate 8 10
    permit := some 5
    stop := true } }).peers[4] = { Peer.cold with stop := true } := by decide +kernel
theorem test_pending_claim_expiry : (after (.pendingClaimExpiry 4 3) { bay with
    peers := bay.peers.set 4 { Peer.cold with claims := Vector.replicate 8 (some ⟨14, 1, 0⟩) } }).peers[4].claims[3] =
    none := by decide
theorem test_listen_period_end : (after .listenPeriodEnd { bay with
    station := .starting
    listenTimer := some 50000 }).station = .running := by decide
-- R188: the smallest STATE has a payload of 2 bytes; R31: the period starts again.
theorem test_state_period : (after .statePeriodExpiry bay).link.queue.map (·.image.length) = [7] ∧
    (after .statePeriodExpiry bay).periodTimer = some 51000 := by decide

-- Chapter 3.
def card : List Byte := withCheck [0, 0, 0x76, 0xD2, 0, 211, 0xFF, 1, 3, 0xE8]

theorem test_present : (after (.present card) bay).session.state = .checking ∧
    (after (.present card) bay).session.permit = some permit ∧ (after (.present card) bay).panel.answer = some .pending := by
  decide
theorem test_present_no_date : (after (.present card) { bay with clock := ⟨410, 3600, false, 0⟩ }).panel.answer =
    some (.refused .noDate) := by decide
theorem test_window_end : (after .permitClaimWindowEnd { bay with session := { session .checking with
    window := some 50000 } }).session.idle = some 350000 := by decide
theorem test_finish : (after .finish admitted).session.state = .none := by decide
theorem test_finish_busy : (after .finish (loading .low)).panel.answer = some (.refused .busy) := by decide
theorem test_idle_expiry : (after .idleTimerExpiry admitted).session.endReason = some .idle := by decide
theorem test_socket_expiry : (after .socketTimerExpiry { loading .low with session := { session .admitted with
    socketTimer := some 50000 } }).arms[1].close = some ⟨.stop, .sessionEnd, .controlled, .settle⟩ := by decide
theorem test_tag_changed : (after (.tagReport (withCheck [0, 0, 0, 5, 0, 0, 0x27, 0x10])) admitted).session.endReason =
    some .tankerChanged := by decide
theorem test_unplug : (after (.unplugReport (BitVec.ofNat 16 (crc16 [2]))) admitted).session.socketTimer =
    some 80000 := by decide
theorem test_socket_state : (after (.socketStateReport [1, 0, 0, 0, 0, 0, 0, 0, 0]
    (BitVec.ofNat 16 (crc16 [3, 1, 0, 0, 0, 0, 0, 0, 0, 0]))) bay).monitor.ground = true := by decide
theorem test_socket_bad_check : (after (.socketStateReport [1, 0, 0, 0, 0, 0, 0, 0, 0] 0) bay).monitor.ground =
    false := by decide

-- Chapter 4.
theorem test_plan_clamped : (after (.plan 2 1 9500 1) admitted).panel.answer = some .clamped ∧
    (after (.plan 2 1 9500 1) admitted).batches[1].map (·.preset) = some 9000 := by decide
theorem test_plan_small : (after (.plan 2 1 9 1) admitted).panel.answer = some (.refused .tooSmall) := by decide
theorem test_amend_active : (after (.amend 2 5000) (loading .low)).batches[1].map (·.pendPreset) =
    some (some 5000) := by decide
theorem test_amend_closing : (after (.amend 2 5000) (closing ⟨.stop, .held, .controlled, .settle⟩)).panel.answer =
    some (.refused .tooLate) := by decide
theorem test_cancel : (after (.cancel 2) (holding (batch .planned))).batches[1] = none := by decide
theorem test_cancel_started : (after (.cancel 2) (holding (started .waiting))).panel.answer =
    some (.refused .wrongState) := by decide
theorem test_start_claims : (after (.start 2) (holding (batch .planned))).link.queue.map (·.image.take 6) =
    [[0xC5, 9, 0x23, 3, 4, 1]] := by decide
theorem test_resume_head : (after (.resume 2) { holding (started .suspended) with startQueue := [4] }).startQueue =
    [1, 4] := by decide
theorem test_hold : (after (.hold 2) (loading .full)).arms[1].close = some ⟨.stop, .held, .controlled, .stepDown⟩ := by
  decide
theorem test_hold_all_none : (after (.hold 255) (holding (batch .planned))).panel.answer =
    some (.refused .wrongState) := by decide

-- Chapter 5. 5.3.1: station 9's walk on header 3 at class 1, with and without station 14's claim.
/-- The view of 5.3.1: arms 0 and 2 in LOW, arm 2's STEP-UP settling. -/
def walk (claim14 : Option PendingClaim) : State :=
  let peer := fun (share : Nat) (c : Option PendingClaim) => { Peer.cold with
    fresh := .fresh
    shares := Peer.cold.shares.set 3 share
    claims := Peer.cold.claims.set 3 c }
  { admitted with
    peers := ((bay.peers.set 4 (peer 10 (some ⟨14, 1, 49900⟩))).set 14 (peer 6 claim14)).set 22
      (peer 0 (some ⟨5, 0, 49900⟩))
    arms := (bay.arms.set 0 (open_ .low)).set 2 { open_ .low with
      owner := some 4
      stepUp := .inClaim }
    headers := bay.headers.set 3 { Header.cold with
      ownShare := 10
      slot := some ⟨2, .stepUp, 8, 18, .settling 50000, 7⟩ } }

theorem test_walk_withdraws : (after (.settleWindowEnd 3) (walk (some ⟨11, 2, 49900⟩))).arms[2].stepUp = .retryWait ∧
    (after (.settleWindowEnd 3) (walk (some ⟨11, 2, 49900⟩))).link.queue.map (·.image.take 6) =
      [[0xC5, 9, 0x17, 0x09, 0x08, 0], [0xC5, 9, 0x33, 3, 2, 1]] := by decide
theorem test_walk_commits : (after (.settleWindowEnd 3) (walk none)).arms[2].stage = .full ∧
    (after (.settleWindowEnd 3) (walk none)).headers[3].ownShare = 18 := by decide
theorem test_retry_expiry : (after (.retryTimerExpiry 3) { bay with headers := bay.headers.set 3 { Header.cold with
    retryTimer := some 50000
    retryWait := true } }).headers[3] = Header.cold := by decide
theorem test_yield_expiry : (after (.yieldTimerExpiry 3) { bay with headers := bay.headers.set 3 { Header.cold with
    yieldTimer := some 50000 } }).headers[3].yieldTimer = none := by decide
-- 5.6.1: the arm with the larger remaining volume is marked.
theorem test_yield_marks : (after (.yieldReceived (frameFrom 9 3 [3, 2, 1])) { loading .full with
    cfg := { cfg with station := 18 }
    session := { session .admitted with permit := some { permit with cls := 0 } }
    arms := (bay.arms.set 1 (open_ .full)).set 0 { open_ .full with
      owner := some 1
      live := { Accum.zero with gross := 554400 } } }).arms[1].yieldMark = true := by decide
theorem test_hold_off : (after (.holdOffExpiry 1) { loading .reduced with
    arms := bay.arms.set 1 { open_ .reduced with holdOff := some 50000 } }).arms[1].stepUp = .inClaim := by decide
theorem test_overdraw : (after (.overdrawTimerExpiry 1) { loading .low with
    arms := bay.arms.set 1 { open_ .low with overdrawTimer := some 50000 } }).arms[1].close =
    some ⟨.stop, .overdraw, .fast, .settle⟩ := by decide

-- Chapters 6 and 7. 7.10.1: slices 1 and 5 of the fill, then the partial slice of 137 pulses.
/-- Arm 1 FULL before a slice with the figures it starts from. -/
def before (gross std grem srem : Nat) : State :=
  { loading .full with arms := bay.arms.set 1 { open_ .full with
    sliceTimer := some 49520
    live := { Accum.zero with
      gross := gross
      std := std
      grossRem := grem
      stdRem := srem } } }

theorem test_slices : (after (.aPulse 1) (before 0 0 0 0)).arms[1].live =
    { Accum.zero with
      gross := 1001
      std := 988
      grossRem := 8000
      stdRem := 383396
      weighted := 1001 * 2540 } ∧
    (after (.aPulse 1) (before 4004 3953 32000 533584)).arms[1].live =
    { Accum.zero with
      gross := 5006
      std := 4942
      grossRem := 0
      stdRem := 904376
      weighted := 1002 * 2540 } := by decide
theorem test_partial_slice : (after (.settleTimerExpiry 1) { closing ⟨.stop, .held, .controlled, .settle⟩ with
    arms := bay.arms.set 1 { open_ .closing with
      heldShare := 5
      close := some ⟨.stop, .held, .controlled, .settle⟩
      sliceCounter := 263
      bCount := 137
      settle := some 50000
      live := { Accum.zero with
        gross := 5006
        std := 4942
        stdRem := 904376 } } }).arms[1].live =
    { Accum.zero with
      gross := 5348
      std := 5280
      grossRem := 36440
      stdRem := 593808
      weighted := 342 * 2540 } := by decide +kernel
theorem test_ctl_examples : ctlUsed 12000 1150 2540 = 987396 ∧ ctlUsed 30000 10000 8000 = 900000 ∧
    ctlUsed 30000 10000 (-5000) = 1100000 ∧ ctlUsed 12345 1150 1400 = 1001234 ∧ ctlUsed 0 5 2500 = 999999 ∧
    ctlUsed 10002 0 1750 = 997499 ∧ ctlUsed 12000 1150 2200 = 991544 := by decide
theorem test_b_pulse : (after (.bPulse 1) (loading .low)).arms[1].bCount = 401 := by decide
theorem test_conversion : (after (.conversionComplete 1 8001) { loading .low with
    arms := bay.arms.set 1 { open_ .low with converter := some 50010 } }).arms[1].lastDiscarded = true := by decide
/-- R108's last sentence: at 50,000 ms a conversion ends in the moment of a slice taken first. -/
def ending108 : State := after (.aPulse 1) { loading .full with
  arms := bay.arms.set 1 { open_ .full with converter := some 50000 } }
theorem test_slice_before_conversion : ending108.arms[1].converter = some 50020 ∧ ending108.arms[1].lastGood = some 2540 ∧
    (after (.conversionComplete 1 2600) ending108).arms[1].lastGood = some 2600 ∧
    (after (.conversionComplete 1 2600) ending108).arms[1].converter = some 50020 ∧
    (after (.conversionComplete 1 2700) (after (.conversionComplete 1 2600) ending108)).arms[1].converter = none := by
  decide +kernel
theorem test_no_flow : (after (.noFlowExpiry 1) (loading .low)).arms[1].close =
    some ⟨.stop, .noFlow, .controlled, .settle⟩ := by decide
theorem test_flow_second : (after (.flowTimeSecond 1) (loading .low)).arms[1].live.flow = 1 := by decide

-- Chapter 8. The learning table of R137.
theorem test_learned : learned 1500 230 = 1615 ∧ learned 1500 (-70) = 1465 ∧ learned 1500 (-49) = 1476 ∧
    learned 1980 60 = 2000 ∧ learned 40 (-100) = 0 ∧ learned 1615 1 = 1615 := by decide
theorem test_step_down : (after (.stepDownExpiry 1) (closing ⟨.stop, .held, .controlled, .stepDown⟩)).arms[1].closeLimit =
    some 80000 := by decide
theorem test_close_completes : (after (.settleTimerExpiry 1)
    (closing ⟨.stop, .held, .controlled, .settle⟩)).batches[1].map (·.state) = some .suspended ∧
    (after (.settleTimerExpiry 1)
    (closing ⟨.stop, .held, .controlled, .settle⟩)).headers[3].ownShare = 0 := by decide +kernel
theorem test_close_limit : (after (.closeLimitExpiry 1) (closing ⟨.stop, .held, .controlled, .settle⟩)).batches[1].map
    (·.flags.valveLeak) = some true := by decide
theorem test_uncoupled : (after (.coupledInputChange 1 false) (loading .low)).arms[1].close =
    some ⟨.stop, .uncoupled, .fast, .settle⟩ := by decide

-- Chapter 9. 9.10: expected count 500; slice 2 judges shot 1 and fires shot 2.
def shot (count : Nat) (firing : Bool) : Injector :=
  { firing := firing
    width := if firing then some 50100 else none
    shotPulses := if firing then count else 0
    window := some ⟨1, count, false⟩
    badRun := 0 }

def shooting (x : Injector) : State := { loading .full 3 with injectors := bay.injectors.set 1 x }

theorem test_shot_ends_at_count : (after (.feedbackPulse 1) (shooting (shot 499 true))).injectors[1].firing = false := by decide
theorem test_feedback_after_shot : (after (.feedbackPulse 1) (shooting (shot 500 false))).injectors[1].window =
    some ⟨1, 501, false⟩ := by decide
theorem test_width : (after (.widthTimerExpiry 1) (shooting (shot 428 true))).injectors[1].firing = false := by decide
theorem test_shots : (after (.aPulse 1) (shooting (shot 503 false))).arms[1].live.owed = 200 ∧
    (after (.aPulse 1) (shooting (shot 503 false))).arms[1].live.commanded = 2000 ∧
    (after (.aPulse 1) (shooting (shot 503 false))).injectors[1].badRun = 0 ∧
    (after (.aPulse 1) (shooting { shot 415 false with badRun := 2 })).arms[1].close = some ⟨.stop, .additive, .controlled, .stepDown⟩ := by decide

-- Chapter 10. 10.6.1.
def deadman (d : Machine.Deadman) (c k : Vector Bool 2) : State :=
  { loading .low with monitor := { bay.monitor with
    deadman := d
    deadmanTimer := some 60000
    contacts := c
    counted := k } }

theorem test_contact_closures : (after (.contactClosure 0) (deadman .running #v[false, false] #v[false, false])).monitor.counted =
    #v[true, false] ∧
    (after (.contactClosure 0) (deadman .warning #v[false, false] #v[false, true])).monitor.deadmanTimer =
    some 170000 ∧
    (after (.contactClosure 0) (deadman .warning #v[false, true] #v[false, true])).monitor.jam =
    some 51000 := by decide
theorem test_contact_opens : (after (.contactOpening 1) { deadman .warning #v[true, true] #v[false, true] with
    monitor := { (deadman .warning #v[true, true] #v[false, true]).monitor with jam := some 51000 } }).monitor.jam =
    none := by decide
theorem test_warning : (after .deadmanWarning (deadman .running #v[false, false] #v[false, false])).monitor.horn =
    true := by decide
theorem test_deadman_expiry : (after .deadmanExpiry (deadman .warning #v[false, false] #v[false, false])).arms[1].close =
    some ⟨.stop, .deadman, .fast, .settle⟩ := by decide
theorem test_jam : (after .jamTimerExpiry { deadman .running #v[true, true] #v[false, false] with
    monitor := { (deadman .running #v[true, true] #v[false, false]).monitor with jam := some 50000 } }).monitor.deadman =
    .jammed := by decide
theorem test_bypass : (after (.bypassKeyChange true) bay).monitor.bypass = true := by decide
theorem test_local_stop : (after .localStopActive (loading .low)).arms[1].close =
    some ⟨.stop, .localStop, .fast, .settle⟩ ∧ ((after .localStopActive bay).link.queue.map (·.tag)) = [.stop, .state] := by
  decide
theorem test_local_stop_normal : (after .localStopNormal (after .localStopActive bay)).monitor.stopLatch = true := by decide
theorem test_clear_stop : (after .clearStop (after .localStopNormal (after .localStopActive bay))).ownStop = false := by
  decide

-- R133: a step-down is cut; R185, R192: bytes of the panel line, 70,000 L being 0x011170.
theorem test_step_down_cut : (after .localStopActive (closing ⟨.stop, .held, .controlled, .stepDown⟩)).arms[1].close =
    some ⟨.stop, .held, .controlled, .settle⟩ := by decide
theorem test_panel_frame : requestOf (withCheck [0, 5, 3, 2, 0x01, 0x11, 0x70]) = .amend 2 70000 ∧
    requestOf (withCheck [0, 3, 9, 0, 1]) = .panelFormatError ∧ requestOf [0, 1, 8, 0, 0] = .panelFormatError := by
  decide +kernel

-- R194: an unplug report and a state report by their kind bytes, an unknown kind, a frame cut short.
theorem test_socket_frame : socketReportOf [2, 0xE1, 0xD0] = some (.unplugReport 0xE1D0) ∧
    socketReportOf [3, 1, 0, 1, 2, 0, 0, 0, 0, 0, 0x12, 0x34] =
      some (.socketStateReport [1, 0, 1, 2, 0, 0, 0, 0, 0] 0x1234) ∧
    socketReportOf [5, 0, 0] = none ∧ socketReportOf [3, 1, 0, 0x12, 0x34] = none := by decide

-- Chapter 12.
theorem test_status_session : (after .statusSession bay).panel.port = .answering := by decide
theorem test_status_compartment : (after (.statusCompartment 2) bay).panel.answer = some (.refused .noSession) := by decide
theorem test_status_arm : (after (.statusArm 4) bay).panel.answer = some (.refused .format) := by decide
theorem test_note_copy : (after (.noteCopy 41) { bay with notes := ⟨[note 41], 42, [], false⟩ }).panel.answer =
    some (.accepted [8, 0]) := by decide
theorem test_panel_format : (after .panelFormatError bay).panel.answer = some (.refused .format) := by decide
theorem test_panel_cut : (after .panelFrameCut { bay with panel := ⟨.answering, none, false⟩ }).panel.answer = none := by decide
-- R185: the end of a frame begun in ANSWERING draws no answer after the return to IDLE; the frame after it does.
theorem test_panel_discards : (let t := after (.hold 1) { bay with panel := ⟨.idle, none, true⟩ };
      t.panel = ⟨.idle, none, false⟩ ∧ (after (.hold 1) t).panel.answer = some (.refused .noSession)) := by decide
theorem test_answer_complete : (after .panelAnswerComplete (after .panelFormatError bay)).panel = ⟨.idle, none, false⟩ ∧
    (after (.panelAnswerComplete true) (after .panelFormatError bay)).panel = ⟨.idle, none, true⟩ ∧
    (after .statusSession (after (.panelAnswerComplete true) (after .panelFormatError bay))).panel =
      ⟨.idle, none, false⟩ := by decide
-- 12.4.3: T1 ends with T5 held; then T2 ends with removal 41 in the outbox.
def writing (n : Nat) (held : Option Totals) : State :=
  { bay with
    notes := ⟨[], 58, [41], false⟩
    retention := { bay.retention with
      queue := List.replicate n (.totals bay.totalsNow)
      held := held
      writeTimer := some 50050 } }

theorem test_held_block_first : (after (.retentionWriteEnd false) (writing 4 (some bay.totalsNow))).retention.held = none ∧
    (after (.retentionWriteEnd false) (writing 4 (some bay.totalsNow))).notes.outbox = [41] := by decide
theorem test_outbox_next : (after .retentionWriteTimeout (writing 4 none)).notes.outbox = [] ∧
    (after .retentionWriteTimeout (writing 4 none)).retention.fault = true := by decide
def issuing : State :=
  { inSession .ending with
    batches := bay.batches.set 1 (some { running .done with saved := true })
    notes := ⟨[], 58, [], true⟩
    session := { session .ending with
      start := some (410, 3000)
      endReason := some .finished } }

theorem test_note_issue : (after .noteIssue issuing).notes.store.map (fun n => (n.number, n.record)) = [(58, record)] := by
  decide +kernel
-- R182: a removal with no ISSUED slot simply completes, in an empty queue and at the front.
theorem test_removal_needless (s : State) (e : s.retention.mem = []) :
    (s.retention.queue = [] → s.queueWrite (.removal 41) = s) ∧
    (State.endWrite false { s with retention := { s.retention with queue := [.removal 41, .removal 42] } }).retention =
      { s.retention with queue := [], writeTimer := none } := by
  refine ⟨fun q => ?_, ?_⟩
  · simp [State.queueWrite, Write.needless, e, issuedSlot_blank, q]
  · simp [State.endWrite, Write.needless, performWrite, e, issuedSlot_blank, State.modRetention, List.dropWhile]
-- R35: in CONFIG FAULT too the socket view follows the line.
theorem test_unplug_config_fault : (after (.unplugReport (BitVec.ofNat 16 (crc16 [2]))) { bay with
    station := .configFault }).socketView = none := by decide
-- R54: an ENDING session's permit goes out, and its note and the STATE without it after that.
theorem test_ending_at_release : (after .restartReleased (after .restartAsserted issuing)).link.queue.map (·.tag) =
    [.state, .note 58, .state] := by decide +kernel
-- R2, R123: the release that stage 5 waits for leaves the line BUSY and hands over the block.
theorem test_release_stage5 : let t := after .restartReleased { bay with
      restart := true
      stage5Waits := true
      link := { bay.link with lineIdle := true } };
    t.link.lineIdle = false ∧ t.retention.queue = [.totals bay.totalsNow] := by decide +kernel
theorem test_restart_asserted : (after .restartAsserted (loading .full)).arms[1].close =
    some ⟨.stop, .restart, .fast, .settle⟩ := by decide
theorem test_restart_released : (after .restartReleased (after .restartAsserted (loading .full))).batches[1].map
    (·.suspReason) = some (some .restart) := by decide
theorem test_cold_start_blank : (after (.coldStart [] ⟨true, true, true⟩
    ⟨false, Vector.replicate 2 false, false, Vector.replicate 4 false, false⟩) State.reset).faultKind = some .badCheck := by
  decide +kernel
/-- The image of 13.6 with one header, 3, one grade and three arms on it, one injector; `low` and `full` are arm 0's shares,
`idle` the idle limit. -/
def image (low full idle : Nat) : List Byte :=
  let table := fun (n on : Nat) (yes no : List Byte) => (List.range n).flatMap fun i => if i = on then yes else no
  let arm := fun (flag : Byte) (low full : Nat) => flag :: (beBytes 3 40000 ++ beBytes 2 10012 ++ beBytes 2 9985 ++
    beBytes 2 300 ++ beBytes 2 400 ++ beBytes 1 low ++ beBytes 1 full ++ beBytes 3 200 ++ beBytes 3 300 ++
    beBytes 2 1500 ++ beBytes 3 400)
  withCheck (9 :: (table 8 3 ([0x82, 40] ++ beBytes 2 12000 ++ beBytes 2 1150) [0, 1, 0, 0, 0, 0] ++
    table 16 1 [0x83, 255, 0, 1] [0, 255, 0, 1] ++
    (arm 0x83 low full ++ arm 0x83 5 13 ++ arm 0x83 5 13 ++ arm 0 5 13) ++
    table 4 1 ([0x81, 1] ++ beBytes 2 2000 ++ beBytes 2 300 ++ beBytes 2 250 ++ [10, 0, 0, 50])
      [0, 0, 0, 100, 0, 10, 0, 1, 1, 0, 0, 0] ++ beBytes 2 120 ++ beBytes 2 idle ++ [10, 2, 30, 0, 0, 0, 10]))
/-- A cold start on a preloaded image, its totalizer and note regions unread. -/
def started_with (bs : List Byte) : State :=
  after (.coldStart bs ⟨true, false, false⟩
    ⟨false, Vector.replicate 2 false, false, Vector.replicate 4 true, false⟩) State.reset

theorem test_cold_start_accepted : (started_with (image 5 13 300)).station = .starting := by decide +kernel
theorem test_cold_start_shares : (started_with (image 10 10 300)).faultKind = some .armShares := by decide +kernel
theorem test_cold_start_clamped : (parseImage (image 5 13 30)).1.idleLimit = 60 ∧ (parseImage (image 5 13 30)).2 = true ∧
    (parseImage (image 5 13 300)).2 = false ∧ (parseImage (image 5 13 300)).1.headers[3].capacity = 40 := by decide +kernel

/-! ## Witnesses: for each statement, states and operands that meet its hypotheses, clause by clause -/

def down : State := { bay with restart := true }
def faulted : State := { bay with station := .configFault }
theorem witness_StepRunsTheFrontCommand :
    ({ bay with pending := [.lineIdle, .clockSecond] } : State).pending = .lineIdle :: [.clockSecond] := by decide

theorem witness_StepOnAnEmptyQueue : bay.pending = [] ∧ bay.dueCommand = none ∧
    ({ bay with periodTimer := some 50000 } : State).dueCommand = some .statePeriodExpiry := by decide

/-- R12: a frame cut on a BUSY line empties the buffer; on an IDLE line there was none to cut. -/
theorem test_cut_frame : (let s : State := { bay with link := { bay.link with buffer := [1, 2] } };
    (after .lineIdle s).link.buffer = [] ∧
      (after .lineIdle { s with link := { s.link with lineIdle := true } }).link.buffer = [1, 2]) := by decide

theorem witness_LineEvents : (bay.station ≠ .configFault ∧ bay.link.tx ≠ .sending ∧ bay.restart = false ∧
      bay.link.tx ≠ .ready) ∧
    (let s : State := { bay with link := { sending .state 0 with tx := .ready } };
      s.link.tx ≠ .sending ∧ s.restart = false ∧ s.link.tx = .ready) ∧
    (bay.link.rx = .hunt ∧ bay.link.lineIdle = false ∧ (backoff .hunt).link.lineIdle = true) ∧
    (down.station ≠ .configFault ∧ down.link.tx ≠ .sending ∧ down.restart = true) ∧
    ((backoff .hunt).link.lineIdle = true ∧ (backoff .hunt).link.tx = .backoff) ∧
    (let s : State := { bay with link := { bay.link with lineIdle := true } };
      s.link.lineIdle = true ∧ s.link.tx ≠ .backoff) ∧ bay.link.lineIdle = false ∧
    (bay.restart = false ∧ bay.link.rx ≠ .skip ∧ (backoff .frame).link.rx ≠ .skip) ∧
    ((backoff .hunt).link.rx = .hunt ∧ (backoff .frame).link.rx ≠ .hunt) := by decide

theorem witness_Collision : (∀ k ∈ [0, 14], let l := sending .state k;
      l.tx = .sending ∧ l.attempts + 1 < 16) ∧
    (∀ t ∈ [FrameTag.stop, .state, .yield 3, .permitClaim], let l := sending t 15;
      l.tx = .sending ∧ l.attempts = 15 ∧ l.queue = ⟨7, t, []⟩ :: []) ∧
    ((inSession .checking).session.state = .checking ∧ (inSession .checking).session.checkFrame = 7) := by decide

/-- Arm 1 in a stage with its STEP-UP in the slot. -/
def stepping (st : Stage) (ph : ClaimPhase) : State := { loading st with
  arms := bay.arms.set 1 { open_ st with stepUp := .inClaim }
  headers := bay.headers.set 3 { Header.cold with
    ownShare := 5
    slot := some ⟨1, .stepUp, 8, 13, ph, 7⟩ } }

theorem witness_Collision_gives_up : ((sending (.note 41) 15).queue = ⟨7, .note 41, []⟩ :: []) ∧
    (∀ s ∈ [({ claiming .queued with link := sending (.claim 3) 15 } : State),
        { stepping .low .queued with link := sending (.claim 3) 15 }],
      s.link.tx = .sending ∧ s.link.attempts = 15 ∧ s.link.queue = ⟨7, .claim 3, []⟩ :: [] ∧
        (s.headers[(3 : HeaderId)].slot.map fun c => (c.frameId, c.phase)) = some (7, .queued) ∧ s.linkOpen = true ∧
        (∀ a, (s.armCfg a).header = 3 → (s.arm a).stepUp ≠ .waiting) ∧ s.station ≠ .clash ∧ s.link.queue.length ≤ 8) ∧
    (claiming .queued).startQueue = [1] ∧ (claiming .queued).batches[(1 : CompId)] = some (batch .waiting) ∧
    ((claiming .queued).gradeCfg (batch .waiting).grade).header = 3 ∧ (stepping .low .queued).startQueue = [] ∧
    bay.headers[(3 : HeaderId)].slot = none := by decide

theorem witness_ReadBackCompletion : (∀ t ∈ [FrameTag.stop, .state, .yield 3, .claim 3, .permitClaim, .note 41],
      (sending t 0).tx = .sending ∧ (sending t 0).queue = ⟨7, t, []⟩ :: []) ∧
    ((claiming .queued).header 3).slot = some (lowClaim .queued) ∧ (lowClaim .queued).frameId = 7 ∧
    ((inSession .checking).session.state = .checking ∧ (inSession .checking).session.checkFrame = 7) ∧
    bay.session.state ≠ .checking := by decide

/-- The claim of a CLAIM that goes out has been abandoned (R88), in each of the three ways the report can be taken. -/
theorem witness_ReadBackCompletion_abandoned : ∀ s ∈ [bay, { bay with station := .clash }, down],
    let u : State := { s with link := sending (.claim 3) 0 };
    u.link.tx = .sending ∧ u.link.queue = ⟨7, .claim 3, []⟩ :: [] ∧ u.headers[(3 : HeaderId)].slot = none ∧
      u.link.lineIdle = false ∧ (u.linkOpen = false ↔ s.restart = true) := by decide

/-- R88: a STATE goes out behind the CLAIM of an abandoned claim. -/
theorem test_read_back_abandoned : (after .readBackCompletion { bay with
    link := sending (.claim 3) 0 }).link.queue.map (·.tag) = [.state] := by decide

/-- Frames of these kinds, numbered from 1. -/
def frames (tags : List FrameTag) : List TxFrame := tags.mapIdx fun n t => ⟨n + 1, t, []⟩

/-- A BUSY line and a queue of frames of these kinds. -/
def queueing (t : TxState) (tags : List FrameTag) : Link :=
  { bay.link with
    tx := t
    wait := if t = .backoff then 2 else 0
    queue := frames tags }

/-- A queue of 8 frames, a STATE among them. -/
def fullTags : List FrameTag := .state :: .claim 3 :: List.replicate 6 (.note 41)

theorem witness_StopDisplacesTheNewest : (∀ x ∈ [(TxState.empty, []), (.ready, [.state]), (.ready, [.state, .state]),
        (.sending, [.claim 3, .state]), (.backoff, [.claim 3]), (.ready, [.stop]), (.sending, [.note 41, .stop]),
        (.ready, fullTags), (.sending, fullTags)], let l := queueing x.1 x.2;
      l.queue.length ≤ 8 ∧ l.attempts < 16 ∧ (l.tx = .empty ↔ l.queue = []) ∧
        (l.tx = .backoff → 1 ≤ l.wait ∧ l.wait ≤ 16)) ∧
    (∃ g ∈ (queueing .ready [.stop]).waiting, g.tag = .stop) ∧ (∃ g ∈ (queueing .sending [.note 41, .stop]).waiting, g.tag = .stop) ∧
    (∀ g ∈ (queueing .sending [.stop]).waiting, g.tag ≠ .stop) ∧
    (∀ t ∈ [TxState.ready, .sending], (queueing t fullTags).queue.length = 8 ∧
      (∀ g ∈ (queueing t fullTags).waiting, g.tag ≠ .stop) ∧
      (queueing t fullTags).queue.Pairwise (fun a b => a.id ≠ b.id)) ∧
    (∃ g ∈ (queueing .ready [.state, .state]).queue.drop 1, g.tag = .state) ∧ bay.link.lineIdle = false := by decide

/-- 1.3.1, queue placement followed through: the frames that stand in the queue, by kind and number. -/
theorem test_queue_placement :
    let kinds := fun l : Link => l.queue.map fun f => (f.tag, f.id)
    let l0 : Link := queueing .backoff [.claim 2, .note 41, .state]
    let l1 := ((l0.pushStop ⟨10, .stop, []⟩).1.pushStateTail ⟨11, .state, []⟩)
    let l2 := (l1.pushTail ⟨12, .claim 5, []⟩).1.pushStateTail ⟨13, .state, []⟩
    let l3 := { l2.popFront.popFront with tx := .sending }
    kinds l1 = [(.claim 2, 1), (.stop, 10), (.note 41, 2), (.state, 11)] ∧
      kinds l2 = [(.claim 2, 1), (.stop, 10), (.note 41, 2), (.state, 13), (.claim 5, 12)] ∧
      kinds l3 = [(.note 41, 2), (.state, 13), (.claim 5, 12)] ∧
      kinds (l3.pushStateHead ⟨14, .state, []⟩) = [(.note 41, 2), (.state, 14), (.claim 5, 12)] := by decide

/-- R9: one STATE waits outside the front. A STOP in front of a READY STATE with a newer one behind it drops the older, and
the next STATE takes the newer one's place. -/
theorem test_one_state_waits : let l := ((queueing .ready [.state]).pushStateHead ⟨9, .state, []⟩).pushStop ⟨10, .stop, []⟩;
    l.1.queue.map (·.id) = [10, 9] ∧ (l.1.pushStateTail ⟨11, .state, []⟩).queue.map (·.id) = [10, 11] := by decide

theorem witness_BadFrameIsDropped : bay.linkOpen = true ∧ bay.link.rx ≠ .skip ∧ bay.link.tx ≠ .sending ∧
    parseFrame [4, 0x70, 0, 0] = none ∧ ([4] : List Byte).length < 2 := by decide

theorem witness_OwnNumberPutsInClash : bay.linkOpen = true ∧ bay.link.rx ≠ .skip ∧ bay.link.tx ≠ .sending ∧
    parseFrame (frameFrom 9 7 []) = some (bay.cfg.station, .stop) ∧ bay.station ≠ .clash := by decide

/-- A frame taken by a part at the bay. -/
theorem takes_at (s : State) (frame : List Byte) (p : StationId) (f : Frame) (h : s.linkOpen = true)
    (hr : s.link.rx ≠ .skip) (ht : s.link.tx ≠ .sending) (hf : parseFrame frame = some (p, f))
    (hp : p ≠ s.cfg.station) : s.Takes frame p f := ⟨h, hr, ht, hf, hp⟩


theorem witness_NoteClaimAndTimeFrames : bay.Takes (hear 8 record) 4 .note ∧
    bay.Takes (hear 2 [3, 13, 1]) 4 (.claim 3 14 1) ∧
    (bay.Takes (hear 6 [1, 0x9A, 0, 0x0E, 0x10]) 4 (.time 410 3600) ∧ bay.clock.dateKnown = true ∧ bay.clock.day = 410) ∧
    (admitted.Takes (hear 6 [3, 0xE9, 0, 0, 0]) 4 (.time 1001 0) ∧ admitted.clock.day ≠ 1001 ∧
      admitted.session.permit = some permit ∧ permit.expiry < 1001) := by
  refine ⟨⟨?_, ?_, ?_, ?_, ?_⟩, ⟨?_, ?_, ?_, ?_, ?_⟩, ⟨⟨?_, ?_, ?_, ?_, ?_⟩, ?_, ?_⟩, ⟨?_, ?_, ?_, ?_, ?_⟩, ?_, ?_, ?_⟩ <;>
    decide +kernel

def revoking (n : Nat) (st : SessionState) : State :=
  { inSession st with revoked := (List.range n).map fun k => ⟨k + 1, 500⟩ }

theorem witness_Revoke : bay.Takes (hear 5 [0, 0, 0, 70, 1, 0x9A]) 4 (.revoke 70 410) ∧ bay.sessionPermit ≠ some 70 ∧
    (let s : State := { bay with revoked := [⟨70, 400⟩] };
      ∃ r ∈ s.revoked, r.permit = 70) ∧
    (∀ n ∈ [63, 64], (∀ r ∈ (revoking n .none).revoked, r.permit ≠ 70) ∧ (revoking n .none).revoked.length = n) ∧
    ((revoking 64 .checking).Takes (hear 5 [0, 0, 0x76, 0xD2, 1, 0x9A]) 4 (.revoke 30418 410) ∧
      (revoking 64 .checking).sessionPermit = some 30418 ∧ (revoking 64 .checking).session.state = .checking ∧
      (revoking 64 .checking).revoked.length = 64 ∧ (∀ r ∈ (revoking 64 .checking).revoked, r.permit ≠ 30418) ∧
      (revoking 63 .admitted).sessionPermit = some 30418 ∧ (revoking 63 .admitted).session.state = .admitted) := by
  refine ⟨⟨?_, ?_, ?_, ?_, ?_⟩, ?_, ?_, ?_, ⟨?_, ?_, ?_, ?_, ?_⟩, ?_, ?_, ?_, ?_, ?_, ?_⟩ <;> decide +kernel

theorem witness_StopFrame : bay.Takes (hear 7 []) 4 .stop ∧ bay.monitor.terminal = false ∧
    (let s := after .localStopActive bay;
      s.linkOpen = true ∧ s.link.rx ≠ .skip ∧ s.link.tx ≠ .sending ∧ s.monitor.terminal = true) ∧
    (let s := closing ⟨.stop, .held, .controlled, .stepDown⟩;
      s.monitor.terminal = false ∧ (s.arm 1).stage = .closing ∧
        (s.arm 1).close = some ⟨.stop, .held, .controlled, .stepDown⟩) := by
  refine ⟨⟨?_, ?_, ?_, ?_, ?_⟩, ?_, ?_, ?_⟩ <;> decide

def shares : Vector Nat 8 := Peer.cold.shares.set 3 10

theorem witness_StateFrame : (bay.Takes (hear 1 [0, 8, 10]) 4 (.state 0 false false false shares none) ∧
      (∀ h : HeaderId, bay.peers[(4 : StationId)].shares[h] ≤ shares[h]) ∧
      (let x : Peer := ⟨.fresh, some bay.now, shares, none, 0, false, Vector.replicate 8 none⟩;
        let t : State := { bay.heardFrom (hear 1 [0, 8, 10]) 4 with peers := bay.peers.set 4 x };
        t.stopSetNonempty = bay.monitor.terminal)) ∧
    (∀ st ∈ [SessionState.checking, .admitted],
      (inSession st).Takes (hear 1 [8, 8, 0, 0, 0x76, 0xD2, 10]) 4 (.state 0 false true false shares (some 30418)) ∧
      (inSession st).sessionPermit = some 30418 ∧ (inSession st).session.state = st ∧
        (4 : StationId) < (inSession st).cfg.station) ∧
    ((inSession .admitted).Takes (frameFrom 10 1 [8, 8, 0, 0, 0x76, 0xD2, 10]) 10
        (.state 0 false true false shares (some 30418)) ∧ (inSession .admitted).cfg.station < 10) := by
  refine ⟨⟨⟨?_, ?_, ?_, ?_, ?_⟩, ?_, ?_⟩, ?_, ⟨?_, ?_, ?_, ?_, ?_⟩, ?_⟩
  case refine_8 =>
    intro st h
    simp only [List.mem_cons, List.not_mem_nil, or_false] at h
    rcases h with rfl | rfl <;> refine ⟨⟨?_, ?_, ?_, ?_, ?_⟩, ?_, ?_, ?_⟩ <;> decide +kernel
  all_goals decide +kernel

/-- A state whose header 3 waits for a share: a peer that holds one there, arm 1 in RETRY WAIT, the slot FREE or held. -/
def retryWaiting (slot : Option Claim) : State := { loading .low with
  peers := bay.peers.set 4 { Peer.cold with
    fresh := .stale
    shares := shares }
  arms := bay.arms.set 1 { open_ .low with stepUp := .retryWait }
  headers := bay.headers.set 3 { Header.cold with
    ownShare := 5
    slot := slot
    retryTimer := some 60000 } }

theorem witness_Retried : (∀ slot ∈ [none, some (lowClaim .queued)], let s := retryWaiting slot;
      s.startQueue = [] ∧ s.Waits 3 1 ∧ (∀ b, s.Waits 3 b → 1 ≤ b) ∧ s.headers[(3 : HeaderId)].slot = slot ∧
        s.mayClaim = true ∧ s.linkOpen = true ∧ s.station ≠ .clash ∧ s.link.queue.length < 8 ∧
        (s.stepUpClaim 1 s.headers[(3 : HeaderId)].ownShare s.link.nextId).total ≤ (s.headerCfg 3).capacity ∧
        (∀ k : HeaderId, decide (0 < shares[k]) = true → k = 3)) ∧
    (∀ a : ArmId, ¬ (loading .low).Waits 3 a) := by
  unfold State.Waits
  decide +kernel

theorem witness_StateFrame_falls : (retryWaiting none).Takes (hear 1 [0, 0]) 4
      (.state 0 false false false (Vector.replicate 8 0) none) ∧
    (let s := retryWaiting none;
      let x : Peer := ⟨.fresh, some s.now, Vector.replicate 8 0, none, 0, false, Vector.replicate 8 none⟩;
      let t : State := { s.heardFrom (hear 1 [0, 0]) 4 with peers := s.peers.set 4 x };
      s.peers[(4 : StationId)].shares = shares ∧ t.stopSetNonempty = s.monitor.terminal ∧ t.mayClaim = true) := by
  refine ⟨⟨?_, ?_, ?_, ?_, ?_⟩, ?_⟩ <;> decide +kernel

/-- A STATE of peer 4 with its stop flag set or clear, and the entry it leaves. -/
def stopFlagged (s : State) (stop : Bool) : State := { s.heardFrom (hear 1 [if stop then 4 else 0, 0]) 4 with
  peers := s.peers.set 4 ⟨.fresh, some s.now, Vector.replicate 8 0, none, 0, stop, Vector.replicate 8 none⟩ }

/-- Peer 4 alone in the stop set. -/
def stopped (s : State) : State := { s with
  peers := s.peers.set 4 { Peer.cold with stop := true }
  monitor := { s.monitor with terminal := true } }

theorem test_state_ends_stop : let t := after (.stateReceived (hear 1 [0, 0])) (stopped (queued (batch .waiting)));
    t.monitor.terminal = false ∧ t.arms[0].reserved = some 1 ∧ t.link.queue.map (·.tag) = [.claim 3] := by decide

/-- The state after that STATE and TERMINAL_STOP restored, before the scan. -/
def restored (s : State) : State := { stopFlagged s false with monitor := { s.monitor with terminal := false } }

theorem restored_scan_gives : (restored (stopped (queued (batch .waiting)))).ScanGives 1 (batch .waiting) 0 where
  may := by decide
  queued := by decide
  unreserved := by decide
  passes := ⟨by decide, by decide, .inl rfl, by decide, by decide, by decide, by decide, .inl rfl⟩
  lowest := fun i _ => Nat.zero_le i.val
  slot := by decide
  fits := by decide
  room := by decide

theorem witness_StateFrame_stop : ((loading .full).Takes (hear 1 [4, 0]) 4
        (.state 0 true false false (Vector.replicate 8 0) none) ∧ (loading .full).monitor.terminal = false ∧
      (stopFlagged (loading .full) true).stopSetNonempty = true) ∧
    (∀ s ∈ [stopped bay, stopped (queued (batch .waiting)), stopped (retryWaiting none)], s.linkOpen = true ∧
      s.link.rx ≠ .skip ∧ s.link.tx ≠ .sending ∧ (4 : StationId) ≠ s.cfg.station ∧ s.monitor.terminal = true ∧
        (stopFlagged s false).stopSetNonempty = false) ∧
    parseFrame (hear 1 [0, 0]) = some (4, .state 0 false false false (Vector.replicate 8 0) none) ∧
    (stopped bay).startQueue = [] ∧ (∀ h : HeaderId, ¬ 0 < (stopped bay).peers[(4 : StationId)].shares[h]) := by
  refine ⟨⟨⟨?_, ?_, ?_, ?_, ?_⟩, ?_, ?_⟩, ?_, ?_, ?_, ?_⟩ <;> decide +kernel

theorem witness_PermitClaimFrame : (bay.Takes (hear 4 [0, 0, 0x76, 0xD2]) 4 (.permitClaim 30418) ∧
      bay.sessionPermit ≠ some 30418) ∧
    ((inSession .checking).sessionPermit = some 30418 ∧ (4 : StationId) < (inSession .checking).cfg.station) ∧
    ((inSession .checking).Takes (frameFrom 10 4 [0, 0, 0x76, 0xD2]) 10 (.permitClaim 30418) ∧
      (inSession .checking).cfg.station < 10) ∧
    (∀ st ∈ [SessionState.admitted, .ending], (inSession st).sessionPermit = some 30418 ∧
      (inSession st).session.state = st ∧ (inSession st).linkOpen = true ∧ (inSession st).station ≠ .clash ∧
        (inSession st).link.queue.length < 8) := by
  refine ⟨⟨⟨?_, ?_, ?_, ?_, ?_⟩, ?_⟩, ?_, ⟨⟨?_, ?_, ?_, ?_, ?_⟩, ?_⟩, ?_⟩ <;> decide +kernel

/-- The tests a YIELD for header 3 puts an arm to. -/
def yields (s : State) (a : ArmId) (r : Int) : Prop :=
  (s.armCfg a).header = 3 ∧ (s.arm a).stage = .full ∧ (s.arm a).yieldMark = false ∧ s.armRemaining a = some r ∧
    ((s.armCfg a).yieldLock : Int) * 100 < r

theorem witness_YieldFrame : (loading .full).Takes (hear 3 [3, 2, 3]) 4 (.yield 3 3 3) ∧
    (loading .full).sessionClass < 3 ∧ (∃ a r, yields (loading .full) a r) ∧ (∀ a r, ¬ yields (loading .low) a r) ∧
    (1 : PriorityClass) ≤ (loading .full).sessionClass ∧
    (down.restart = true ∧ down.station ≠ .configFault ∧ down.stage5Waits = false) := by
  refine ⟨⟨?_, ?_, ?_, ?_, ?_⟩, ?_, ⟨1, 600000, by unfold yields; decide⟩, ?_, ?_, ?_⟩
  case refine_7 =>
    intro a r h
    have : ∀ a, ((loading .low).arm a).stage ≠ .full := by decide
    exact this a h.2.1
  all_goals decide +kernel

theorem witness_NoteFrames : (bay.Takes (hear 9 [9]) 4 (.noteRequest 9) ∧ bay.notes.store = []) ∧
    (let s : State := { bay with notes := ⟨[note 41, note 42], 43, [], false⟩ };
      s.notes.store = note 41 :: [note 42] ∧ (note 41).marker = none ∧ s.station ≠ .clash ∧ s.link.queue.length < 8 ∧
      ∀ y ∈ [note 42], y.number ≠ (note 41).number) ∧
    (bay.Takes (hear 10 [9, 0, 0, 41]) 4 (.noteTaken 9 41) ∧ ∀ x ∈ bay.notes.store, x.number ≠ 41) ∧
    (∀ n ∈ [3, 4], let s : State := { writing n none with notes := ⟨[note 41], 42, [], false⟩ };
      (∃ x ∈ s.notes.store, x.number = 41) ∧ s.retention.queue.length = n ∧ s.linkOpen = true ∧ s.retention.queue ≠ []) ∧
    (bay.retention.queue = [] ∧ issuedSlot bay.retention.mem 41 = none) := by
  refine ⟨⟨⟨?_, ?_, ?_, ?_, ?_⟩, ?_⟩, ?_, ⟨⟨?_, ?_, ?_, ?_, ?_⟩, ?_⟩, ?_, rfl, issuedSlot_blank 41⟩ <;> decide +kernel

theorem witness_ClockSecond : bay.station ≠ .configFault ∧ bay.stage5Waits = false ∧ bay.clock.second < 86399 ∧
    (let s : State := { bay with clock := ⟨65535, 86399, false, 0⟩ };
      86399 ≤ s.clock.second ∧ s.clock.dateKnown = false) ∧
    (let s : State := { admitted with clock := ⟨1000, 86399, true, 0⟩ };
      86399 ≤ s.clock.second ∧ s.clock.dateKnown = true ∧ s.session.permit = some permit ∧
        permit.expiry < (s.clock.day + 1) % 65536 ∧ s.session.state = .admitted) ∧
    (let s : State := { bay with clock := ⟨999, 86399, true, 0⟩ };
      s.clock.dateKnown = true ∧ s.session.permit = none) := by decide

theorem witness_PeerAgeing : (∀ f ∈ [Freshness.fresh, .stale],
      let s : State := { bay with peers := bay.peers.set 4 { Peer.cold with fresh := f } };
      s.peers[(4 : StationId)].fresh = f) ∧
    (∀ h : HeaderId, Peer.cold.shares[h] = 0) ∧ (retryWaiting none).peers[(4 : StationId)].fresh = .stale ∧
    (retryWaiting none).startQueue = [] := by decide

theorem witness_ListenAndStatePeriods : (let s : State := { bay with
        station := .starting
        listenTimer := some 50000 };
      s.listenTimer ≠ none ∧ s.station = .starting ∧ s.startQueue = []) ∧
    (bay.periodTimer ≠ none ∧ bay.linkOpen = true ∧ bay.station ≠ .clash ∧ bay.link.queue = [] ∧ bay.link.tx = .empty ∧
      bay.link.lineIdle = false) ∧
    (let s : State := { bay with link := { bay.link with lineIdle := true } };
      s.link.queue = [] ∧ s.link.tx = .empty ∧ s.link.lineIdle = true) ∧
    (let s : State := { bay with station := .clash };
      s.periodTimer ≠ none ∧ s.linkOpen = true ∧ s.station = .clash) := by decide

/-- Each place of a STATE in a queue (R8, R9, R10): before and after. -/
theorem test_state_places : ∀ x ∈ [(TxState.sending, false, [FrameTag.claim 3, .note 41, .state, .note 42], [1, 2, 40, 4]),
      (.ready, false, [.state, .note 41, .state], [1, 2, 40]), (.backoff, false, [.state, .note 41], [40, 2]),
      (.sending, false, [.state, .note 41], [1, 2, 40]), (.ready, false, [.stop], [1, 40]),
      (.ready, false, List.replicate 8 (.note 41), [1, 2, 3, 4, 5, 6, 7, 8]),
      (.backoff, true, [.claim 3, .stop, .note 41, .state], [1, 2, 40, 3]),
      (.ready, true, [.state, .note 41], [1, 40, 2]), (.ready, true, [.stop, .note 41, .state], [1, 40, 2]),
      (.ready, true, [.note 41], [40, 1]), (.ready, true, List.replicate 8 (.note 41), [1, 2, 3, 4, 5, 6, 7, 8])],
    (after .statePeriodExpiry { bay with link := { queueing x.1 x.2.2.1 with
      lastStateStop := x.2.1
      nextId := 40 } }).link.queue.map (·.id) = x.2.2.2 := by decide

theorem asks_bay : bay.Asks := ⟨by decide, by decide, by decide, by decide⟩
theorem asks_admitted : admitted.Asks := ⟨by decide, by decide, by decide, by decide⟩
theorem asks_loading (st : Stage) (g : GradeId) : (loading st g).Asks := ⟨nofun, rfl, nofun, rfl⟩

/-- The list of R37's checks 2 to 10 for the test card. -/
def refusal (s : State) : Option Reason :=
  firstOf
    [(decide (s.station = .clash), .clash), (decide (s.station = .starting), .starting),
      (decide (s.session.state ≠ .none), .busy), (decide (s.clock.dateKnown = false), .noDate),
      (decide (permit.expiry < s.clock.day), .expired), (decide (∃ r ∈ s.revoked, r.permit = permit.id), .revoked),
      (s.retention.fault, .storeFault), (decide (16 ≤ s.notes.store.length), .noteStoreFull),
      (decide (s.socketView = none ∨ s.monitor.ground = false), .noTanker),
      (decide (∃ q, q ≠ s.cfg.station ∧ s.peers[q].fresh ≠ .gone ∧ s.peers[q].permit = some permit.id), .inUse)]

theorem witness_Present : card.length = 12 ∧ parseCard (List.replicate 12 0) = none ∧ parseCard card = some permit ∧
    refusal admitted = some .busy ∧ refusal bay = none ∧ bay.socketView = some tag ∧ bay.link.queue.length < 8 ∧
    (let s : State := { bay with link := queueing .ready fullTags };
      refusal s = none ∧ 8 ≤ s.link.queue.length) := by decide +kernel

theorem witness_PermitClaimWindowEnd : let s : State := { bay with session := { session .checking with
      window := some 50000 } };
    s.session.state = .checking ∧ s.session.window ≠ none ∧ s.linkOpen = true ∧ s.allClosed = true ∧ s.startQueue = [] ∧
      s.session.idle = none ∧ s.station ≠ .clash ∧ s.link.queue.length < 8 := by decide

/-- ADMITTED, every arm CLOSED, a batch DONE; the write queue with `n` writes. -/
def finishing (n : Nat) : State :=
  { holding (started .done) with
    retention := { bay.retention with
      queue := List.replicate n (.removal 1)
      writeTimer := some 50050 } }

theorem witness_SessionEnding : (admitted.session.state = .admitted ∧ admitted.restart = false ∧
      admitted.allClosed = true ∧ admitted.session.idle ≠ none ∧ admitted.Asks) ∧
    (let s : State := { loading .full with session := { session .admitted with socketTimer := some 50000 } };
      s.session.state = .admitted ∧ s.restart = false ∧ s.session.socketTimer ≠ none ∧ s.allClosed = false) ∧
    (∀ n ∈ [3, 4], (finishing n).session.state = .admitted ∧ (finishing n).allClosed = true ∧
      (finishing n).batches[(1 : CompId)] = some (started .done) ∧ (started .done).started = true ∧
      (finishing n).notes.outbox = [] ∧ (finishing n).retention.queue.length = n) ∧
    bay.session.state = .none ∧ (inSession .checking).session.state = .checking ∧
    (inSession .ending).session.state = .ending ∧ (loading .low).allClosed = false := by
  refine ⟨⟨?_, ?_, ?_, ?_, asks_admitted⟩, ?_, ?_, ?_, ?_, ?_, ?_⟩ <;> decide

def tagFrom (n : Byte) : List Byte := withCheck [0, 0, 0, n, 0, 0, 0x27, 0x10]

theorem witness_TagReport : parseTag [0] = none ∧ parseTag (tagFrom 5) = some ⟨5, [10000]⟩ ∧
    bay.session.state = .none ∧
    (∀ st ∈ [SessionState.checking, .admitted], (inSession st).session.tag = some tag ∧ tag.id ≠ 5 ∧
      (inSession st).session.state = st) ∧
    (∀ st ∈ [SessionState.checking, .admitted], let s : State := { bay with session := { session st with
        tag := some ⟨5, [9000]⟩ } };
      s.session.tag = some ⟨5, [9000]⟩ ∧ s.session.state = st) := by decide +kernel

/-- A socket state report's body. -/
def body (ground sensor : Byte) : List Byte := [ground, sensor, 0, 0, 0, 0, 0, 0, 0]
def bodyCheck (bs : List Byte) : BitVec 16 := BitVec.ofNat 16 (crc16 (3 :: bs))
/-- The monitor after a report. -/
def reported (s : State) (bs : List Byte) (check : BitVec 16) : Monitor :=
  { s.monitor with
    ground := if socketStateAgrees bs check then decide (bs[0]? = some 1) else false
    sensors := if socketStateAgrees bs check then vec8 (fun k => sensorOf (bs.getD (k.val + 1) 2))
      else Vector.replicate 8 .fault }

theorem witness_SocketReports : bay.station ≠ .configFault ∧ (body 1 0).length = 9 ∧ ((body 1 0).take 8).length ≠ 9 ∧
    (let m := reported bay (body 1 0) (bodyCheck (body 1 0));
      (m.groundOut = true → bay.monitor.groundOut = true) ∧ (m.overfillOut = true → bay.monitor.overfillOut = true) ∧
        (bay.monitor.withdrawn = true → m.withdrawn = true ∨ bay.startQueue = [])) ∧
    (∀ g ∈ [0, 1], let m := reported (loading .full) (body g 1) (bodyCheck (body g 1));
      (loading .full).restart = false ∧ (loading .full).monitor.withdrawn = false ∧ m.withdrawn = true) ∧
    (faulted.station = .configFault ∧ faulted.session.state = .none) ∧
    (let s := closing ⟨.stop, .held, .controlled, .stepDown⟩;
      s.station ≠ .configFault ∧ s.restart = false ∧ s.monitor.withdrawn = false ∧ (s.arm 1).stage = .closing) ∧
    unplugAgrees 0 = false ∧ unplugAgrees (BitVec.ofNat 16 (crc16 [2])) = true := by decide +kernel

/-- The refusal PLAN's tests of R58 give for compartment 2, by grade, named arm and clamped preset. -/
def planRefusal (s : State) (g : GradeId) (named : Option ArmId) (clamped : Nat) : Option Reason :=
  let header := (s.gradeCfg g).header
  let serves := fun a : ArmId => (s.armCfg a).enabled = true ∧ (s.armCfg a).header = header ∧
    (named = none ∨ named = some a)
  firstOf
    [(decide (s.batches[(1 : CompId)] ≠ none), .duplicate), (!(s.gradeCfg g).enabled, .badGrade),
      (!permit.groups.getLsbD (s.headerCfg header).group.val, .notQualified),
      (decide (∀ a, ¬ serves a), .noArm),
      (decide (∃ code, (s.gradeCfg g).additive = some code ∧ ∀ j : InjectorId,
        ¬ ((s.injectorCfg j).enabled = true ∧ (s.injectorCfg j).code = code ∧ serves (s.injectorCfg j).arm)),
        .noInjector),
      (decide (clamped < s.cfg.minBatch), .tooSmall)]

theorem witness_Plan : ((1 : BitVec 24).toNat = 1 ∧ (99999 : BitVec 24).toNat = 99999 ∧ (100000 : BitVec 24).toNat = 100000 ∧
      (16 : Byte).toNat = 16 ∧ (4 : Byte) ≠ 255) ∧ bay.session.state ≠ .admitted ∧
    admitted.session.state = .admitted ∧ admitted.compartment 4 = none ∧ admitted.compartment 3 = some 2 ∧
    admitted.compartment 2 = some 1 ∧ admitted.session.permit = some permit ∧ admitted.safeFill 1 = 9000 ∧
    planRefusal admitted 3 (some 1) 9000 = none ∧ planRefusal admitted 3 (some 0) 9000 = some .noInjector ∧
    planRefusal admitted 1 none 10 = none ∧ planRefusal admitted 1 none 9 = some .tooSmall ∧
    planRefusal (holding (batch .planned)) 1 none 10 = some .duplicate := by decide +kernel

theorem witness_Amend : bay.session.state ≠ .admitted ∧ admitted.compartment 4 = none ∧
    (admitted.compartment 2 = some 1 ∧ admitted.batches[(1 : CompId)] = none) ∧
    (∀ b ∈ [batch .planned, started .suspended, started .done], (holding b).session.state = .admitted ∧
      (holding b).batches[(1 : CompId)] = some b ∧ min 6000 ((holding b).safeFill 1) = 6000 ∧
      ¬ 6000 < (holding b).cfg.minBatch ∧ ¬ 6000 * 100 ≤ ((holding b).figures 1 b).gross) ∧
    (loading .low).batches[(1 : CompId)] = some (running .active) ∧ (loading .low).ownerArm 1 = some 1 ∧
    ((loading .low).arm 1).stage ≠ .closing ∧
    (let s := closing ⟨.stop, .held, .controlled, .settle⟩;
      s.ownerArm 1 = some 1 ∧ (s.arm 1).stage = .closing) := by decide +kernel

theorem witness_Cancel : bay.session.state ≠ .admitted ∧ admitted.compartment 4 = none ∧
    admitted.batches[(1 : CompId)] = none ∧
    (∀ b ∈ [batch .planned, started .waiting, started .suspended], (holding b).session.state = .admitted ∧
      (holding b).compartment 2 = some 1 ∧ (holding b).batches[(1 : CompId)] = some b) ∧
    (let s := claiming .queued;
      s.batches[(1 : CompId)] = some (batch .waiting) ∧ (batch .waiting).started = false ∧ s.reservedArm 1 = some 1 ∧
        (s.header (s.armCfg 1).header).slot = some (lowClaim .queued) ∧ (lowClaim .queued).frameId < s.link.nextId) := by
  decide +kernel

/-- The arm tests of R65 for a batch of grade 1 naming no arm. -/
def passes (s : State) (a : ArmId) : Prop :=
  (s.armCfg a).enabled = true ∧ (s.armCfg a).header = 3 ∧ (s.arm a).coupled = true ∧ (s.arm a).inService = true ∧
    (s.arm a).stage = .closed ∧ (s.arm a).reserved = none ∧ (s.gradeCfg 1).additive = none

theorem witness_Start : (let s : State := { admitted with station := .clash };
      s.panel.port ≠ .answering ∧ s.restart = false ∧ s.station = .clash) ∧
    (let s : State := { admitted with station := .starting };
      s.station = .starting) ∧ (bay.station = .running ∧ bay.session.state ≠ .admitted) ∧
    (admitted.station = .running ∧ admitted.compartment 4 = none ∧ admitted.compartment 2 = some 1 ∧
      admitted.batches[(1 : CompId)] = none) ∧
    (let s := holding (batch .planned);
      s.station = .running ∧ s.session.state = .admitted ∧ s.compartment 2 = some 1 ∧
        s.batches[(1 : CompId)] = some (batch .planned) ∧ s.monitor.withdrawn = false ∧ s.startQueue = [] ∧
        (batch .planned).started = false ∧ (∀ k, (s.arm k).reserved ≠ some 1) ∧ passes s 0 ∧
        s.headers[(3 : HeaderId)].slot = none ∧ s.headers[(3 : HeaderId)].retryWait = false ∧
        s.headers[(3 : HeaderId)].ownShare + (s.armCfg 0).lowShare ≤ (s.headerCfg 3).capacity ∧
        s.link.queue.length < 8) ∧
    (let s : State := { holding (batch .planned) with headers := bay.headers.set 3 { Header.cold with retryWait := true } };
      s.headers[(3 : HeaderId)].retryWait = true) ∧
    (let s : State := { holding (batch .planned) with monitor := Monitor.cold };
      s.monitor.withdrawn = true) := by
  unfold passes
  decide +kernel

theorem witness_Resume : (let s := holding (started .suspended);
      s.station = .running ∧ s.session.state = .admitted ∧ s.compartment 2 = some 1 ∧
        s.batches[(1 : CompId)] = some (started .suspended) ∧ s.monitor.withdrawn = false ∧
        ¬ (started .suspended).preset * 100 ≤ (s.figures 1 (started .suspended)).gross ∧
        (s.armCfg 1).enabled = true ∧ (s.arm 1).inService = true ∧ s.allClosed = true) ∧
    (let s : State := { loading .low with batches := (loading .low).batches.set 0 (some (started .suspended)) };
      s.compartment 1 = some 0 ∧ s.batches[(0 : CompId)] = some (started .suspended) ∧ s.allClosed = false) := by
  decide +kernel

/-- R65's tests for grade 1 and the K-factor of arm 1. -/
def resumes (s : State) (a : ArmId) : Prop := passes s a ∧ (s.armCfg a).k = (s.armCfg 1).k

/-- The last arm passes; the last arm does not, and arm 0 is the lowest of equal K-factor that does; no arm has it. -/
theorem witness_Resume_arms : (let s := holding (started .suspended);
      (started .suspended).started = true ∧ (started .suspended).lastArm = some 1 ∧ s.startQueue = [] ∧
        (∀ k, (s.arm k).reserved ≠ some 1) ∧ resumes s 1 ∧ s.headers[(3 : HeaderId)].slot = none ∧
        s.headers[(3 : HeaderId)].retryWait = false ∧
        s.headers[(3 : HeaderId)].ownShare + (s.armCfg 1).lowShare ≤ (s.headerCfg 3).capacity ∧
        s.link.queue.length < 8) ∧
    (let s : State := { holding (started .suspended) with arms := bay.arms.set 1 { bay.arms[1] with coupled := false } };
      ¬ resumes s 1 ∧ resumes s 0) ∧
    (let s : State := { holding (started .suspended) with arms := Vector.replicate 4 (Arm.cold 1500 400 0 0 false) };
      ∀ a, ¬ resumes s a) := by
  unfold resumes passes
  decide +kernel

-- R65: the last arm that passes is taken before arm 0, which passes too.
theorem test_resume_last_arm : ((after (.resume 2) (holding (started .suspended))).arm 1).reserved = some 1 ∧
    ((after (.resume 2) { holding (started .suspended) with
      arms := bay.arms.set 1 { bay.arms[1] with coupled := false } }).arm 0).reserved = some 1 := by decide +kernel

theorem witness_Hold_all : let s := claiming .queued;
    s.session.state = .admitted ∧ s.batches[(1 : CompId)] = some (batch .waiting) ∧ s.reservedArm 1 = some 1 ∧
      (∀ i b, s.batches[i] = some b → b.state = .active → s.ownerArm i ≠ some 0) := by
  refine ⟨by decide, by decide, by decide, fun i b h => ?_⟩
  have : ∀ i : CompId, (claiming .queued).batches[i] = none ∨
      (claiming .queued).batches[i] = some (batch .waiting) := by decide
  intro hb
  rcases this i with g | g <;> rw [g] at h <;> cases h
  cases hb

theorem witness_Hold : bay.session.state ≠ .admitted ∧ admitted.compartment 4 = none ∧
    admitted.batches[(1 : CompId)] = none ∧
    (∀ st ∈ [Stage.low, .full], (loading st).session.state = .admitted ∧ (loading st).compartment 2 = some 1 ∧
      (loading st).batches[(1 : CompId)] = some (running .active) ∧ (loading st).ownerArm 1 = some 1 ∧
      ((loading st).arm 1).stage = st ∧ st.flowing = true) ∧
    (let s := closing ⟨.stop, .held, .controlled, .settle⟩;
      s.batches[(1 : CompId)] = some (running .active) ∧ s.ownerArm 1 = some 1 ∧ (s.arm 1).stage = .closing) ∧
    (∀ b ∈ [batch .waiting, started .waiting], (queued b).batches[(1 : CompId)] = some b ∧ b.state = .waiting) ∧
    (claiming .queued).reservedArm 1 = some 1 ∧
    (holding (batch .planned)).batches[(1 : CompId)] = some (batch .planned) ∧
    (∀ i : CompId, admitted.batches[i] = none) := by decide +kernel

theorem witness_PanelReads : ((3 : Byte).toNat ≤ 3 ∧ 3 < (4 : Byte).toNat) ∧
    ((loading .low).compartment 2 = some 1 ∧ (loading .low).batches[(1 : CompId)] = some (running .active)) ∧
    (let s : State := { bay with notes := ⟨[note 41], 42, [], false⟩ };
      note 41 ∈ s.notes.store ∧ (note 41).number = (41 : BitVec 24).toNat ∧
        ∀ y ∈ s.notes.store, y.number = (41 : BitVec 24).toNat → y = note 41) ∧
    (∀ x ∈ bay.notes.store, x.number ≠ (41 : BitVec 24).toNat) ∧ bay.panel.port ≠ .answering ∧
    bay.notes.store.length ≤ 16 ∧ (running .active).suspCount ≤ 255 ∧
    (admitted.compartment 4 = none ∧ admitted.compartment 2 = some 1 ∧ admitted.batches[(1 : CompId)] = none) ∧
    (card.length = 12 ∧ (3 : Byte).toNat ≤ 15 ∧ (99999 : BitVec 24).toNat = 99999) ∧
    (after .panelFormatError bay).panel.port = .answering ∧
    (let s : State := { bay with panel := ⟨.idle, none, true⟩ };
      s.panel.port ≠ .answering ∧ s.panel.discarding = true) ∧ faulted.panel.discarding = false ∧
    down.panel.discarding = false ∧
    (faulted.panel.port ≠ .answering ∧ faulted.station = .configFault) ∧
    (down.panel.port ≠ .answering ∧ down.station ≠ .configFault ∧ down.restart = true) := by decide

/-- A header's walk order from its two properties, peer by peer. -/
theorem walk_order (s : State) (h : HeaderId) (order : List StationId)
    (hm : ∀ q : StationId, q ∈ order ↔ q ≠ s.cfg.station ∧ (s.peers[q].claims[h].any fun x =>
      decide (s.sessionClass < x.cls ∨ (x.cls = s.sessionClass ∧ q < s.cfg.station))) = true)
    (hs : order.Pairwise fun p q : StationId => (s.peers[p].claims[h].all fun x => s.peers[q].claims[h].all fun y =>
      decide (y.cls < x.cls ∨ (x.cls = y.cls ∧ p < q))) = true) : s.WalkOrder h order := by
  refine ⟨fun q => (hm q).trans ?_, hs.imp fun hpq x y hx hy => ?_⟩
  · cases s.peers[q].claims[h] <;> simp
  · rw [hx, hy] at hpq
    exact of_decide_eq_true hpq

/-- 5.3.1: the CLAIM of station 14, class 2, is walked before that of station 4, class 1; the class 0 claim of 22 is not
walked before the own claim of class 1. -/
theorem witness_walk : (walk (some ⟨11, 2, 49900⟩)).WalkOrder 3 [14, 4] ∧
    (walk (some ⟨11, 2, 49900⟩)).walkLeft 3 [14, 4] = 5 ∧ (walk none).WalkOrder 3 [4] ∧
    (walk none).walkLeft 3 [4] = 10 := by
  refine ⟨walk_order _ _ _ ?_ ?_, ?_, walk_order _ _ _ ?_ ?_, ?_⟩ <;> decide +kernel

/-- Arm 0 WAITING besides. -/
def arm0Waits (s : State) : State := { s with arms := s.arms.set 0 { s.arms[0] with stepUp := .waiting } }

/-- The arms that wait for header 3. -/
def waits (s : State) (a : ArmId) : Prop := (s.armCfg a).header = 3 ∧ (s.arm a).stepUp = .waiting

theorem witness_PassedOn : (∀ s ∈ [arm0Waits (claiming (.settling 50000)), arm0Waits (walk none)],
      waits s 0 ∧ (∀ b, waits s b → 0 ≤ b) ∧ s.mayClaim = true ∧ s.linkOpen = true ∧ s.link.queue.length + 2 < 8 ∧
        18 + ((s.armCfg 0).fullShare - (s.armCfg 0).lowShare) ≤ (s.headerCfg 3).capacity) ∧
    (∀ x ∈ (claiming (.settling 50000)).startQueue, x = 1) ∧ (walk none).startQueue = [] ∧
    (∀ a, ¬ waits (claiming (.settling 50000)) a) := by
  unfold waits
  decide +kernel

/-- The figures a LOW CLAIM's batch may bring: none, saved in its record, in the arm's own context, in another arm's. -/
def bringing (b : Batch) (owner0 owner1 : Option CompId) : State :=
  let s := claiming (.settling 50000)
  { s with
    batches := (s.batches.set 1 (some b)).set 5 (some (running .suspended))
    arms := (s.arms.set 0 { s.arms[0] with owner := owner0 }).set 1 { s.arms[1] with owner := owner1 } }

theorem witness_ClaimCommits : (∀ x ∈ [(batch .waiting, none, some (5 : CompId)), (started .waiting, none, none),
        (running .waiting, none, some 1), (running .waiting, some 1, some 5)], let s := bringing x.1 x.2.1 x.2.2;
      s.headers[(3 : HeaderId)].slot = some (lowClaim (.settling 50000)) ∧ (s.armCfg 1).header = 3 ∧
        5 ≤ s.walkLeft 3 [] ∧ (s.arm 1).stage = .closed ∧
        (lowClaim (.settling 50000)).increase = (s.armCfg 1).lowShare ∧ (s.arm 1).reserved = some 1 ∧
        s.batches[(1 : CompId)] = some x.1 ∧
        (∀ a a' : ArmId, (s.arm a).owner = some 1 → (s.arm a').owner = some 1 → a = a') ∧
        (x.1.saved = true ∨ x.1.started = false ∨ ∃ a, (s.arm a).owner = some 1)) ∧
    (bringing (batch .waiting) none (some 5)).WalkOrder 3 [] ∧
    (∀ st ∈ [Stage.low, .reduced], let s := stepping st (.settling 50000);
      (s.arm 1).stage = st ∧ (8 : Nat) = (s.armCfg 1).fullShare - (s.armCfg 1).lowShare ∧
        (s.armCfg 1).lowShare ≤ (s.armCfg 1).fullShare ∧ 8 ≤ s.walkLeft 3 []) ∧
    ((walk none).headers[(3 : HeaderId)].slot = some ⟨2, .stepUp, 8, 18, .settling 50000, 7⟩ ∧
      (8 : Int) ≤ (walk none).walkLeft 3 [4]) := by
  refine ⟨?_, walk_order _ _ _ ?_ ?_, ?_, ?_⟩ <;> decide +kernel

/-- A peer that holds 36 of the 40 units of header 3. -/
def crowded (s : State) : State := { s with peers := bay.peers.set 4 { Peer.cold with
  fresh := .fresh
  shares := Peer.cold.shares.set 3 36 } }

theorem witness_ClaimWithdraws : (let s := crowded (claiming (.settling 50000));
      s.headers[(3 : HeaderId)].slot = some (lowClaim (.settling 50000)) ∧ (s.armCfg 1).header = 3 ∧
        s.linkOpen = true ∧ s.walkLeft 3 [] < 5 ∧ 0 < s.sessionClass.val ∧ s.station ≠ .clash ∧
        s.headers[(3 : HeaderId)].yieldTimer = none ∧ s.link.queue.length < 7) ∧
    (crowded (claiming (.settling 50000))).WalkOrder 3 [] ∧
    (let s := walk (some ⟨11, 2, 49900⟩);
      s.headers[(3 : HeaderId)].slot = some ⟨2, .stepUp, 8, 18, .settling 50000, 7⟩ ∧ s.startQueue = [] ∧
        s.walkLeft 3 [14, 4] < 8) := by
  refine ⟨?_, walk_order _ _ _ ?_ ?_, ?_⟩ <;> decide +kernel

/-- A header with its retry timer due. -/
def retrying (s : State) (slot : Option Claim) : State :=
  { s with headers := s.headers.set 3 { Header.cold with
    retryTimer := some 50000
    retryWait := true
    slot := slot } }

theorem witness_ShareTimers : (let s := retrying bay none;
      s.headers[(3 : HeaderId)].retryTimer ≠ none ∧ s.startQueue = [] ∧
        (∀ a, (s.armCfg a).header = 3 → (s.arm a).stepUp ≠ .retryWait ∧ (s.arm a).stepUp ≠ .waiting)) ∧
    (let s := retrying { bay with arms := bay.arms.set 1 { open_ .low with stepUp := .retryWait } } (some (lowClaim .queued));
      s.headers[(3 : HeaderId)].retryTimer ≠ none ∧ s.headers[(3 : HeaderId)].slot ≠ none ∧ (s.arm 1).stepUp = .retryWait) ∧
    (∀ st ∈ [Stage.slowdown, .reduced], let s : State := { loading st with
        arms := bay.arms.set 1 { open_ st with holdOff := some 50000 } };
      s.arms[(1 : ArmId)].holdOff ≠ none ∧ s.arms[(1 : ArmId)].stage = st ∧ s.arms[(1 : ArmId)].stepUp = .none ∧
        s.mayClaim = true ∧ s.headers[(3 : HeaderId)].slot = none ∧ 5 + 8 ≤ (s.headerCfg 3).capacity ∧
        s.link.queue.length < 8 ∧ s.restart = false) ∧
    (let s : State := { loading .low with arms := bay.arms.set 1 { open_ .low with overdrawTimer := some 50000 } };
      s.arms[(1 : ArmId)].overdrawTimer ≠ none ∧ s.restart = false ∧ s.arms[(1 : ArmId)].stage.flowing = true) := by
  decide +kernel

theorem witness_PulsesAndReadings : (let s : State := { loading .low with
        arms := bay.arms.set 1 { open_ .low with
          sliceCounter := 2
          converter := some 50010 } };
      (s.armCfg 1).enabled = true ∧ s.arms[(1 : ArmId)].counting = true ∧ 1 < s.arms[(1 : ArmId)].sliceCounter ∧
        s.arms[(1 : ArmId)].converter ≠ none ∧ s.arms[(1 : ArmId)].flowCounter ≠ none) ∧
    ((bay.armCfg 3).enabled = false ∧ bay.arms[(1 : ArmId)].counting = false) ∧
    (open_ .low).resultsOwed = 0 ∧ bay.arms[(1 : ArmId)].converter = none ∧ ending108.arms[(1 : ArmId)].resultsOwed = 0 + 1 ∧
    ((-5000 : Int) ≤ -5000 ∧ (8000 : Int) ≤ 8000 ∧ (-5001 : Int) < -5000 ∧ (8000 : Int) < 8001) := by decide +kernel

/-- An arm's converter IDLE, at the end of its 20 ms and within them, as a full slice or a commit can find it. -/
theorem witness_Converts : ∀ c ∈ [(none : Timer), some 50000, some 50001],
    let s : State := { loading .full with arms := bay.arms.set 1 { open_ .full with converter := c } };
    s.now = 50000 ∧ s.arms[(1 : ArmId)].converter = c ∧ s.arms[(1 : ArmId)].counting = true ∧
      s.arms[(1 : ArmId)].sliceCounter = 1 := by decide

theorem witness_FullSliceVolumes : (let s := before 0 0 0 0;
      (s.armCfg 1).enabled = true ∧ s.arms[(1 : ArmId)].counting = true ∧ s.arms[(1 : ArmId)].sliceCounter = 1 ∧
        1 ≤ (s.armCfg 1).slice ∧ 0 < (s.armCfg 1).k ∧ s.arms[(1 : ArmId)].owner = some 1 ∧
        s.batches[(1 : CompId)] = some (running .active) ∧ s.arms[(1 : ArmId)].live.gross + 1001 < 2 ^ 48 ∧
        s.arms[(1 : ArmId)].live.std + 988 < 2 ^ 48 ∧ -2 ^ 63 ≤ s.arms[(1 : ArmId)].live.weighted + 1001 * 2540) ∧
    (let s : State := { loading .full with arms := bay.arms.set 1 { open_ .full with lastGood := none } };
      s.arms[(1 : ArmId)].owner = some 1 ∧ s.arms[(1 : ArmId)].lastGood = none) ∧
    (let s : State := { loading .full with
        cfg := { cfg with headers := cfg.headers.set 3 ⟨true, 2, 40, 30000, 10000⟩ }
        arms := bay.arms.set 1 { open_ .full with lastGood := some 4600 } };
      s.arms[(1 : ArmId)].owner = some 1 ∧ ctlClamps (s.headerCfg 3).alpha (s.headerCfg 3).gamma
        (s.arms[(1 : ArmId)].lastGood.getD 1500) = true) := by decide +kernel

theorem witness_CorrectionFactor : (0 < 1000 ∧ 2 * ((500 : Int) - 1000 * roundDiv 500 1000) = -1000 ∧ (0 : Int) < 500 ∧
      2 * ((-500 : Int) - 1000 * roundDiv (-500) 1000) = 1000 ∧ (-500 : Int) < 0) ∧
    ctlFormed 30000 10000 8000 = 762750 ∧ ctlFormed 30000 10000 (-5000) = 1152750 ∧
      ctlFormed 30000 10000 4500 = 901000 := by decide +kernel

theorem witness_AdditiveLaw : let s := shooting (shot 503 false);
    (s.armCfg 1).enabled = true ∧ s.arms[(1 : ArmId)].counting = true ∧ s.arms[(1 : ArmId)].sliceCounter = 1 ∧
      1 ≤ (s.armCfg 1).slice ∧ s.arms[(1 : ArmId)].owner = some 1 ∧
      s.batches[(1 : CompId)] = some { running .active with grade := 3 } ∧ (s.gradeCfg 3).additive = some 1 ∧
      s.servingInjector 1 1 = some 1 ∧ ((shooting (shot 3 true)).injector 1).firing = true := by decide +kernel

/-- Arm 1 dosing with its window CLOSED, after some volume, with some owed. -/
def dosing (gross owed : Nat) : State :=
  { loading .full 3 with arms := bay.arms.set 1 { open_ .full with
    live := { Accum.zero with
      gross := gross
      owed := owed } } }

theorem witness_ShotFires : ∀ s ∈ [dosing 0 0, dosing 599000 0, dosing 593999 0],
    (s.armCfg 1).enabled = true ∧ s.arms[(1 : ArmId)].counting = true ∧ s.arms[(1 : ArmId)].sliceCounter = 1 ∧
      1 ≤ (s.armCfg 1).slice ∧ s.arms[(1 : ArmId)].owner = some 1 ∧ (s.gradeCfg 3).additive = some 1 ∧
      s.servingInjector 1 1 = some 1 ∧ (s.injector 1).firing = false ∧ (s.injector 1).window = none ∧
      s.session.latches[(1 : InjectorId)] = false ∧ s.arms[(1 : ArmId)].stage.flowing = true ∧
      (s.injectorCfg 1).shot * 100 ≤ 1001 * (s.gradeCfg 3).ratio := by decide +kernel

/-- The window judged at 9.10's tolerance of 10 % on an expected count of 500: 449 short, 450 and 550 neither, 551 over. -/
theorem witness_ShotFires_judged : (∀ x ∈ [(shot 449 false, 1), (shot 450 false, 0), (shot 550 false, 0),
      (shot 551 false, 1), ({ shot 449 false with badRun := 2 }, 3)],
      let s := shooting x.1;
      (s.injector 1).firing = false ∧ s.session.latches[(1 : InjectorId)] = false ∧
        ((s.injector 1).window.map fun w => badRunAfter (s.injectorCfg 1) w (s.injector 1).badRun) = some x.2) ∧
    (shooting (shot 449 false)).monitor.bypass = false ∧ (shooting (shot 449 false)).restart = false := by
  decide +kernel

theorem test_flush_boundary : (after (.aPulse 1) (dosing 593998 0)).arms[1].live.commanded = 2000 ∧
    (after (.aPulse 1) (dosing 593999 0)).arms[1].live.commanded = 0 := by decide +kernel

theorem witness_InjectorShots : bay.injectors[(1 : InjectorId)].window = none ∧
    (∀ x ∈ [shot 498 true, shot 499 true, shot 500 false], let s := shooting x;
      s.injectors[(1 : InjectorId)].window = some ⟨1, x.window.elim 0 (·.count), false⟩ ∧ s.restart = false ∧
        s.injectors[(1 : InjectorId)].firing = x.firing) ∧
    max 1 ((bay.injectorCfg 1).shot * (bay.injectorCfg 1).feedbackK / 1000) = 500 ∧
    ((shooting (shot 3 true)).injectors[(1 : InjectorId)].width ≠ none) := by decide +kernel

/-- A flowing arm before a slice: gross, preset, pending preset, yield mark. -/
def sliced (st : Stage) (gross : Nat) (pend : Option Nat) (mark : Bool) (count : Nat) : State :=
  { loading st with
    batches := (Vector.replicate 8 none).set 1 (some { running .active with pendPreset := pend })
    arms := bay.arms.set 1 { open_ st with
      live := { Accum.zero with gross := gross }
      yieldMark := mark
      overdrawCount := count } }

theorem witness_SliceStages : ∀ s ∈ [sliced .full 0 none false 0, sliced .full 569000 none false 0,
      sliced .slowdown 597499 (some 6000) false 0, sliced .full 500000 (some 5000) true 2, sliced .low 0 none false 0],
    (s.armCfg 1).enabled = true ∧ s.arms[(1 : ArmId)].counting = true ∧ s.arms[(1 : ArmId)].sliceCounter = 1 ∧
      s.arms[(1 : ArmId)].owner = some 1 ∧ s.arms[(1 : ArmId)].stage.flowing = true ∧ s.restart = false ∧
      (s.gradeCfg 1).additive = none ∧ s.cfg.pulseLimit = 0 ∧ (s.batches[(1 : CompId)].map (·.grade)) = some 1 := by
  decide +kernel

/-- R128 step 5 at 5.3.1's shares: own share 5, increase 8; start volume 200 L. -/
theorem witness_SliceStages_stepUp : (let s := sliced .low 20000 none false 0;
      s.arms[(1 : ArmId)].stage = .low ∧ s.arms[(1 : ArmId)].stepUp = .none ∧ s.mayClaim = true ∧
        s.headers[(3 : HeaderId)].slot = none ∧ s.link.queue.length < 8 ∧
        (s.stepUpClaim 1 s.headers[(3 : HeaderId)].ownShare s.link.nextId).total = 13 ∧
        (s.headerCfg 3).capacity = 40 ∧ (s.armCfg 1).startVol * 100 = 20000) ∧
    (let s : State := { sliced .low 20000 none false 0 with
        headers := bay.headers.set 3 { Header.cold with ownShare := 33 } };
      (s.headerCfg 3).capacity < (s.stepUpClaim 1 s.headers[(3 : HeaderId)].ownShare s.link.nextId).total) ∧
    (let s : State := { sliced .low 20000 none false 0 with
        headers := bay.headers.set 3 { Header.cold with slot := some ⟨0, .low, 5, 10, .queued, 7⟩ } };
      s.headers[(3 : HeaderId)].slot ≠ none) := by decide +kernel

/-- A flowing arm before a slice with a limit of 10 pulse errors: errors so far, B pulses. -/
def checked (st : Stage) (errors b : Nat) : State := { loading st with
  cfg := { cfg with pulseLimit := 10 }
  arms := bay.arms.set 1 { open_ st with
    bCount := b
    live := { Accum.zero with pulseErr := errors } } }

theorem witness_SliceStages_meter : ∀ x ∈ [(8, 402, false), (9, 402, true), (10, 401, false), (9, 398, true)],
    let s := checked .full x.1 x.2.1;
    (s.armCfg 1).enabled = true ∧ s.arms[(1 : ArmId)].counting = true ∧ s.arms[(1 : ArmId)].sliceCounter = 1 ∧
      (s.gradeCfg (running .active).grade).additive = none ∧ s.batches[(1 : CompId)] = some (running .active) ∧
      (pulseErrors s.cfg.pulseLimit s.arms[(1 : ArmId)].live.pulseErr (s.armCfg 1).slice
        s.arms[(1 : ArmId)].bCount).2 = x.2.2 := by decide +kernel

theorem test_meter_fault : (after (.aPulse 1) (checked .full 9 402)).arms[1].close =
    some ⟨.stop, .meter, .controlled, .stepDown⟩ ∧ (after (.aPulse 1) (checked .full 8 402)).arms[1].meterCause =
    false := by decide +kernel

theorem test_slice_stages : (after (.aPulse 1) (sliced .full 568999 none false 0)).arms[1].stage = .slowdown ∧
    (after (.aPulse 1) (sliced .full 568998 none false 0)).arms[1].stage = .full ∧
    (after (.aPulse 1) (sliced .slowdown 597499 none false 0)).arms[1].close.map (·.cause) = some .closeAhead ∧
    (after (.aPulse 1) (sliced .full 0 none true 0)).arms[1].stage = .reduced := by decide +kernel

theorem witness_ArmCloses : (∀ st ∈ [Stage.low, .full], (loading st).arms[(1 : ArmId)].noFlow ≠ none ∧
      (loading st).restart = false ∧ (loading st).arms[(1 : ArmId)].stage = st ∧ st.flowing = true) ∧
    (closing ⟨.stop, .held, .controlled, .stepDown⟩).arms[(1 : ArmId)].stepDown ≠ none ∧
    (let s := closing ⟨.stop, .held, .controlled, .settle⟩;
      s.arms[(1 : ArmId)].closeLimit ≠ none ∧ s.arms[(1 : ArmId)].owner = some 1 ∧
        s.batches[(1 : CompId)] = some (running .active)) ∧
    ((loading .low).station ≠ .configFault ∧ (loading .low).arms[(1 : ArmId)].coupled = true) ∧
    (let s := closing ⟨.stop, .held, .controlled, .stepDown⟩;
      s.arms[(1 : ArmId)].coupled = true ∧ s.arms[(1 : ArmId)].stage = .closing ∧ s.restart = false) ∧
    (bay.arms[(1 : ArmId)].stage = .closed ∧ bay.arms[(1 : ArmId)].reserved = none ∧ bay.startQueue = []) := by decide

theorem witness_CloseCompletes : ∀ cl ∈ [(⟨.normal, .closeAhead, .controlled, .settle⟩ : Close),
      ⟨.normal, .preset, .controlled, .settle⟩, ⟨.stop, .held, .controlled, .settle⟩], let s := closing cl;
    s.arms[(1 : ArmId)].settle ≠ none ∧ s.arms[(1 : ArmId)].close = some cl ∧ s.arms[(1 : ArmId)].stage = .closing ∧
      s.arms[(1 : ArmId)].owner = some 1 ∧ s.batches[(1 : CompId)] = some (running .active) ∧
      s.session.state ≠ .ending ∧ s.restart = false ∧ s.session.state = .admitted ∧ s.session.idle = none ∧
      s.startQueue = [] ∧ (∀ j, j ≠ 1 → (s.arm j).stage = .closed) ∧ s.arms[(1 : ArmId)].leak = false := by decide

/-- The last arm of an ENDING session, CLOSING, with `n` writes queued. -/
def ending (n : Nat) : State := { closing ⟨.stop, .sessionEnd, .controlled, .settle⟩ with
  session := { session .ending with
    start := some (410, 3000)
    endReason := some .idle }
  retention := { bay.retention with queue := List.replicate n (.totals bay.totalsNow) } }

theorem witness_CloseCompletes_ending : ∀ n ∈ [2, 3], let s := ending n;
    s.arms[(1 : ArmId)].settle ≠ none ∧ s.arms[(1 : ArmId)].close = some ⟨.stop, .sessionEnd, .controlled, .settle⟩ ∧
      s.arms[(1 : ArmId)].stage = .closing ∧ s.session.state = .ending ∧ s.restart = false ∧
      (∀ j, j ≠ 1 → (s.arm j).stage = .closed) ∧ s.arms[(1 : ArmId)].owner = some 1 ∧
      s.batches[(1 : CompId)] = some (running .active) ∧ s.notes.outbox = [] ∧ s.retention.queue.length = n := by decide

/-- An ENDING session's close at close-ahead, the other arms CLOSED or arm 2 still CLOSING. -/
def endingShort (other : Bool) : State :=
  let s : State := { ending 3 with arms := (closing ⟨.normal, .closeAhead, .controlled, .settle⟩).arms }
  if other then { s with arms := s.arms.set 2 { open_ .closing with owner := none } } else s

theorem witness_CloseCompletes_endingNormal : ∀ o ∈ [true, false], let s := endingShort o;
    s.arms[(1 : ArmId)].settle ≠ none ∧
      s.arms[(1 : ArmId)].close = some ⟨.normal, .closeAhead, .controlled, .settle⟩ ∧
      s.arms[(1 : ArmId)].stage = .closing ∧ s.arms[(1 : ArmId)].owner = some 1 ∧
      s.batches[(1 : CompId)] = some (running .active) ∧ s.session.state = .ending ∧ s.restart = false ∧
      ((∃ j, j ≠ 1 ∧ (s.arm j).stage ≠ .closed) ↔ o = true) ∧ s.arms[(1 : ArmId)].leak = false ∧
      s.noteLines.length = 1 := by decide

/-- R137 in ENDING: SHORT is set and the close-ahead value learned (clamped at 0), with another arm open and with the issue
waiting; with room for the note its line carries SHORT. -/
theorem test_ending_learns : (∀ o ∈ [true, false], let t := after (.settleTimerExpiry 1) (endingShort o);
      t.session.state = .ending ∧ t.arms[1].closeAhead = 0 ∧
        t.batches[1].map (fun b => (b.state, b.flags.short)) = some (.done, true)) ∧
    (after (.settleTimerExpiry 1) { endingShort false with retention := bay.retention }).notes.store.map
      (fun n => fieldAt n.record 49 1) = [4] := by decide +kernel

theorem witness_CloseCompletes_windows : let s : State := { shooting (shot 120 true) with
      arms := (closing ⟨.stop, .held, .controlled, .settle⟩).arms };
    (s.injectorCfg 1).arm = 1 ∧ (s.injector 1).window = some ⟨1, 120, false⟩ ∧ (s.injector 1).firing = true ∧
      s.arms[(1 : ArmId)].settle ≠ none := by decide

theorem test_ending_completes : (after (.settleTimerExpiry 1) (ending 2)).session.state = .none ∧
    (after (.settleTimerExpiry 1) (ending 2)).retention.queue.length = 4 ∧
    (after (.settleTimerExpiry 1) (ending 3)).notes.issueWaiting = true := by decide +kernel

/-- Seven NOTEs queued on a BUSY line and a claim SETTLING. -/
def settlingFull : State :=
  let s := claiming (.settling 51000)
  { s with
    notes := ⟨[{ note 41 with marker := some 37 }], 42, [], false⟩
    link := { s.link with
      tx := .ready
      queue := [31, 32, 33, 34, 35, 36, 37].map fun id => ⟨id, .note 41, []⟩ } }

theorem witness_LocalStop : (let s := loading .full;
      s.station ≠ .configFault ∧ s.monitor.stopInput = false ∧ s.stage5Waits = false ∧ s.restart = false ∧
        s.monitor.withdrawn = false ∧ s.ownStop = false ∧ s.link.queue.length < 7 ∧ s.link.Numbered) ∧
    (let s := settlingFull;
      s.station ≠ .configFault ∧ s.monitor.stopInput = false ∧ s.stage5Waits = false ∧ s.restart = false ∧
        s.monitor.withdrawn = false ∧ s.ownStop = false ∧ s.link.queue.length = 7 ∧ s.link.lineIdle = false ∧
        s.link.Numbered ∧
        s.headers[(3 : HeaderId)].slot = some (lowClaim (.settling 51000))) ∧
    (down.monitor.stopInput = false ∧ down.stage5Waits = false ∧ down.restart = true) ∧
    (let s := after .localStopActive bay;
      s.station ≠ .configFault ∧ s.restart = false ∧ s.panel.port ≠ .answering ∧ s.monitor.stopInput = true) ∧
    (let s := after .localStopNormal (after .localStopActive bay);
      s.monitor.stopInput = false ∧ s.monitor.stopLatch = true ∧ s.ownStop = true) ∧
    (bay.monitor.stopInput = false ∧ bay.monitor.stopLatch = false) := by
  unfold Link.Numbered
  decide

/-- A local stop and its CLEAR-STOP with frames queued, no arm flowing and no claim held. -/
theorem witness_LocalStop_queue : (∀ x ∈ [(TxState.empty, []), (.backoff, [FrameTag.claim 3, .note 41, .state])],
      let s : State := { bay with link := queueing x.1 x.2 };
      s.monitor.withdrawn = false ∧ s.ownStop = false ∧ (∀ a, (s.arm a).stage.flowing = false) ∧
        (∀ h, (s.header h).slot = none) ∧ s.station ≠ .clash ∧ s.link.lineIdle = false ∧ s.link.queue.length < 8 ∧
        (∀ g ∈ s.link.waiting, g.tag ≠ .stop)) ∧
    (let s := after .localStopNormal (after .localStopActive bay);
      s.ownStop = true ∧ s.monitor.terminal = true ∧ s.startQueue = [] ∧ s.station ≠ .clash ∧
        s.link.lastStateStop = true) := by decide

/-- The withdrawal's STATE fills the queue and is the frame the STOP displaces: no note loses its marker (R10, R87). -/
theorem test_local_stop_full : (after .localStopActive settlingFull).link.queue.map (·.tag) =
    .stop :: List.replicate 7 (.note 41) ∧ (after .localStopActive settlingFull).notes = settlingFull.notes := by decide +kernel

theorem witness_Deadman : (let s := deadman .running #v[false, true] #v[false, true];
      s.station ≠ .configFault ∧ s.monitor.contacts[(0 : ContactId)] = false ∧ s.restart = false ∧
        s.monitor.contacts[(0 + 1 : ContactId)] = true ∧ s.monitor.contacts[(1 : ContactId)] = true ∧
        s.monitor.deadmanTimer ≠ none) ∧
    (∀ k ∈ [false, true], let s := deadman .warning #v[false, false] #v[false, k];
      s.monitor.contacts[(0 + 1 : ContactId)] = false ∧ s.monitor.counted[(0 + 1 : ContactId)] = k ∧
        s.monitor.deadman = .warning ∧ s.monitor.deadmanTimer ≠ none ∧ s.monitor.withdrawn = false) ∧
    (bay.monitor.deadman = .stopped ∧ bay.monitor.contacts[(0 : ContactId)] = false) ∧
    (let s : State := { queued (batch .waiting) with
        monitor := { bay.monitor with
          deadman := .jammed
          counted := #v[false, true] } };
      s.allClosed = true ∧ s.startQueue ≠ [] ∧ s.monitor.counted[(0 + 1 : ContactId)] = true) ∧
    (let s : State := { bay with monitor := { bay.monitor with
        deadman := .jammed
        contacts := #v[true, true] } };
      s.monitor.contacts[(0 : ContactId)] = true ∧ s.restart = false ∧ s.allClosed = true ∧ s.startQueue = []) ∧
    (let s : State := { bay with monitor := { bay.monitor with
        deadman := .running
        jam := some 50000 } };
      s.monitor.jam ≠ none ∧ s.restart = false ∧ s.monitor.withdrawn = false) := by decide

theorem witness_BypassKey : (bay.station ≠ .configFault ∧ bay.monitor.bypass ≠ true ∧ bay.startQueue = []) ∧
    (∀ st ∈ [Stage.low, .full], let s : State := { loading st 3 with
        monitor := { (loading st 3).monitor with bypass := true }
        session := { session .admitted with latches := (Vector.replicate 4 false).set 1 true } };
      s.monitor.bypass ≠ false ∧ s.restart = false ∧ s.arms[(1 : ArmId)].owner = some 1 ∧
        s.batches[(1 : CompId)] = some { running .active with grade := 3 } ∧ s.gradeInjector 1 3 = some 1 ∧
        s.session.latches[(1 : InjectorId)] = true ∧ s.arms[(1 : ArmId)].stage.flowing = true) := by decide +kernel

theorem witness_NoteNumbersAndLines : ((List.replicate 16 (note 1)).length ≤ 16 ∧ 999999 ≤ 999999 ∧
      advanceNumber [note 1, note 3] 999999 = 2 ∧ (∀ x ∈ [note 3], x.number ≠ 1)) ∧
    (let s := loading .full;
      let b := running .active;
      1 ≤ b.preset ∧ b.preset ≤ 99999 ∧ b.lastArm = some 1 ∧ averageTemp (s.figures 1 b) = none) ∧
    (let s := before 5006 4942 0 0;
      averageTemp { (s.arm 1).live with weighted := 12715240 } = some 2540) ∧
    ((after (.aPulse 1) (loading .full 3)).gradeCfg 3).additive = some 1 ∧
    (loading .full 3).gradeInjector 1 3 = some 1 := by decide +kernel

theorem witness_RetentionWrites : (let s : State := { writing 1 none with notes := ⟨[], 58, [], false⟩ };
      s.retention.queue = [.totals bay.totalsNow] ∧ s.retention.held = none ∧ s.notes.outbox = [] ∧
        s.notes.issueWaiting = false ∧
        (performWrite s.retention.mem s.retention.issueCount (.totals bay.totalsNow)).isSome = true ∧
        (Write.totals bay.totalsNow).needless s.retention.mem = false) ∧
    (Write.removal 41).needless [] = true ∧ (∀ n more, [Write.totals bay.totalsNow] ≠ .removal n :: more) ∧
    (∀ (k : CompId) b, issuing.batches[k] = some b → b.state ≠ .planned ∧ b.state ≠ .waiting) ∧
    ((writing 4 none).retention.queue.length = 4 ∧ (writing 4 none).notes.outbox = [41] ∧
      (writing 4 none).retention.held = none ∧ (writing 4 (some bay.totalsNow)).retention.held = some bay.totalsNow) ∧
    (issuing.notes.issueWaiting = true ∧ issuing.restart = false ∧ issuing.notes.outbox = [] ∧
      issuing.retention.queue.length < 4) ∧ bay.notes.issueWaiting = false := by
  refine ⟨by decide +kernel, by rw [Write.needless, issuedSlot_blank]; rfl, nofun, fun k b h => ?_, by decide +kernel⟩
  have : ∀ k : CompId, issuing.batches[k] = none ∨
      issuing.batches[k] = some { running .done with saved := true } := by decide
  rcases this k with g | g <;> rw [g] at h <;> cases h
  decide

theorem witness_RetentionMemory : (∀ w ∈ [Write.totals bay.totalsNow, .note 41 [8, 0] 42, .removal 41],
      let s : State := { bay with retention := { bay.retention with queue := [w] } };
      s.retention.queue = w :: [] ∧ Memory.wf s.retention.mem = true ∧ s.retention.issueCount < 2 ^ 32) ∧
    ([8, 0] : List Byte).length ≤ 370 := by decide +kernel

/-- A memory whose slot 0, at address 382 (R195), holds note 41 ISSUED, with its check value. -/
def noteMem : List Host.Cell := [(382, 1), (386, 1), (389, 41), (392, 42), (393, 8), (763, 151), (764, 156)]

theorem witness_RetentionMemory_slots : issuedSlot [] 41 = none ∧ noteSlot [] = some 0 ∧ (issuedSlot noteMem 41).map (·.1) = some 0 := by
  refine ⟨issuedSlot_blank 41, ?_, ?_⟩ <;> decide +kernel

/-- A slot ISSUED. -/
def issued : List Byte := slotRecord ⟨1, 0, 41, 42, []⟩
/-- A memory whose first slots are ISSUED. -/
def filled : Nat → List Host.Cell
  | 0 => []
  | n + 1 => writeBytes (filled n) (slotAddr n) issued

theorem issued_length : issued.length = slotLength := by decide +kernel

theorem filled_reads (k : Nat) : Memory.wf (filled k) = true ∧
    ∀ n < k, readBytes (filled k) (slotAddr n) slotLength = issued := by
  induction k with
  | zero => exact ⟨rfl, nofun⟩
  | succ k ih =>
    refine ⟨writeBytes_wf _ _ _ ih.1, fun n hn => ?_⟩
    rcases Nat.lt_succ_iff_lt_or_eq.mp hn with h | rfl
    · rw [← ih.2 n h]
      refine readBytes_congr _ _ _ _ fun i hi hj => ?_
      rw [filled, readByte_writeBytes _ _ _ _ ih.1, issued_length, if_neg]
      unfold slotAddr slotLength at *
      omega
    · rw [filled, ← issued_length]
      exact readBytes_writeBytes _ _ _ ih.1

theorem readSlot_filled (n : Nat) (h : n < 16) : (readSlot (filled 16) n).map (·.state) = some 1 := by
  unfold readSlot
  rw [(filled_reads 16).2 n h]
  decide +kernel

theorem foldl_fixed {α β : Type} (f : α → β → α) (l : List β) (h : ∀ n ∈ l, ∀ b, f b n = b) (b : α) :
    l.foldl f b = b := by
  induction l generalizing b with
  | nil => rfl
  | cons n l ih => rw [List.foldl_cons, h n (by simp), ih fun m hm => h m (by simp [hm])]

theorem noteSlot_none (mem : List Host.Cell) (h : ∀ n < 16, (readSlot mem n).map (·.state) = some 1) :
    noteSlot mem = none := by
  have lt : ∀ n ∈ slotNumbers, n < 16 := by decide
  have f : slotNumbers.find? (slotFree mem) = none :=
    List.find?_eq_none.mpr fun n hn => by
      have := h n (lt n hn)
      revert this
      unfold slotFree
      cases readSlot mem n <;> simp +contextual
  unfold noteSlot lowestTaken
  rw [f, foldl_fixed _ slotNumbers fun n hn b => ?_]
  · rfl
  · have := h n (lt n hn)
    revert this
    cases readSlot mem n <;> simp +contextual

theorem witness_no_slot : Memory.wf (filled 16) = true ∧ noteSlot (filled 16) = none ∧
    performWrite (filled 16) 1 (.note 41 [8, 0] 42) = none := by
  have h := noteSlot_none (filled 16) fun n h => readSlot_filled n h
  exact ⟨(filled_reads 16).1, h, by unfold performWrite; rw [h]; rfl⟩

theorem witness_RestartAsserted : (∀ s ∈ [loading .full, inSession .checking, shooting (shot 3 true)],
      s.restart = false ∧ s.station ≠ .configFault) ∧
    ((loading .full).arm 1).stage.flowing = true ∧ ((shooting (shot 3 true)).injector 1).firing = true ∧
    ((shooting (shot 3 true)).injector 1).window = some ⟨1, 3, false⟩ := by decide +kernel

theorem witness_RestartReleased : (∀ s ∈ [after .restartAsserted (loading .full), after .restartAsserted issuing,
        after .restartAsserted (queued (batch .waiting))],
      s.restart = true ∧ s.station ≠ .configFault ∧ s.stage5Waits = false) ∧
    (after .restartAsserted (loading .full)).batches[(1 : CompId)] = some (running .active) ∧
    (after .restartAsserted (loading .full)).retention.queue.length < 4 ∧
    (after .restartAsserted issuing).session.state = .ending ∧
    (after .restartAsserted issuing).session.permit = some permit ∧ 1 ≤ permit.id ∧ permit.id < 2 ^ 32 ∧
    ((after .restartAsserted (loading .full)).arm 1).stage ≠ .closed ∧
    ((after .restartAsserted (loading .full)).arm 0).stage = .closed := by decide +kernel

theorem witness_RestartReleased_waits : (let s : State := { down with stage5Waits := true };
      s.restart = true ∧ s.station ≠ .configFault ∧ s.stage5Waits = true ∧ s.retention.queue.length < 3 ∧
        s.retention.held = none) ∧
    (let s : State := { faulted with restart := true };
      s.restart = true ∧ s.station = .configFault) ∧ bay.restart = false := by decide

theorem witness_ColdStart : imageFault (image 5 13 300) (parseImage (image 5 13 300)).1 = none ∧
    (image 5 13 300).length = 274 ∧ imageFault (image 10 10 300) (parseImage (image 10 10 300)).1 = some .armShares ∧
    (∃ h : HeaderId, outside 1 250 (fieldAt (image 5 13 300) (1 + 6 * h.val + 1) 1) = false) ∧
    outside 60 1800 (fieldAt (image 5 13 30) 263 2) = true ∧ (5 : Nat) ≤ 7 := by decide +kernel

/-- Slot 0 with note 41 of issue count 1, slot 1 with note 40 of issue count 2^32 - 1 (R195). -/
def wrapped : List Host.Cell := noteMem ++ [(765, 1), (766, 255), (767, 255), (768, 255), (769, 255), (772, 40), (775, 41),
  (776, 8), (1146, 147), (1147, 7)]

theorem wrapped_slots : (readSlot wrapped 0).map (fun x => (x.state, x.count, x.number, x.next)) = some (1, 1, 41, 42) ∧
    (readSlot wrapped 1).map (fun x => (x.state, x.count, x.number, x.next)) = some (1, 4294967295, 40, 41) ∧
    ∀ n, 2 ≤ n → readSlot wrapped n = none := by
  refine ⟨by decide +kernel, by decide +kernel, fun n h => ?_⟩
  have e : readBytes wrapped (slotAddr n) slotLength = readBytes [] (slotAddr n) slotLength :=
    readBytes_congr _ _ _ _ fun i hi hj => by
      unfold slotAddr slotLength at *
      simp only [wrapped, noteMem, readByte, List.cons_append, List.nil_append]
      repeat rw [if_neg (by omega)]
  have b := readSlot_blank n
  unfold readSlot at *
  rw [e]
  exact b

theorem witness_ColdStart_order : let order := [1, 0];
    order.Nodup ∧ (∀ n, n ∈ order ↔ n < 16 ∧ (readSlot wrapped n).isSome = true) ∧
      order.Pairwise (fun m n => ∀ x y, readSlot wrapped m = some x → readSlot wrapped n = some y →
        higherCount y.count x.count = true) := by
  obtain ⟨h0, h1, hn⟩ := wrapped_slots
  obtain ⟨x, e0, g0⟩ := Option.map_eq_some_iff.1 h0
  obtain ⟨y, e1, g1⟩ := Option.map_eq_some_iff.1 h1
  injection g0 with _ g0
  injection g0 with g0 _
  injection g1 with _ g1
  injection g1 with g1 _
  refine ⟨by decide, fun n => ?_, ?_⟩
  · match n with
    | 0 => simp [e0]
    | 1 => simp [e1]
    | n + 2 => simp [hn (n + 2) (by omega)]
  · simp only [List.pairwise_cons, List.mem_singleton, forall_eq, List.not_mem_nil, false_imp_iff, implies_true,
      List.Pairwise.nil, and_true]
    intro a b ha hb
    rw [e1] at ha
    rw [e0] at hb
    cases ha
    cases hb
    rw [g0, g1]
    decide

/-- Two ISSUED slots, 0 and 1, the count of the first higher modulo 2^32. -/
theorem readNotes_two (mem : List Host.Cell) (x y : Slot) (h0 : readSlot mem 0 = some x) (h1 : readSlot mem 1 = some y)
    (hn : ∀ n, 2 ≤ n → readSlot mem n = none) (hx : x.state = 1) (hy : y.state = 1)
    (h : higherCount x.count y.count = true) :
    (readNotes mem).1.map (·.number) = [y.number, x.number] ∧ (readNotes mem).2.2 = (x.count + 1) % 4294967296 ∧
      (x.next ≠ x.number → x.next ≠ y.number → (readNotes mem).2.1 = x.next) := by
  simp only [readNotes, validSlots, slotNumbers, List.filterMap_cons, h0, h1, hn _ (by decide : 2 ≤ 2),
    hn _ (by decide : 2 ≤ 3), hn _ (by decide : 2 ≤ 4), hn _ (by decide : 2 ≤ 5), hn _ (by decide : 2 ≤ 6),
    hn _ (by decide : 2 ≤ 7), hn _ (by decide : 2 ≤ 8), hn _ (by decide : 2 ≤ 9), hn _ (by decide : 2 ≤ 10),
    hn _ (by decide : 2 ≤ 11), hn _ (by decide : 2 ≤ 12), hn _ (by decide : 2 ≤ 13), hn _ (by decide : 2 ≤ 14),
    hn _ (by decide : 2 ≤ 15), List.filterMap_nil, sortSlots, insertSlot, List.foldr, h, if_true]
  refine ⟨by simp [hx, hy], rfl, fun h2 h3 => ?_⟩
  simp [hx, hy, skipHeld, Ne.symm h2, Ne.symm h3]

-- R178 stage 3, R195: the note issued before the wrap of the count is the older, and the newer gives the next number.
theorem test_read_notes_wrap : (readNotes wrapped).1.map (·.number) = [40, 41] ∧ (readNotes wrapped).2.2 = 2 ∧
    (readNotes wrapped).2.1 = 42 := by
  obtain ⟨h0, h1, hn⟩ := wrapped_slots
  obtain ⟨x, e0, g0⟩ := Option.map_eq_some_iff.1 h0
  obtain ⟨y, e1, g1⟩ := Option.map_eq_some_iff.1 h1
  simp only [Prod.mk.injEq] at g0 g1
  obtain ⟨hx, cx, nx, fx⟩ := g0
  obtain ⟨hy, cy, ny, -⟩ := g1
  obtain ⟨p, q, r⟩ := readNotes_two wrapped x y e0 e1 hn hx hy (by rw [cx, cy]; decide)
  exact ⟨by rw [p, nx, ny], by rw [q, cx], by rw [r (by rw [fx, nx]; decide) (by rw [fx, ny]; decide), fx]⟩

theorem witness_ColdStart_slots : (∀ n < 16, readSlot [] n = none) ∧ (readSlot noteMem 0).map (·.state) = some 1 ∧
    (∀ n < 16, n ≠ 0 → readSlot noteMem n = none) := by
  refine ⟨fun n _ => readSlot_blank n, by decide +kernel, fun n _ h => ?_⟩
  have e : readBytes noteMem (slotAddr n) slotLength = readBytes [] (slotAddr n) slotLength :=
    readBytes_congr _ _ _ _ fun i hi hj => by
      unfold slotAddr slotLength at *
      simp only [noteMem, readByte]
      repeat rw [if_neg (by omega)]
  have b := readSlot_blank n
  unfold readSlot at *
  rw [e]
  exact b

theorem witness_FramesRoundTrip : (10 : Nat) < 16 ∧ (∀ n ∈ [0, 15, 16, 511], n ≤ 511) ∧
    parseFrame (lineImage 31 7 []).tail = some (31, .stop) ∧ card.length = 12 ∧ (1 : Byte) ≠ 0 ∧
    2 < (3 : Byte).toNat ∧ 11 < (12 : Byte).toNat ∧ ((8 : Byte), 1) ∉ [((8 : Byte), 0)] ∧ 3 < (4 : Byte).toNat ∧
    (body 1 0).length = 9 ∧ ((body 1 0).take 8).length ≠ 11 := by decide

theorem witness_OwnPayloads : (∀ h, (admitted.header h).ownShare ≤ 250) ∧ admitted.session.permit = some permit ∧
    1 ≤ permit.id ∧ permit.id < 2 ^ 32 ∧ admitted.sessionOpen = true ∧ (1 : Nat) ≤ 250 ∧ (250 : Nat) ≤ 250 ∧
    (65535 < 2 ^ 16 ∧ 86399 ≤ 86399) ∧ (1 : Nat) ≤ 999999 := by decide

/-- A state in which every law holds and from which a step goes on: arm 1 FULL, a STOP to be received. -/
def busy : State := { loading .full with pending := [.stopReceived (hear 7 [])] }

theorem witness_laws : ShareLaw busy ∧ FlowLaw busy ∧ AdmissionLaw busy ∧ StopLaw busy ∧ busy.link.Sound ∧
    busy.link.Numbered ∧ busy.link.Orderly ∧ busy.retention.Sound ∧ MemoryLaw busy ∧ (match step busy with | .next _ => True | _ => False) := by
  refine ⟨?_, ⟨?_, ?_, ?_⟩, ?_, ⟨?_, ?_⟩, ⟨?_, ?_, ?_, ?_⟩, by unfold Link.Numbered; decide, ⟨?_, ?_⟩, ⟨?_, ?_⟩, ?_, trivial⟩
  · unfold ShareLaw
    decide +kernel
  · exact fun h => absurd h (by decide)
  · exact fun h => absurd h (by unfold State.down; decide)
  · exact fun h => absurd h (by decide)
  · exact fun _ => ⟨rfl, permit, rfl, by decide, nofun⟩
  · decide
  · exact fun h => absurd h (by decide)
  case refine_16 => exact rfl
  all_goals decide

theorem witness_OnlyTheseChange : (match exec .clockSecond bay with | .next _ => True | _ => False) := trivial

end Sys2Proof.Tests
end

section
/-! The correction factor (R1, R115, R116): rounding to the nearest whole number, and the clamp. -/

namespace Sys2Proof.Machine

/-! ## Rounding (R1) -/

/-- Rounding is odd: a negative quotient is rounded as its opposite. -/
theorem roundDiv_neg {x : Int} (d : Nat) (hx : x < 0) : roundDiv x d = -roundDiv (-x) d := by
  rw [roundDiv, roundDiv, if_neg (by omega), if_pos (by omega)]

/-- Of a quotient not negative, the remainder is at least minus half the divisor and below half of it, so that a half is
rounded up. -/
theorem roundDiv_remainder {x : Int} {d : Nat} (hd : 0 < d) (hx : 0 ≤ x) :
    -(d : Int) ≤ 2 * (x - d * roundDiv x d) ∧ 2 * (x - d * roundDiv x d) < d := by
  have split := Int.mul_ediv_add_emod (2 * x + d) (2 * d)
  have low := Int.emod_nonneg (2 * x + d) (b := 2 * d) (by omega)
  have high := Int.emod_lt_of_pos (2 * x + d) (b := 2 * d) (by omega)
  rw [roundDiv, if_pos hx]
  rw [mul_assoc] at split
  omega

/-- The rounding of x / d is the whole number nearest to it, a half going away from zero. -/
theorem roundDiv_nearest (x : Int) (d : Nat) (hd : 0 < d) :
    2 * (x - d * roundDiv x d) ≤ d ∧ -(d : Int) ≤ 2 * (x - d * roundDiv x d) ∧
      (2 * (x - d * roundDiv x d) = d → x < 0) ∧ (2 * (x - d * roundDiv x d) = -(d : Int) → 0 < x) := by
  by_cases hx : 0 ≤ x
  · obtain ⟨low, high⟩ := roundDiv_remainder hd hx
    refine ⟨high.le, low, fun e => absurd e high.ne, fun e => hx.lt_of_ne ?_⟩
    rintro rfl
    rw [zero_sub, mul_neg, neg_inj, mul_left_comm] at e
    have : (2 : Int) ∣ 1 := ⟨roundDiv 0 d, mul_left_cancel₀ (by omega : (d : Int) ≠ 0) (by rw [e, mul_one])⟩
    omega
  · obtain ⟨low, high⟩ := roundDiv_remainder (x := -x) hd (by omega)
    rw [roundDiv_neg d (by omega), mul_neg]
    omega

/-! ## The clamp (R116) -/

theorem ctlFormed_eq (alpha gamma : Nat) (t : Int) : ctlFormed alpha gamma t =
    1000000 - roundDiv (alpha * (t - 1500)) 1000 - roundDiv (gamma * (t - 1500) ^ 2) 10000000 := by
  rw [ctlFormed, sq]

theorem ctlUsed_range (alpha gamma : Nat) (t : Int) : 900000 ≤ ctlUsed alpha gamma t ∧ ctlUsed alpha gamma t ≤ 1100000 := by
  rw [ctlUsed]
  omega

theorem ctlUsed_within {alpha gamma : Nat} {t : Int} (low : 900000 ≤ ctlFormed alpha gamma t)
    (high : ctlFormed alpha gamma t ≤ 1100000) :
    (ctlUsed alpha gamma t : Int) = ctlFormed alpha gamma t ∧ ctlClamps alpha gamma t = false := by
  rw [ctlUsed, ctlClamps, decide_eq_false_iff_not]
  omega

theorem ctlUsed_below {alpha gamma : Nat} {t : Int} (h : ctlFormed alpha gamma t < 900000) :
    ctlUsed alpha gamma t = 900000 ∧ ctlClamps alpha gamma t = true := by
  rw [ctlUsed, ctlClamps, decide_eq_true_eq]
  omega

theorem ctlUsed_above {alpha gamma : Nat} {t : Int} (h : 1100000 < ctlFormed alpha gamma t) :
    ctlUsed alpha gamma t = 1100000 ∧ ctlClamps alpha gamma t = true := by
  rw [ctlUsed, ctlClamps, decide_eq_true_eq]
  omega

/-- Settles O36: the rounding by the remainder of its floor division, the factor by its place against the two ends. -/
theorem correctionFactor : Obligations.CorrectionFactor := by
  refine ⟨roundDiv_nearest, fun alpha gamma t => ?_⟩
  rw [← ctlFormed_eq]
  obtain ⟨low, high⟩ := ctlUsed_range alpha gamma t
  exact ⟨low, high, ctlUsed_within, ctlUsed_below, ctlUsed_above⟩

end Sys2Proof.Machine
end

section
/-! The configuration image as a cold start takes it (R179, R191): every field at its place and clamped to its range, and
the flag of a replacement. -/

namespace Sys2Proof.Machine

/-! ## Clamping (R1) -/

theorem clampTo_within {lo hi n : Nat} (low : lo ≤ n) (high : n ≤ hi) : clampTo lo hi n = n := by
  rw [clampTo]; omega

theorem clampTo_below {lo hi n : Nat} (h : n < lo) : clampTo lo hi n = lo := by
  rw [clampTo]; omega

theorem clampTo_above {lo hi n : Nat} (ends : lo ≤ hi) (h : hi < n) : clampTo lo hi n = hi := by
  rw [clampTo]; omega

theorem clampTo_lt {lo hi top : Nat} (hl : lo < top) (hh : hi < top) (n : Nat) : clampTo lo hi n < top := by
  rw [clampTo]; omega

@[simp] theorem clampField_fst (lo hi n : Nat) : (clampField lo hi n).1 = clampTo lo hi n := rfl

@[simp] theorem clampField_snd (lo hi n : Nat) : (clampField lo hi n).2 = outside lo hi n := rfl

/-! ## Fields of an entry -/

/-- Bytes carry a number below 256 to the power of their count. -/
theorem beValue_lt (bs : List Byte) : beValue bs < 256 ^ bs.length := by
  induction bs with
  | nil => simp [beValue]
  | cons b bs ih =>
    rw [beValue_cons, List.length_cons, pow_succ]
    have hb : b.toNat ≤ 255 := by have := b.isLt; omega
    have := Nat.mul_le_mul_right (256 ^ bs.length) hb
    omega

/-- A field of `w` bytes carries a number of `w` bytes. -/
theorem fieldAt_lt (bs : List Byte) (off w : Nat) : fieldAt bs off w < 256 ^ w := by
  refine (beValue_lt _).trans_le (Nat.pow_le_pow_right (by decide) ?_)
  exact List.length_take_le _ _

/-- A field of a table entry is the image's field at the entry's place. -/
theorem fieldAt_entry (bs : List Byte) (off size n o w : Nat) (h : o + w ≤ size) :
    fieldAt (entry bs off size n) o w = fieldAt bs (off + size * n + o) w := by
  rw [fieldAt, fieldAt, entry, List.drop_take, List.take_take, List.drop_drop, min_eq_left (by omega)]

@[simp] theorem enabledBit_fieldAt (bs : List Byte) (off : Nat) :
    enabledBit (fieldAt bs off 1) = decide (128 ≤ fieldAt bs off 1) := by
  rw [enabledBit, Nat.mod_eq_of_lt (show fieldAt bs off 1 < 256 from fieldAt_lt bs off 1)]

@[simp] theorem lowThree_val (n : Nat) : (lowThree n).val = n % 8 := rfl

@[simp] theorem lowTwo_val (n : Nat) : (lowTwo n).val = n % 4 := rfl

/-- A code in its range is kept, and a value that is none is replaced (R179). -/
theorem gradeCodeOf_fst (n : Nat) : (gradeCodeOf n).1.map Fin.val = if n < 4 then some n else none := by
  unfold gradeCodeOf asFin; split <;> rfl

@[simp] theorem gradeCodeOf_snd (n : Nat) : (gradeCodeOf n).2 = decide (4 ≤ n ∧ n ≤ 254) := rfl

/-! ## The image's tables -/

@[simp] theorem vec16_get {α : Type} (f : Fin 16 → α) (g : Fin 16) : (vec16 f)[g] = f g := by
  fin_cases g <;> rfl

/-- A test that holds of some place of a vector. -/
theorem vector_any_iff {α : Type} {n : Nat} (v : Vector α n) (p : α → Bool) :
    v.toList.any p = true ↔ ∃ i : Fin n, p v[i] = true := by
  rw [Vector.any_toList, Vector.any_eq_true, Fin.exists_iff]
  rfl

section
variable (bs : List Byte)

theorem parseImage_headers (h : HeaderId) :
    (parseImage bs).1.headers[h] = (parseHeaderCfg (entry bs 1 6 h.val)).1 := by
  simp only [parseImage, vec8_get]

theorem parseImage_grades (g : GradeId) :
    (parseImage bs).1.grades[g] = (parseGradeCfg (entry bs 49 4 g.val)).1 := by
  simp only [parseImage, vec16_get]

theorem parseImage_arms (a : ArmId) : (parseImage bs).1.arms[a] = (parseArmCfg (entry bs 113 25 a.val)).1 := by
  simp only [parseImage, vec4_get]

theorem parseImage_injectors (i : InjectorId) :
    (parseImage bs).1.injectors[i] = (parseInjectorCfg (entry bs 213 12 i.val)).1 := by
  simp only [parseImage, vec4_get]

theorem deadmanField_fst (n : Nat) : (deadmanField n).1 = if n = 0 then 120 else clampTo 30 300 n := by
  unfold deadmanField; split <;> rfl

/-- A stored deadman interval of 0 counts as no replacement (log 18). -/
theorem deadmanField_snd (n : Nat) : (deadmanField n).2 = true ↔ n ≠ 0 ∧ outside 30 300 n = true := by
  unfold deadmanField; split <;> simp_all

/-- Every figure of the image is taken at its place and clamped to its range. -/
theorem parseImage_clamped : ClampedImage bs (parseImage bs).1 where
  station := Nat.mod_eq_of_lt (clampTo_lt (by decide) (by decide) _)
  headers h := by
    rw [parseImage_headers]
    simp [parseHeaderCfg, fieldAt_entry]
  grades g := by
    rw [parseImage_grades]
    simp [parseGradeCfg, fieldAt_entry, gradeCodeOf_fst]
  arms a := by
    rw [parseImage_arms]
    simp [parseArmCfg, fieldAt_entry]
  injectors i := by
    rw [parseImage_injectors]
    have code := clampTo_lt (lo := 0) (hi := 3) (top := 4) (by decide) (by decide)
    simp [parseInjectorCfg, fieldAt_entry, Nat.mod_eq_of_lt (code _)]
  timers := ⟨deadmanField_fst _, rfl, rfl, rfl⟩

/-- The flag is set exactly when some stored value lies outside its range. -/
theorem parseImage_flag : (parseImage bs).2 = true ↔ ImageOutside bs := by
  simp only [parseImage, ImageOutside, Bool.or_eq_true, vector_any_iff, vec8_get, vec16_get, vec4_get, clampField_snd,
    parseHeaderCfg, parseGradeCfg, parseArmCfg, parseInjectorCfg, gradeCodeOf_snd, deadmanField_snd, decide_eq_true_eq,
    or_assoc]
  simp [fieldAt_entry]

end

/-! ## The structural faults in their order (R179) -/

/-- The tests of stage 1 in R179's order, the check value's with a failed read of the image counted as its failure. -/
def startFaults (config : Bool) (bs : List Byte) (c : ConfigImage) : List (Bool × FaultKind) :=
  [(decide (config = false ∨ checkAgrees bs = false), .badCheck),
    (decide (∃ a : ArmId, c.arms[a].enabled = true ∧ c.headers[c.arms[a].header].enabled = false), .armHeader),
    (decide (∃ a : ArmId, c.arms[a].enabled = true ∧ c.arms[a].fullShare ≤ c.arms[a].lowShare), .armShares),
    (decide (∃ a : ArmId, c.arms[a].enabled = true ∧ c.arms[a].slice = 0), .armSlice),
    (decide (∃ g : GradeId, c.grades[g].enabled = true ∧ c.headers[c.grades[g].header].enabled = false), .gradeHeader),
    (decide (∃ i : InjectorId, c.injectors[i].enabled = true ∧ c.arms[c.injectors[i].arm].enabled = false),
      .injectorArm)]

/-- A test that holds of some enabled entry of a table. -/
theorem enabled_any_iff {α : Type} {n : Nat} (v : Vector α n) (enabled p : α → Bool) :
    (v.toList.filter enabled).any p = true ↔ ∃ i : Fin n, enabled v[i] = true ∧ p v[i] = true := by
  simp only [List.any_filter, vector_any_iff, Bool.and_eq_true]

/-- The first of a list of tests that holds is the head's or, where the head fails, the rest's. -/
theorem firstTest_cons {κ : Type} (b : Bool) (k : κ) (rest : List (Bool × κ)) :
    (((b, k) :: rest).find? (·.1)).map (·.2) = if b = true then some k else (rest.find? (·.1)).map (·.2) := by
  cases b <;> rfl

/-- Stage 1 refuses an image with the first of the faults that holds. -/
theorem startFaults_first (config : Bool) (bs : List Byte) (c : ConfigImage) :
    ((startFaults config bs c).find? (·.1)).map (·.2) = if config then imageFault bs c else some .badCheck := by
  cases config with
  | false => rfl
  | true =>
    simp only [startFaults, firstTest_cons, imageFault, enabled_any_iff, decide_eq_true_eq, Bool.true_eq_false, false_or,
      Bool.not_eq_true', beq_iff_eq, if_true]
    rfl

end Sys2Proof.Machine
end

section
/-! What the note region gives at a cold start (R170, R178 stage 3, R195): the order of the issue counts, the store, the next
number and the next count. -/

namespace Sys2Proof.Machine

/-! ## Issue counts (R195) -/

/-- One count is higher than another when it is 1 to 2^31 - 1 above it, modulo 2^32. -/
theorem higherCount_iff {x y : Nat} (hx : x < 2 ^ 32) : higherCount x y = true ↔
    ∃ d, 1 ≤ d ∧ d ≤ 2147483647 ∧ (y + d) % 2 ^ 32 = x := by
  simp only [higherCount, decide_eq_true_eq]
  constructor
  · exact fun h => ⟨(x + 4294967296 - y % 4294967296) % 4294967296, h.1, h.2, by omega⟩
  · rintro ⟨d, low, high, e⟩
    omega

/-- Of two counts at most one is the higher. -/
theorem higherCount_asymm {x y : Nat} (h : higherCount x y = true) : higherCount y x = false := by
  simp only [higherCount, decide_eq_true_eq, decide_eq_false_iff_not] at h ⊢
  omega

/-! ## Slots in the order of their counts -/

/-- Slot `x` was issued before slot `y`. -/
def Slot.Before (x y : Slot) : Prop := higherCount y.count x.count = true

/-- A slot goes behind the slots issued before it and in front of those issued after it. -/
theorem insertSlot_between (x : Slot) (before after : List Slot) (hb : ∀ y ∈ before, y.Before x)
    (ha : ∀ y ∈ after, x.Before y) : insertSlot x (before ++ after) = before ++ x :: after := by
  induction before with
  | nil =>
    cases after with
    | nil => rfl
    | cons y rest => rw [List.nil_append, insertSlot, if_neg (by simp [higherCount_asymm (ha y (.head _))]), List.nil_append]
  | cons y rest ih =>
    rw [List.cons_append, insertSlot, if_pos (show higherCount x.count y.count = true from hb y (.head _)),
      ih fun z hz => hb z (.tail _ hz), List.cons_append]

/-- Sorting finds the order of the counts, if there is one. -/
theorem sortSlots_eq {l ordered : List Slot} (hp : l.Perm ordered) (ho : ordered.Pairwise Slot.Before) :
    sortSlots l = ordered := by
  induction l generalizing ordered with
  | nil => exact hp.nil_eq
  | cons x l ih =>
    obtain ⟨before, after, rfl⟩ := List.append_of_mem (hp.mem_iff.mp (.head _))
    obtain ⟨_, hxa, hbx⟩ := List.pairwise_append.mp ho
    have rest : sortSlots l = before ++ after := ih (hp.trans List.perm_middle).cons_inv
      (ho.sublist ((List.Sublist.refl before).append (List.sublist_cons_self x after)))
    calc sortSlots (x :: l) = insertSlot x (sortSlots l) := rfl
      _ = insertSlot x (before ++ after) := by rw [rest]
      _ = before ++ x :: after := insertSlot_between x before after (fun y hy => hbx y hy x (.head _))
          (List.pairwise_cons.mp hxa).1

theorem mem_slotNumbers (n : Nat) : n ∈ slotNumbers ↔ n < 16 := by
  rw [show slotNumbers = List.range 16 from rfl, List.mem_range]

section
variable {mem : List Host.Cell} {order : List Nat}

/-- A list of the valid slots' numbers gives the valid slots. -/
theorem validSlots_perm (hn : order.Nodup) (hv : ∀ n, n ∈ order ↔ n < 16 ∧ (readSlot mem n).isSome = true) :
    (validSlots mem).Perm (order.filterMap (readSlot mem)) := by
  have key : (slotNumbers.filter fun n => (readSlot mem n).isSome).Perm order :=
    (List.perm_ext_iff_of_nodup ((by decide : slotNumbers.Nodup).filter _) hn).2 fun n => by
      rw [List.mem_filter, mem_slotNumbers, hv]
  have := key.filterMap (readSlot mem)
  rwa [List.filterMap_filter, show (fun n => if (readSlot mem n).isSome = true then readSlot mem n else none) = readSlot mem
    from funext fun n => by cases readSlot mem n <;> rfl] at this

/-- The slots as a cold start takes them, in any list of them by their counts. -/
theorem sortSlots_validSlots (hn : order.Nodup) (hv : ∀ n, n ∈ order ↔ n < 16 ∧ (readSlot mem n).isSome = true)
    (ho : order.Pairwise fun m n => ∀ x y, readSlot mem m = some x → readSlot mem n = some y →
      higherCount y.count x.count = true) :
    sortSlots (validSlots mem) = order.filterMap (readSlot mem) :=
  sortSlots_eq (validSlots_perm hn hv) (List.pairwise_filterMap.mpr (ho.imp fun h x hx y hy => h x y hx hy))

end

/-! ## The next note number (R170) -/

/-- The `i`-th number from `first` on, from 999,999 to 1. -/
def numberFrom (first i : Nat) : Nat := (first - 1 + i) % 999999 + 1

theorem followingNumber_numberFrom (first i : Nat) : followingNumber (numberFrom first i) = numberFrom first (i + 1) := by
  unfold followingNumber numberFrom
  split <;> omega

theorem skipHeld_free {store : List StoredNote} {n : Nat} (fuel : Nat) (h : ∀ y ∈ store, y.number ≠ n) :
    skipHeld store fuel n = n := by
  cases fuel with
  | zero => rfl
  | succ fuel => rw [skipHeld, if_neg (by simpa using h)]

/-- Advancing passes over held numbers only, and stops at a free one before its limit. -/
theorem skipHeld_numberFrom (store : List StoredNote) (first fuel i : Nat) :
    ∃ j ≤ fuel, skipHeld store fuel (numberFrom first i) = numberFrom first (i + j) ∧
      (∀ k < j, ∃ x ∈ store, x.number = numberFrom first (i + k)) ∧
      (j < fuel → ∀ x ∈ store, x.number ≠ numberFrom first (i + j)) := by
  induction fuel generalizing i with
  | zero => exact ⟨0, le_rfl, rfl, by simp, by simp⟩
  | succ fuel ih =>
    by_cases held : ∃ x ∈ store, x.number = numberFrom first i
    · obtain ⟨j, hj, e, passed, free⟩ := ih (i + 1)
      have shift (k : Nat) : i + 1 + k = i + (k + 1) := by omega
      simp only [shift] at e passed free
      refine ⟨j + 1, by omega, ?_, ?_, fun h => free (by omega)⟩
      · rw [skipHeld, if_pos (by simpa using held), followingNumber_numberFrom, e]
      · intro k hk
        cases k with
        | zero => exact held
        | succ k => exact passed k (by omega)
    · have free : ∀ x ∈ store, x.number ≠ numberFrom first i := fun x hx e => held ⟨x, hx, e⟩
      exact ⟨0, by omega, skipHeld_free _ free, by simp, fun _ => free⟩

/-- A store cannot hold more numbers in a row than it has notes. -/
theorem held_run_le {store : List StoredNote} {first j : Nat} (hj : j ≤ 999999)
    (held : ∀ k < j, ∃ x ∈ store, x.number = numberFrom first k) : j ≤ store.length := by
  have distinct : ((List.range j).map (numberFrom first)).Nodup := by
    refine List.Nodup.map_on (fun a ha b hb e => ?_) List.nodup_range
    rw [List.mem_range] at ha hb
    unfold numberFrom at e
    omega
  have sub : (List.range j).map (numberFrom first) ⊆ store.map (·.number) := by
    intro n hn
    obtain ⟨k, hk, rfl⟩ := List.mem_map.mp hn
    obtain ⟨x, hx, e⟩ := held k (List.mem_range.mp hk)
    exact List.mem_map.mpr ⟨x, hx, e⟩
  simpa using (List.subperm_of_subset distinct sub).length_le

/-- Advancing a number in its range from `first` on gives the first free one. -/
theorem skipHeld_firstFree {store : List StoredNote} {first : Nat} (hs : store.length < 999999) (low : 1 ≤ first)
    (high : first ≤ 999999) : FirstFree store first (skipHeld store (store.length + 1) first) := by
  have start : numberFrom first 0 = first := by unfold numberFrom; omega
  obtain ⟨j, hj, e, passed, free⟩ := skipHeld_numberFrom store first (store.length + 1) 0
  simp only [Nat.zero_add, start] at e passed free
  have := held_run_le (by omega) passed
  exact ⟨j, e, e ▸ free (by omega), passed⟩

/-! ## The note region -/

section
variable {mem : List Host.Cell}

theorem trimRecord_initial (record : List Byte) : trimRecord record <+: record := by
  unfold trimRecord; split
  · exact ⟨_, List.take_append_drop _ record⟩
  · exact ⟨[], List.append_nil record⟩

/-- A region without a valid slot gives an empty store and the first numbers. -/
theorem readNotes_none (h : ∀ j < 16, readSlot mem j = none) : readNotes mem = ([], 1, 1) := by
  have : validSlots mem = [] := List.filterMap_eq_nil_iff.mpr fun n hn => h n ((mem_slotNumbers n).mp hn)
  simp [readNotes, this, sortSlots]

theorem readNotes_store (mem : List Host.Cell) : (readNotes mem).1 =
    ((sortSlots (validSlots mem)).filter (·.state == 1)).map fun x => ⟨x.number, trimRecord x.record, none⟩ := by
  unfold readNotes; dsimp only; split <;> rfl

theorem readNotes_last {x : Slot} (h : (sortSlots (validSlots mem)).getLast? = some x) : (readNotes mem).2 =
    (skipHeld (readNotes mem).1 ((readNotes mem).1.length + 1) x.next, (x.count + 1) % 2 ^ 32) := by
  unfold readNotes; simp only [h]; rfl

theorem insertSlot_length (x : Slot) (l : List Slot) : (insertSlot x l).length = l.length + 1 := by
  induction l with
  | nil => rfl
  | cons y rest ih => rw [insertSlot]; split <;> simp [ih]

theorem sortSlots_length (l : List Slot) : (sortSlots l).length = l.length := by
  induction l with
  | nil => rfl
  | cons x l ih => rw [List.length_cons, ← ih]; exact insertSlot_length x _

theorem readNotes_store_length (mem : List Host.Cell) : (readNotes mem).1.length ≤ 16 := by
  rw [readNotes_store, List.length_map]
  refine (List.length_filter_le _ _).trans ?_
  rw [sortSlots_length]
  exact List.length_filterMap_le _ _

/-- A stored note is an ISSUED slot's, with its number and a part of its record from the beginning. -/
theorem readNotes_issued {order : List Nat} (he : sortSlots (validSlots mem) = order.filterMap (readSlot mem)) :
    ∀ y ∈ (readNotes mem).1, ∃ n ∈ order, ∃ x, readSlot mem n = some x ∧ x.state = 1 ∧ y.number = x.number ∧
      y.record <+: x.record := by
  intro y hy
  rw [readNotes_store, he] at hy
  obtain ⟨x, hx, rfl⟩ := List.mem_map.mp hy
  obtain ⟨hx, issued⟩ := List.mem_filter.mp hx
  obtain ⟨n, hn, hs⟩ := List.mem_filterMap.mp hx
  exact ⟨n, hn, x, hs, by simpa using issued, rfl, trimRecord_initial _⟩

/-- The store lists the ISSUED slots' numbers in the order of the counts, none of them marked as sent. -/
theorem readNotes_numbers {order : List Nat} (he : sortSlots (validSlots mem) = order.filterMap (readSlot mem)) :
    (readNotes mem).1.map (fun n => (n.number, n.marker)) = order.filterMap fun n => (readSlot mem n).bind fun x =>
      if x.state = 1 then some (x.number, none) else none := by
  rw [readNotes_store, he, List.map_map, ← List.filterMap_eq_map, List.filterMap_filter, List.filterMap_filterMap]
  simp [Function.comp_def]

/-- The highest count's slot gives the next count, and its recorded number, past the held ones, the next number. -/
theorem readNotes_next {order : List Nat} (he : sortSlots (validSlots mem) = order.filterMap (readSlot mem)) {n : Nat}
    {x : Slot} (hl : order.getLast? = some n) (hx : readSlot mem n = some x) :
    (readNotes mem).2.2 = (x.count + 1) % 2 ^ 32 ∧
      ((∀ y ∈ (readNotes mem).1, y.number ≠ x.next) → (readNotes mem).2.1 = x.next) ∧
      (1 ≤ x.next → x.next ≤ 999999 → FirstFree (readNotes mem).1 x.next (readNotes mem).2.1) := by
  have last : (sortSlots (validSlots mem)).getLast? = some x := by
    obtain ⟨init, rfl⟩ := List.getLast?_eq_some_iff.mp hl
    simp [he, hx]
  rw [readNotes_last last]
  have := readNotes_store_length mem
  exact ⟨rfl, skipHeld_free _, skipHeld_firstFree (by omega)⟩

end

end Sys2Proof.Machine
end

section
/-! The cold start's stages (R178): what stage 5 adds to the stages before it, what every cold start leaves, and what a refused
and an accepted image leave. -/

namespace Sys2Proof.Machine

/-! ## Stage 5 -/

/-- The held totalizer block is the first write of an empty queue (R183). -/
theorem State.offerHeld_first (s : State) (hq : s.retention.queue = []) : s.offerHeld =
    { s with retention := { s.retention with
        queue := s.retention.held.toList.map .totals
        held := none
        writeTimer := if s.retention.held.isSome then some (s.now + 100) else s.retention.writeTimer } } := by
  unfold State.offerHeld
  cases hh : s.retention.held with
  | none =>
    have same : s.retention = { s.retention with queue := [], held := none } := by rw [← hq, ← hh]
    exact congrArg (fun r => { s with retention := r }) same
  | some block =>
    simp [Retention.hasRoom, hq, Config.writeCapacity, State.queueWrite, Write.needless, State.modRetention, State.after,
      Config.writeMs]

/-- The listen period of a cold link controller begins with its STATE as the one frame, waiting for the line (R4, R28). -/
theorem State.beginListen_first (s : State) (hl : s.link = Link.cold) (hr : s.restart = false) : s.beginListen =
    { s with
      station := .starting
      listenTimer := some (s.now + 3000)
      periodTimer := some (s.now + 1000)
      link := { Link.cold with
        tx := .ready
        queue := [⟨0, .state, lineImage s.cfg.station 1 ({ s with station := .starting } : State).statePayload⟩]
        lastStateStop := s.ownStop
        nextId := 1 } } := by
  have opened : ({ s with station := .starting, listenTimer := s.after Config.listenMs } : State).linkOpen = true := by
    simp [State.linkOpen, hr]
  unfold State.beginListen State.composeState
  rw [opened]
  simp only [hl]
  rfl

/-- The part as stage 5 has it before its hand-overs: the inputs sampled (R26, R156), a socket request sent, the clock
started. -/
def State.sampled (u : State) : State :=
  { u with
    restart := false
    stage5Waits := false
    ownStop := u.monitor.stopInput
    socketRequests := u.socketRequests + 1
    clock := { u.clock with origin := u.now }
    monitor := { u.monitor with stopLatch := u.monitor.stopInput, terminal := u.monitor.stopInput } }

theorem State.stage5_eq (u : State) : u.stage5 = u.sampled.offerHeld.beginListen := rfl

/-- Nothing but the inputs sampled, the STATE and its timers, the write queue and the clock's origin has changed since
stages 1 to 4. -/
structure State.SameStart (u t : State) : Prop where
  rest : t = { u with
    stage5Waits := t.stage5Waits, ownStop := t.ownStop, socketRequests := t.socketRequests, clock := t.clock,
    monitor := t.monitor, listenTimer := t.listenTimer, periodTimer := t.periodTimer, link := t.link,
    retention := t.retention }
  clock : t.clock = { u.clock with origin := t.clock.origin }
  monitor : t.monitor = { u.monitor with stopLatch := t.monitor.stopLatch, terminal := t.monitor.terminal }
  line : t.link.lineIdle = u.link.lineIdle ∧ t.link.rx = u.link.rx
  retention : t.retention =
    { u.retention with queue := t.retention.queue, held := t.retention.held, writeTimer := t.retention.writeTimer }

theorem State.SameStart.refl (u : State) : u.SameStart u := ⟨rfl, rfl, rfl, ⟨rfl, rfl⟩, rfl⟩

section
variable {u : State} (hl : u.link = Link.cold) (hq : u.retention.queue = [])
include hl hq

/-- The whole of stage 5 after stages 1 to 4. -/
theorem State.stage5_first : ∃ l r, u.stage5 = { u.sampled with
      station := .starting, listenTimer := some (u.now + 3000), periodTimer := some (u.now + 1000), link := l
      retention := r } ∧
    (l.lineIdle = false ∧ l.rx = .skip ∧
      l.queue = [⟨0, .state, lineImage u.cfg.station 1 u.stage5.statePayload⟩]) ∧
    r = { u.retention with queue := u.retention.held.toList.map .totals, held := none, writeTimer := r.writeTimer } := by
  have offers := State.offerHeld_first u.sampled hq
  have listens := State.beginListen_first u.sampled.offerHeld (by rw [offers]; exact hl) (by rw [offers]; rfl)
  rw [State.stage5_eq, listens, offers]
  exact ⟨_, _, rfl, ⟨rfl, rfl, rfl⟩, rfl⟩

theorem State.stage5_sameStart (hs : u.station = .starting) (hr : u.restart = false) : u.SameStart u.stage5 := by
  obtain ⟨l, r, e, ⟨idle, rx, -⟩, hret⟩ := State.stage5_first hl hq
  rw [e]
  refine ⟨?_, rfl, rfl, ?_, ?_⟩
  · simp only [State.sampled, hs, hr]
  · exact ⟨by rw [idle, hl]; rfl, by rw [rx, hl]; rfl⟩
  · rw [hret]

end

/-! ## What every cold start leaves (R178) -/

/-- Every piece of state that neither the image nor the retention regions give is at its cold-start value; the memory, the
time and the commands waiting are kept. -/
structure State.Cold (mem : List Host.Cell) (s t : State) : Prop where
  mem : t.retention.mem = mem
  now : t.now = s.now
  pending : t.pending = s.pending
  session : t.session = Session.cold
  revoked : t.revoked = []
  clock : t.clock.dateKnown = false ∧ t.clock.day = 0 ∧ t.clock.second = 0
  peers : t.peers = Vector.replicate 32 Peer.cold
  batches : t.batches = Vector.replicate 8 none
  startQueue : t.startQueue = []
  line : t.link.lineIdle = false ∧ t.link.rx = .skip
  headers : ∀ h, t.header h = Header.cold
  arms : ∀ a, ∃ ahead slice gross std coupled, t.arm a = Arm.cold ahead slice gross std coupled
  injectors : ∀ i, t.injector i = Injector.cold
  monitor : t.monitor.horn = false ∧ t.monitor.ground = false ∧ t.monitor.deadman = .stopped
  panel : t.panel = ⟨.idle, none, false⟩

theorem State.lowSolenoid_closed {s : State} {a : ArmId} (h : (s.arm a).stage = .closed) : s.lowSolenoid a = false := by
  simp [State.lowSolenoid, h]

theorem State.mainSolenoid_closed {s : State} {a : ArmId} (h : (s.arm a).stage = .closed) : s.mainSolenoid a = false := by
  simp [State.mainSolenoid, h]

/-- Stage 5 leaves the cold-start values. -/
theorem State.Cold.sameStart {mem : List Host.Cell} {s u t : State} (h : s.Cold mem u) (ht : u.SameStart t) :
    s.Cold mem t where
  mem := (congrArg Retention.mem ht.retention).trans h.mem
  now := (congrArg State.now ht.rest).trans h.now
  pending := (congrArg State.pending ht.rest).trans h.pending
  session := (congrArg State.session ht.rest).trans h.session
  revoked := (congrArg State.revoked ht.rest).trans h.revoked
  clock := by rw [ht.clock]; exact h.clock
  peers := (congrArg State.peers ht.rest).trans h.peers
  batches := (congrArg State.batches ht.rest).trans h.batches
  startQueue := (congrArg State.startQueue ht.rest).trans h.startQueue
  line := by rw [ht.line.1, ht.line.2]; exact h.line
  headers k := (congrArg (State.header · k) ht.rest).trans (h.headers k)
  arms a := by rw [congrArg (State.arm · a) ht.rest]; exact h.arms a
  injectors i := (congrArg (State.injector · i) ht.rest).trans (h.injectors i)
  monitor := by rw [ht.monitor]; exact h.monitor
  panel := (congrArg State.panel ht.rest).trans h.panel

/-- The totalizers that stage 2 gives: the newer valid copy's, or zero (R178). -/
def totalsGiven (reads : ColdReads) (mem : List Host.Cell) : Totals :=
  if reads.totals then ((newerTotals mem).map (·.2.2)).getD Totals.zero else Totals.zero

/-- The store, the next number and the next count that stage 3 gives (R178). -/
def notesGiven (reads : ColdReads) (mem : List Host.Cell) : List StoredNote × Nat × Nat :=
  if reads.notes then readNotes mem else ([], 1, 1)

section
variable {reads : ColdReads} {mem : List Host.Cell}

theorem totalsGiven_found (hr : reads.totals = true) {b : Bool} {n : Nat} {block : Totals}
    (hn : newerTotals mem = some (b, n, block)) : totalsGiven reads mem = block := by
  rw [totalsGiven, if_pos hr, hn]
  rfl

theorem totalsGiven_zero (h : reads.totals = false ∨ newerTotals mem = none) :
    totalsGiven reads mem = Totals.zero := by
  unfold totalsGiven
  rcases h with h | h
  · rw [h]; rfl
  · rw [h]; exact ite_self _

theorem notesGiven_read (hr : reads.notes = true) : notesGiven reads mem = readNotes mem := if_pos hr

theorem notesGiven_none (h : reads.notes = false ∨ ∀ j < 16, readSlot mem j = none) :
    notesGiven reads mem = ([], 1, 1) := by
  unfold notesGiven
  rcases h with h | h
  · rw [h]; rfl
  · rw [readNotes_none h]; exact ite_self _

end

section
variable (s : State) (mem : List Host.Cell)

/-- A refused image leaves the cold-start values. -/
theorem State.refusedStart_cold (kind : FaultKind) (clamped restart : Bool) (draws : Nat) :
    s.Cold mem { State.refusedStart s.now mem kind s.pending with
      cfgClamped := clamped, restart := restart, freeDraws := draws } where
  mem := rfl
  now := rfl
  pending := rfl
  session := rfl
  revoked := rfl
  clock := ⟨rfl, rfl, rfl⟩
  peers := rfl
  batches := rfl
  startQueue := rfl
  line := ⟨rfl, rfl⟩
  headers _ := Vector.getElem_replicate _
  arms _ := ⟨0, 0, 0, 0, false, Vector.getElem_replicate _⟩
  injectors _ := Vector.getElem_replicate _
  monitor := ⟨rfl, rfl, rfl⟩
  panel := rfl

variable (cfg : ConfigImage) (clamped : Bool) (reads : ColdReads) (inputs : FieldInputs)

/-- An arm after stages 1 to 4: the image's figures and the totalizer region's. -/
theorem State.accepted_arm (a : ArmId) : (s.accepted cfg clamped mem reads inputs).arm a =
    Arm.cold cfg.arms[a].closeAhead cfg.arms[a].slice (totalsGiven reads mem).gross[a] (totalsGiven reads mem).std[a]
      inputs.coupled[a] :=
  vec4_get _ a

/-- Stages 1 to 4 leave the cold-start values. -/
theorem State.accepted_cold : s.Cold mem (s.accepted cfg clamped mem reads inputs) where
  mem := rfl
  now := rfl
  pending := rfl
  session := rfl
  revoked := rfl
  clock := ⟨rfl, rfl, rfl⟩
  peers := rfl
  batches := rfl
  startQueue := rfl
  line := ⟨rfl, rfl⟩
  headers _ := Vector.getElem_replicate _
  arms a := ⟨_, _, _, _, _, State.accepted_arm s mem cfg clamped reads inputs a⟩
  injectors _ := Vector.getElem_replicate _
  monitor := ⟨rfl, rfl, rfl⟩
  panel := rfl

end

/-! ## A refused and an accepted image (R178, R179) -/

/-- The retention memory as a cold start finds it. -/
def State.preloaded (preload : List Byte) (s : State) : List Host.Cell := writeBytes s.retention.mem 0 preload

/-- The image's 274 bytes (R195). -/
def imageBytes (mem : List Host.Cell) : List Byte := readBytes mem 0 274

/-- What stage 1 finds wrong: the first of the faults that holds. -/
def stage1Fault (config : Bool) (mem : List Host.Cell) : Option FaultKind :=
  ((startFaults config (imageBytes mem) (parseImage (imageBytes mem)).1).find? (·.1)).map (·.2)

/-- Stages 1 to 4 on the memory as it is, its image accepted. -/
def State.begun (preload : List Byte) (reads : ColdReads) (inputs : FieldInputs) (s : State) : State :=
  let parsed := parseImage (imageBytes (s.preloaded preload))
  s.accepted parsed.1 parsed.2 (s.preloaded preload) reads inputs

section
variable (s : State) (preload : List Byte) (reads : ColdReads) (inputs : FieldInputs)

theorem State.coldStart_refused {kind : FaultKind} (h : stage1Fault reads.config (s.preloaded preload) = some kind) :
    s.coldStart preload reads inputs =
      { State.refusedStart s.now (s.preloaded preload) kind s.pending with
        cfgClamped := reads.config && (parseImage (imageBytes (s.preloaded preload))).2
        restart := inputs.restart
        freeDraws := s.freeDraws } := by
  rw [stage1Fault, startFaults_first] at h
  unfold State.coldStart
  dsimp only
  split
  · rename_i other e
    cases e.symm.trans h
    rfl
  · rename_i e
    cases e.symm.trans h

theorem State.coldStart_accepted (h : stage1Fault reads.config (s.preloaded preload) = none) :
    s.coldStart preload reads inputs =
      if inputs.restart then s.begun preload reads inputs else (s.begun preload reads inputs).stage5 := by
  rw [stage1Fault, startFaults_first] at h
  unfold State.coldStart
  dsimp only
  split
  · rename_i e
    cases e.symm.trans h
  · rfl

/-- An accepted image leaves what stages 1 to 4 gave, whether stage 5 waits or not. -/
theorem State.coldStart_sameStart (h : stage1Fault reads.config (s.preloaded preload) = none) :
    (s.begun preload reads inputs).SameStart (s.coldStart preload reads inputs) := by
  rw [State.coldStart_accepted s preload reads inputs h]
  cases hr : inputs.restart with
  | true => exact .refl _
  | false => exact State.stage5_sameStart rfl rfl rfl hr

/-- Every cold start leaves the cold-start values. -/
theorem State.coldStart_cold : s.Cold (s.preloaded preload) (s.coldStart preload reads inputs) := by
  cases h : stage1Fault reads.config (s.preloaded preload) with
  | some kind =>
    rw [State.coldStart_refused s preload reads inputs h]
    exact State.refusedStart_cold s _ kind _ _ _
  | none => exact (State.accepted_cold s _ _ _ reads inputs).sameStart (State.coldStart_sameStart s preload reads inputs h)

end

/-! ## What the regions give (R178 stages 2 and 3) -/

section
variable {s : State} {preload : List Byte} {reads : ColdReads} {inputs : FieldInputs} {t : State}
  (ht : (s.begun preload reads inputs).SameStart t)
include ht

theorem State.SameStart.arm (a : ArmId) : t.arm a =
    let c := (parseImage (imageBytes (s.preloaded preload))).1
    let totals := totalsGiven reads (s.preloaded preload)
    Arm.cold c.arms[a].closeAhead c.arms[a].slice totals.gross[a] totals.std[a] inputs.coupled[a] :=
  (congrArg (State.arm · a) ht.rest).trans
    (State.accepted_arm s _ _ (parseImage (imageBytes (s.preloaded preload))).2 reads inputs a)

theorem State.SameStart.arm_totals (a : ArmId) :
    (t.arm a).grossTotal = (totalsGiven reads (s.preloaded preload)).gross[a] ∧
      (t.arm a).stdTotal = (totalsGiven reads (s.preloaded preload)).std[a] := by
  rw [ht.arm a]
  exact ⟨rfl, rfl⟩

/-- Without a valid copy that was read the totalizers are 0. -/
theorem State.SameStart.arm_totals_zero (hr : reads.totals = false ∨ newerTotals (s.preloaded preload) = none) (a : ArmId) :
    (t.arm a).grossTotal = 0 ∧ (t.arm a).stdTotal = 0 := by
  obtain ⟨gross, std⟩ := ht.arm_totals a
  rw [gross, std, totalsGiven_zero hr]
  exact ⟨Vector.getElem_replicate _, Vector.getElem_replicate _⟩

/-- RETENTION_FAULT tells a failed read of a region and a totalizer region without a valid copy. -/
theorem State.SameStart.retention_fault : t.retention.fault =
    decide (reads.totals = false ∨ reads.notes = false ∨ newerTotals (s.preloaded preload) = none) := by
  have begun : t.retention.fault = (!reads.totals || !reads.notes || (newerTotals (s.preloaded preload)).isNone) :=
    congrArg Retention.fault ht.retention
  rw [begun, Bool.eq_iff_iff]
  simp [or_assoc]

theorem State.SameStart.notes : t.notes.store = (notesGiven reads (s.preloaded preload)).1 ∧
    t.notes.nextNumber = (notesGiven reads (s.preloaded preload)).2.1 ∧
    t.retention.issueCount = (notesGiven reads (s.preloaded preload)).2.2 := by
  rw [congrArg State.notes ht.rest]
  exact ⟨rfl, rfl, congrArg Retention.issueCount ht.retention⟩

/-- A region that was not read, and one without a valid slot, give an empty store and the first numbers. -/
theorem State.SameStart.notes_none
    (hr : reads.notes = false ∨ ∀ j < 16, readSlot (s.preloaded preload) j = none) :
    t.notes.store = [] ∧ t.notes.nextNumber = 1 ∧ t.retention.issueCount = 1 := by
  simpa only [notesGiven_none hr] using ht.notes

end

/-! ## The listen period and the wait for the RESTART line -/

section
variable (s : State) (preload : List Byte) (reads : ColdReads) (inputs : FieldInputs)

/-- Stages 1 to 4 owe a block of zero totalizers when the totalizer region was read and held no valid copy (log 56). -/
theorem State.begun_held : (s.begun preload reads inputs).retention.held =
    if reads.totals = true ∧ newerTotals (s.preloaded preload) = none then some Totals.zero else none := by
  unfold State.begun State.accepted
  simp

/-- With the RESTART line released the listen period begins with its STATE (R28). -/
theorem State.coldStart_listens (h : stage1Fault reads.config (s.preloaded preload) = none) (hr : inputs.restart = false) :
    let t := s.coldStart preload reads inputs
    t.listenTimer = some (s.now + 3000) ∧ t.periodTimer = some (s.now + 1000) ∧
      t.monitor.stopLatch = inputs.stop ∧ t.monitor.terminal = inputs.stop ∧ t.ownStop = inputs.stop ∧
      (∃ id, t.link.queue = [⟨id, .state,
        lineImage (parseImage (imageBytes (s.preloaded preload))).1.station 1 t.statePayload⟩]) ∧
      t.retention.queue =
        if reads.totals = true ∧ newerTotals (s.preloaded preload) = none then [.totals Totals.zero] else [] := by
  obtain ⟨l, r, e, ⟨-, -, queue⟩, writes⟩ := State.stage5_first (u := s.begun preload reads inputs) rfl rfl
  rw [State.coldStart_accepted s preload reads inputs h, hr, if_neg Bool.false_ne_true]
  have writes : r.queue = _ := congrArg Retention.queue writes
  rw [State.begun_held] at writes
  rw [e] at queue ⊢
  refine ⟨rfl, rfl, rfl, rfl, rfl, ⟨0, queue⟩, writes.trans ?_⟩
  split <;> rfl

/-- With the RESTART line asserted stage 5 waits, and nothing is handed over (log 37). -/
theorem State.coldStart_waits (h : stage1Fault reads.config (s.preloaded preload) = none) (hr : inputs.restart = true) :
    let t := s.coldStart preload reads inputs
    t.stage5Waits = true ∧ t.listenTimer = none ∧ t.link.queue = [] ∧ t.retention.queue = [] := by
  rw [State.coldStart_accepted s preload reads inputs h, hr, if_pos rfl]
  exact ⟨rfl, rfl, rfl, rfl⟩

end

/-- Settles O49: the image by its fields, the slots by the uniqueness of the order of their counts, and each cold start by
stage 1's outcome, what it shares with every other and what its regions and stage 5 add. -/
theorem coldStart : Obligations.ColdStart := by
  refine ⟨fun bs => ⟨parseImage_clamped bs, parseImage_flag bs⟩,
    fun lo hi n ends => ⟨clampTo_within, clampTo_below, clampTo_above ends⟩,
    fun x y hx _ => higherCount_iff hx, fun s preload reads inputs => ?_⟩
  have cold := State.coldStart_cold s preload reads inputs
  obtain ⟨dateKnown, day, second⟩ := cold.clock
  obtain ⟨lineIdle, rx⟩ := cold.line
  obtain ⟨horn, ground, deadman⟩ := cold.monitor
  refine ⟨s.coldStart preload reads inputs, rfl, cold.mem, cold.now, cold.pending, congrArg Session.state cold.session,
    congrArg Session.permit cold.session, cold.revoked, dateKnown, day, second, cold.peers, cold.batches, cold.startQueue,
    lineIdle, rx, fun h => ?_, fun a => ?_, fun i => ?_, horn, ground, deadman, cold.panel, fun kind refused => ?_,
    fun accepted => ?_⟩
  · rw [cold.headers h]
    exact ⟨rfl, rfl⟩
  · obtain ⟨ahead, slice, gross, std, coupled, arm⟩ := cold.arms a
    have closed : ((s.coldStart preload reads inputs).arm a).stage = .closed := by rw [arm]; rfl
    exact ⟨closed, by rw [arm]; rfl, State.lowSolenoid_closed closed, State.mainSolenoid_closed closed, by rw [arm]; rfl⟩
  · rw [cold.injectors i]
    exact ⟨rfl, rfl⟩
  · rw [State.coldStart_refused s preload reads inputs refused]
    exact ⟨rfl, rfl, rfl, rfl, rfl, rfl, rfl⟩
  · have same := State.coldStart_sameStart s preload reads inputs accepted
    refine ⟨congrArg State.station same.rest, congrArg State.cfg same.rest, congrArg State.cfgClamped same.rest,
      congrArg State.restart same.rest, fun a => ?_, fun b n block hr hn a => ?_, same.arm_totals_zero,
      same.retention_fault, same.notes_none, fun order hr nodup valid ordered => ?_,
      State.coldStart_listens s preload reads inputs accepted, State.coldStart_waits s preload reads inputs accepted⟩
    · rw [same.arm a]
      exact ⟨rfl, rfl, rfl⟩
    · rw [← totalsGiven_found hr hn]
      exact same.arm_totals a
    · have slots := sortSlots_validSlots nodup valid ordered
      obtain ⟨store, nextNumber, issueCount⟩ := same.notes
      rw [store, nextNumber, issueCount, notesGiven_read hr]
      exact ⟨readNotes_numbers slots, readNotes_issued slots, fun n x => readNotes_next slots⟩

end Sys2Proof.Machine
end

section
/-! What a command does to the two queues. `Acts s t`: from `s` to `t` the link controller and the retention block change only by
hand-overs, by frames that leave, and by writes queued. Every operation of the part is such a run, so what each of these few
acts keeps, every command keeps (`exec_acts`). -/

namespace Sys2Proof.Machine

/-! ## The acts -/

/-- A run of acts on the transmit queue and the write queue. -/
inductive Acts : State → State → Prop where
  | refl (s : State) : Acts s s
  | trans {s t u : State} : Acts s t → Acts t u → Acts s u
  /-- a change elsewhere -/
  | quiet {s t : State} : t.link = s.link → t.retention = s.retention → Acts s t
  /-- a STATE handed over (R30, R31) -/
  | state (s : State) : Acts s s.composeState
  /-- a frame for the tail handed over (R8) -/
  | tail (tag : FrameTag) (payload : List Byte) (s : State) : tag ≠ .stop ∧ tag ≠ .state →
      Acts s (s.handTail tag payload).1
  /-- a STOP handed over (R8 to R10) -/
  | stop (s : State) : Acts s { s with link := (s.link.pushStop (s.frameNow .stop [])).1.numbered }
  /-- frames leave, or the line or the receiver changes -/
  | line {s t : State} : t.link.queue.Sublist s.link.queue → t.link.nextId = s.link.nextId →
      (s.link.Sound → t.link.Sound) → t.retention = s.retention → Acts s t
  /-- a write handed to the write queue (R183) -/
  | write (w : Write) (s : State) : s.retention.hasRoom = true → Acts s (s.queueWrite w)
  /-- a totalizer block held, or no longer held (R183) -/
  | hold (block : Option Totals) (s : State) : Acts s (s.modRetention fun r => { r with held := block })

variable {s t u : State}

/-- The last act first. -/
theorem Acts.after (k : Acts t u) (h : Acts s t) : Acts s u := h.trans k

theorem Acts.foldl {α : Type} (f : State → α → State) (hf : ∀ s x, Acts s (f s x)) (l : List α) (s : State) :
    Acts s (l.foldl f s) := by
  induction l generalizing s with
  | nil => exact .refl s
  | cons x l ih => exact (hf s x).trans (ih _)

theorem Acts.eachArm (f : ArmId → State → State) (hf : ∀ a s, Acts s (f a s)) (s : State) : Acts s (s.eachArm f) :=
  (((hf 0 _).trans (hf 1 _)).trans (hf 2 _)).trans (hf 3 _)

theorem Acts.eachInjector (f : InjectorId → State → State) (hf : ∀ i s, Acts s (f i s)) (s : State) :
    Acts s (s.eachInjector f) :=
  (((hf 0 _).trans (hf 1 _)).trans (hf 2 _)).trans (hf 3 _)

theorem Acts.ite {c : Prop} [Decidable c] (h : c → Acts s t) (k : ¬c → Acts s u) : Acts s (if c then t else u) := by
  split
  · exact h ‹_›
  · exact k ‹_›

theorem Acts.when {c : Prop} [Decidable c] (h : c → Acts s t) : Acts s (if c then t else s) := .ite h fun _ => .refl s

theorem Acts.unless {c : Prop} [Decidable c] (h : ¬c → Acts s t) : Acts s (if c then s else t) := .ite (fun _ => .refl s) h

/-- One change of every arm. -/
theorem Acts.modArms (f : Arm → Arm) (s : State) : Acts s (s.eachArm fun a x => x.modArm a f) :=
  .eachArm (fun a x => x.modArm a f) (fun _ _ => .quiet rfl rfl) s

/-- One change of every injector channel. -/
theorem Acts.modInjectors (f : Injector → Injector) (s : State) : Acts s (s.eachInjector fun i x => x.modInjector i f) :=
  .eachInjector (fun i x => x.modInjector i f) (fun _ _ => .quiet rfl rfl) s

/-- The kinds of change that leave the link controller and the retention block. -/
def quietTouch : List Touch :=
  [.arm, .totals, .learned, .coupled, .stage, .opening, .header, .batch, .injector, .session, .check, .monitor, .notes,
    .peers, .clock, .socket, .panel, .listened, .other]

/-- A run of such changes is quiet. -/
theorem Acts.touch {L : List Touch} (h : Moves L s t) (hL : L ⊆ quietTouch := by decide) : Acts s t := by
  have same : t.link = s.link ∧ t.retention = s.retention := by
    refine h.keeps (P := fun x => x.link = s.link ∧ x.retention = s.retention) (fun l hl x y p hx => ?_) ⟨rfl, rfl⟩
    have hl := hL hl
    cases p with
    | shares | alarm | stops | link | clash | writes | memory | newDay | revoke => simp [quietTouch] at hl
    | _ => exact hx
  exact .quiet same.1 same.2

/-! ## The claim slot and the scan -/

theorem State.withdrawClaim_acts (h : HeaderId) (a : ArmId) (kind : ClaimKind) (announce : Bool) (s : State) :
    Acts s (s.withdrawClaim h a kind announce) := by
  unfold State.withdrawClaim
  refine .trans (t := if announce then s.composeState else s) (.when fun _ => .state s) (.quiet ?_ ?_) <;>
    cases kind <;> rfl

theorem State.takeSlot_acts (a : ArmId) (kind : ClaimKind) (s : State) : Acts s (s.takeSlot a kind) := by
  have claimed (x : State) (h : HeaderId) (f : Header → Header) : Acts x
      (match kind with
        | .low => x.modHeader h f
        | .stepUp => (x.modHeader h f).modArm a fun m => { m with stepUp := .inClaim }) := by
    cases kind <;> exact .quiet rfl rfl
  have handed (x : State) (h : HeaderId) (payload : List Byte) (hx : Acts s x) :
      Acts s (match (x.handTail (.claim h) payload).2 with
        | .full => (x.handTail (.claim h) payload).1.withdrawClaim h a kind true
        | _ => (x.handTail (.claim h) payload).1) := by
    have hand := hx.trans (.tail (.claim h) payload x ⟨nofun, nofun⟩)
    split
    · exact hand.trans (State.withdrawClaim_acts _ _ _ _ _)
    · exact hand
  unfold State.takeSlot
  dsimp only
  by_cases hc : (s.headerCfg (s.armCfg a).header).capacity <
      (s.header (s.armCfg a).header).ownShare + claimIncrease (s.armCfg a) kind
  · rw [if_pos hc]
    exact s.withdrawClaim_acts _ a kind false
  · rw [if_neg hc]
    exact handed _ _ _ (claimed s _ _)

theorem State.offerSlot_acts (h : HeaderId) (s : State) (a : ArmId) : Acts s (s.offerSlot h a) := by
  unfold State.offerSlot
  exact .when fun _ => s.takeSlot_acts a .stepUp

theorem State.passArms_acts (h : HeaderId) (s : State) : Acts s (s.passArms h) := .foldl _ (State.offerSlot_acts h) _ s

theorem State.scanOne_acts (s : State) (c : CompId) : Acts s (s.scanOne c) := by
  unfold State.scanOne
  split
  · exact .refl s
  · refine .when fun _ => ?_
    split
    · exact (State.passArms_acts _ _).after ((State.takeSlot_acts _ _ _).after (.quiet rfl rfl))
    · exact .refl s

theorem State.scan_acts (s : State) : Acts s s.scan := by
  unfold State.scan
  exact .when fun _ => .foldl _ State.scanOne_acts _ s

theorem State.passOn_acts (h : HeaderId) (s : State) : Acts s (s.passOn h) := by
  unfold State.passOn
  refine .when fun _ => .ite (fun _ => ?_) fun _ => s.passArms_acts h
  exact (s.passArms_acts h).trans (State.scan_acts _)

theorem State.requestStepUp_acts (a : ArmId) (s : State) : Acts s (s.requestStepUp a) := by
  unfold State.requestStepUp
  refine .when fun _ => .ite (fun _ => .ite (fun _ => ?_) fun _ => ?_) fun _ => .quiet rfl rfl
  · exact (s.takeSlot_acts a _).trans (State.passOn_acts _ _)
  · exact s.takeSlot_acts a _

theorem State.retryTrigger_acts (h : HeaderId) (s : State) : Acts s (s.retryTrigger h) := by
  have woken (x : State) : Acts x (x.eachArm (State.wakeArm h)) :=
    .eachArm _ (fun a y => by unfold State.wakeArm; exact .when fun _ => .quiet rfl rfl) x
  have passed (x : State) : Acts x (if (x.header h).slot = none then x.passOn h else x) := .when fun _ => x.passOn_acts h
  have cleared (x : State) : Acts x (x.modHeader h fun y => { y with retryWait := false }) := .quiet rfl rfl
  unfold State.retryTrigger
  exact (State.scan_acts _).after <| (cleared _).after <| (passed _).after <| (woken _).after <| .quiet rfl rfl

theorem State.announceFall_acts (h : HeaderId) (s : State) : Acts s (s.announceFall h) :=
  (Acts.state s).trans (State.retryTrigger_acts h _)

theorem State.dropClaim_acts (h : HeaderId) (announce : Bool) (s : State) : Acts s (s.dropClaim h announce) := by
  unfold State.dropClaim
  split
  · exact .refl s
  · rename_i c _
    have freed : Acts s
        (match c.kind with
          | .low => (s.modHeader h fun x => { x with slot := none }).modArm c.arm fun m => { m with reserved := none }
          | .stepUp => (s.modHeader h fun x => { x with slot := none }).modArm c.arm fun m => { m with stepUp := .none }) := by
      split <;> exact .quiet rfl rfl
    dsimp only
    split
    · exact freed.trans (.state _)
    · exact freed

theorem State.abandon_acts (h : HeaderId) (s : State) : Acts s (s.abandon h) := by
  unfold State.abandon
  split
  · exact .refl s
  · exact (s.dropClaim_acts h true).trans (State.passOn_acts h _)

theorem State.abandonStepUp_acts (a : ArmId) (s : State) : Acts s (s.abandonStepUp a) := by
  unfold State.abandonStepUp
  split
  · exact .when fun _ => s.abandon_acts _
  · exact .refl s

theorem State.abandonLow_acts (s : State) (h : HeaderId) : Acts s (s.abandonLow h) := by
  unfold State.abandonLow
  split
  · exact .when fun _ => s.abandon_acts _
  · exact .refl s

theorem State.releaseReservation_acts (a : ArmId) (s : State) : Acts s (s.releaseReservation a) := by
  unfold State.releaseReservation
  split
  · exact .refl s
  · refine .trans ?_ (State.scan_acts _)
    split
    · exact .ite (fun _ => s.abandon_acts _) fun _ => .quiet rfl rfl
    · exact .quiet rfl rfl

theorem State.recheckReservation_acts (a : ArmId) (s : State) : Acts s (s.recheckReservation a) := by
  unfold State.recheckReservation
  split
  · exact .refl s
  · split
    · exact .refl s
    · exact .unless fun _ => s.releaseReservation_acts a

/-! ## Closes and the deadman -/

theorem State.beginClose_acts (a : ArmId) (k : CloseKind) (r : Reason) (m : Manner) (s : State) :
    Acts s (s.beginClose a k r m) := by
  have cut (x : State) : Acts x (if m = .fast then x.cutArmShots a else x) := .when fun _ => .touch (x.cutArmShots_touch a)
  unfold State.beginClose
  exact (State.abandonStepUp_acts a _).after ((cut _).after (.quiet rfl rfl))

theorem State.closeDemand_acts (a : ArmId) (k : CloseKind) (r : Reason) (m : Manner) (s : State) :
    Acts s (s.closeDemand a k r m) := by
  unfold State.closeDemand
  refine .unless fun _ => ?_
  split
  · exact .refl s
  · exact .when fun _ => .quiet rfl rfl
  · exact s.beginClose_acts a k r m

theorem State.withdraw_acts (r : Reason) (s : State) : Acts s (s.withdraw r) :=
  ((Acts.eachArm _ (fun a x => x.closeDemand_acts a .stop r .fast) s).trans (.touch (State.cutAllShots_touch _))).trans
    (.foldl _ (fun x h => x.abandon_acts h) _ _)

theorem State.withdrawIf_acts (r : Reason) (was now : Bool) (s : State) : Acts s (s.withdrawIf r was now) := by
  unfold State.withdrawIf
  exact .when fun _ => s.withdraw_acts r

theorem State.restoreIf_acts (was : Bool) (s : State) : Acts s (s.restoreIf was) := by
  unfold State.restoreIf
  exact .when fun _ => s.scan_acts

theorem State.settleDeadman_acts (b : Bool) (s : State) : Acts s (s.settleDeadman b) := by
  unfold State.settleDeadman
  exact .when fun _ => (State.restoreIf_acts _ _).after (.quiet rfl rfl)

theorem State.afterDequeue_acts (s : State) : Acts s s.afterDequeue := by
  unfold State.afterDequeue
  exact .when fun _ => (s.settleDeadman_acts false).trans (.touch (State.startIdle_touch _))

theorem State.tripDeadman_acts (trip : Deadman) (s : State) : Acts s (s.tripDeadman trip) := by
  unfold State.tripDeadman
  exact (State.withdrawIf_acts _ _ _ _).after (.quiet rfl rfl)

theorem State.countClosure_acts (c : ContactId) (s : State) : Acts s (s.countClosure c) := by
  unfold State.countClosure
  exact .ite (fun _ => (Acts.touch s.runDeadman_touch).trans (State.restoreIf_acts _ _)) fun _ => .quiet rfl rfl

/-! ## Slices -/

theorem State.faultEffect_acts (a : ArmId) (c : CompId) (s : State) : Acts s (s.faultEffect a c) := by
  unfold State.faultEffect
  refine (State.recheckReservation_acts a _).after (.ite (fun _ => .quiet rfl rfl) fun _ => .when fun _ => ?_)
  exact s.closeDemand_acts a _ _ _

theorem State.judgeWindow_acts (i : InjectorId) (s : State) : Acts s (s.judgeWindow i) := by
  unfold State.judgeWindow
  split
  · exact .refl s
  · exact .ite (fun _ => (State.faultEffect_acts _ _ _).after (.quiet rfl rfl)) fun _ => .quiet rfl rfl

theorem State.dose_acts (a : ArmId) (dG : Nat) (b : Bool) (s : State) : Acts s (s.dose a dG b) := by
  unfold State.dose
  split
  · exact .refl s
  · split
    · exact .refl s
    · dsimp only
      split
      · exact .quiet rfl rfl
      · refine (Acts.when fun _ => (Acts.unless fun _ => ?_).after (State.judgeWindow_acts _ _)).after (.quiet rfl rfl)
        exact .touch (State.fireShot_touch _ _ _ _)

theorem State.meterFault_acts (a : ArmId) (s : State) : Acts s (s.meterFault a) := by
  unfold State.meterFault
  dsimp only
  exact (Acts.when fun _ => State.closeDemand_acts a _ _ _ _).after
    ((State.recheckReservation_acts a _).after (.quiet rfl rfl))

theorem State.dualPulse_acts (a : ArmId) (f : SliceFigures) (s : State) : Acts s (s.dualPulse a f) := by
  unfold State.dualPulse
  dsimp only
  exact .when fun _ => (Acts.when fun _ => State.meterFault_acts a _).after (.quiet rfl rfl)

theorem State.applyPreset_acts (a : ArmId) (b : Bool) (s : State) : Acts s (s.applyPreset a b) := by
  unfold State.applyPreset
  split
  · exact .refl s
  · split
    · exact .refl s
    · exact (Acts.when fun _ => State.closeDemand_acts a _ _ _ _).after (.quiet rfl rfl)

theorem State.enterSlowdown_acts (a : ArmId) (s : State) : Acts s (s.enterSlowdown a) := by
  unfold State.enterSlowdown
  exact (Acts.when fun _ => State.announceFall_acts _ _).after ((State.abandonStepUp_acts a _).after (.quiet rfl rfl))

theorem State.slowdownTest_acts (a : ArmId) (s : State) : Acts s (s.slowdownTest a) := by
  unfold State.slowdownTest
  split
  case h_4 => exact .when fun _ => s.enterSlowdown_acts a
  all_goals exact .refl s

theorem State.closeAheadTest_acts (a : ArmId) (s : State) : Acts s (s.closeAheadTest a) := by
  unfold State.closeAheadTest
  split
  · exact .when fun _ => s.closeDemand_acts a _ _ _
  · exact .refl s

theorem State.startVolumeTest_acts (a : ArmId) (s : State) : Acts s (s.startVolumeTest a) := by
  unfold State.startVolumeTest
  exact .when fun _ => s.requestStepUp_acts a

theorem State.stageTests_acts (a : ArmId) (p r : Bool) (s : State) : Acts s (s.stageTests a p r) := by
  unfold State.stageTests
  refine .ite (fun _ => s.applyPreset_acts a r) fun _ => (State.startVolumeTest_acts a _).after ?_
  exact (State.closeAheadTest_acts a _).after ((State.slowdownTest_acts a _).after (s.applyPreset_acts a r))

theorem State.overdrawTest_acts (a : ArmId) (rate : Nat) (s : State) : Acts s (s.overdrawTest a rate) := by
  unfold State.overdrawTest
  dsimp only
  split
  · refine .ite (fun _ => .ite (fun _ => .quiet rfl rfl) fun _ => ?_) fun _ => .quiet rfl rfl
    exact (State.announceFall_acts _ _).after (.quiet rfl rfl)
  · exact .quiet rfl rfl
  · exact .quiet rfl rfl
  · exact .refl s

theorem State.decideYield_acts (a : ArmId) (s : State) : Acts s (s.decideYield a) := by
  have steps (x : State) : Acts x (x.yieldStep a) := (State.announceFall_acts _ _).after (.quiet rfl rfl)
  unfold State.decideYield
  dsimp only
  exact .when fun _ => (Acts.when fun _ => steps _).after (.quiet rfl rfl)

theorem State.addSlice_acts (a : ArmId) (f : SliceFigures) (s : State) : Acts s (s.addSlice a f) :=
  .touch (s.addSlice_touch a f)

theorem State.fullSlice_acts (a : ArmId) (s : State) : Acts s (s.fullSlice a) := by
  unfold State.fullSlice
  refine (Acts.touch (State.startConversion_touch a _)).after <| (Acts.touch (State.reload_touch a _ _)).after <|
    (State.decideYield_acts a _).after <| (State.overdrawTest_acts a _ _).after <| (State.stageTests_acts a _ _ _).after ?_
  exact (State.dualPulse_acts a _ _).after <| (State.dose_acts a _ _ _).after <|
    (Acts.touch (State.noteRate_touch a _ _)).after (s.addSlice_acts a _)

theorem State.closeSlice_acts (a : ArmId) (s : State) : Acts s (s.closeSlice a) := by
  unfold State.closeSlice
  refine (Acts.touch (State.startConversion_touch a _)).after <| (Acts.touch (State.reload_touch a _ _)).after <|
    (State.decideYield_acts a _).after <| (State.stageTests_acts a _ _ _).after ?_
  exact (State.dualPulse_acts a _ _).after ((State.dose_acts a _ _ _).after (s.addSlice_acts a _))

theorem State.releaseSlice_acts (a : ArmId) (s : State) : Acts s (s.releaseSlice a) := by
  unfold State.releaseSlice
  refine (Acts.touch (State.reload_touch a _ _)).after <| (State.stageTests_acts a _ _ _).after ?_
  exact (State.dualPulse_acts a _ _).after ((State.dose_acts a _ _ _).after (s.addSlice_acts a _))

/-! ## Commits -/

theorem State.commit_acts (h : HeaderId) (c : Claim) (s : State) : Acts s (s.commit h c) := by
  have opened (x : State) (a : ArmId) : Acts x (((x.openChannel a).activate a).stopIdle).startDeadman :=
    (((Acts.touch (x.openChannel_touch a)).trans (.touch (State.activate_touch a _))).trans
      (.touch (State.stopIdle_touch _))).trans (.touch (State.startDeadman_touch _))
  unfold State.commit
  refine (State.passOn_acts h _).after (.trans ((Acts.state _).after ?_) (.quiet rfl rfl))
  split
  · exact (opened _ _).after (.quiet rfl rfl)
  · exact .quiet rfl rfl

theorem State.sendYield_acts (h : HeaderId) (n : Nat) (s : State) : Acts s (s.sendYield h n) := by
  unfold State.sendYield
  exact .when fun _ => .trans (.tail (.yield h) _ s ⟨nofun, nofun⟩) (.quiet rfl rfl)

theorem State.withdrawFully_acts (h : HeaderId) (c : Claim) (n : Option Nat) (s : State) :
    Acts s (s.withdrawFully h c n) := by
  have ended (x : State) : Acts x (match c.kind with
      | .low => (x.passOn h).scan
      | .stepUp => x.passOn h) := by
    split
    · exact (x.passOn_acts h).trans (State.scan_acts _)
    · exact x.passOn_acts h
  unfold State.withdrawFully
  refine (ended _).after (.trans (s.withdrawClaim_acts h c.arm c.kind true) ?_)
  split
  · exact State.sendYield_acts _ _ _
  · exact .refl _

theorem State.evaluate_acts (h : HeaderId) (c : Claim) (s : State) : Acts s (s.evaluate h c) := by
  unfold State.evaluate
  exact .ite (fun _ => s.commit_acts h c) fun _ => s.withdrawFully_acts h c _

/-! ## Notes and the write queue -/

theorem State.handTotals_acts (s : State) : Acts s s.handTotals := by
  unfold State.handTotals
  exact .ite (fun h => .write _ s h) fun _ => .hold _ s

theorem State.offerHeld_acts (s : State) : Acts s s.offerHeld := by
  unfold State.offerHeld
  split
  · exact .when fun h => (Acts.write _ s h).trans (.hold none _)
  · exact .refl s

theorem State.drainOutbox_acts (n : Nat) (s : State) : Acts s (State.drainOutbox n s) := by
  induction n generalizing s with
  | zero => exact .refl s
  | succ n ih =>
    unfold State.drainOutbox
    split
    · exact .refl s
    · exact .when fun h => (ih _).after (.trans (.write _ s h) (.quiet rfl rfl))

theorem State.sendNote_acts (n : Nat) (r : List Byte) (s : State) : Acts s (s.sendNote n r) := by
  have handed (x : State) (id : Nat) : Acts x (match (x.handTail (.note n) r).2 with
      | .full => (x.handTail (.note n) r).1.clearMarker n id
      | .clash => (x.handTail (.note n) r).1.clearMarker n id
      | _ => (x.handTail (.note n) r).1) := by
    have hand := Acts.tail (.note n) r x ⟨nofun, nofun⟩
    split
    · exact hand.trans (.quiet rfl rfl)
    · exact hand.trans (.quiet rfl rfl)
    · exact hand
  unfold State.sendNote
  exact (handed _ _).after (.quiet rfl rfl)

theorem State.issueNote_acts (s : State) (h : s.issueFits = true) : Acts s s.issueNote := by
  have room : s.retention.hasRoom = true := ((Bool.and_eq_true _ _).mp h).2
  unfold State.issueNote
  exact (State.sendNote_acts _ _ _).after ((Acts.write _ (s.modNotes _) room).after (.quiet rfl rfl))

/-! ## Session -/

theorem State.checkFail_acts (r : Reason) (s : State) : Acts s (s.checkFail r) := .touch (s.checkFail_touch r)

theorem State.discarded_acts (f : TxFrame) (s : State) : Acts s (s.discarded f) := by
  unfold State.discarded
  split
  case h_4 h _ =>
    split
    · exact s.withdrawFully_acts _ _ _
    · exact .refl s
  case h_5 => exact .when fun _ => s.checkFail_acts _
  case h_6 => exact .quiet rfl rfl
  all_goals exact .refl s

theorem State.closeSession_acts (s : State) : Acts s s.closeSession := by
  have batches (x : State) : Acts x { x with batches := Vector.replicate 8 none } := .quiet rfl rfl
  have session (f : Session → Session) (x : State) : Acts x (x.modSession f) := .quiet rfl rfl
  unfold State.closeSession
  exact (Acts.state _).after <| (Acts.modArms _ _).after <| (batches _).after <| (session _ _).after <|
    (Acts.modArms _ _).after <| (Acts.modInjectors _ _).after (session _ s)

theorem State.offerIssue_acts (s : State) : Acts s s.offerIssue := by
  unfold State.offerIssue
  exact .ite (fun h => (s.issueNote_acts h).trans (State.closeSession_acts _)) fun _ => .quiet rfl rfl

theorem State.settleBatches_acts (s : State) : Acts s s.settleBatches := by
  have emptied (x : State) : Acts x { x with startQueue := [] } := .quiet rfl rfl
  have rested (b : Bool) (x : State) : Acts x (if b then x.settleDeadman false else x) :=
    .when fun _ => x.settleDeadman_acts false
  unfold State.settleBatches
  exact (rested _ _).after <| (Acts.foldl (fun x h => x.modHeader h _) (fun _ _ => .quiet rfl rfl) _ _).after <|
    (emptied _).after (.foldl State.settleComp (fun _ _ => .quiet rfl rfl) _ s)

theorem State.completeEnding_acts (s : State) : Acts s s.completeEnding := by
  unfold State.completeEnding
  refine .when fun _ => .ite (fun _ => ?_) fun _ => ?_
  · exact s.settleBatches_acts.trans (State.offerIssue_acts _)
  · exact s.settleBatches_acts.trans (State.closeSession_acts _)

theorem State.enterEnding_acts (r : Reason) (s : State) : Acts s (s.enterEnding r) := by
  unfold State.enterEnding
  refine .when fun _ => (State.completeEnding_acts _).after <|
    (Acts.eachArm _ (fun a x => x.closeDemand_acts a _ _ _) _).after ?_
  exact (Acts.modArms _ _).after ((Acts.foldl _ State.abandonLow_acts _ _).after (.quiet rfl rfl))

theorem State.dayChange_acts (s : State) : Acts s s.dayChange := by
  unfold State.dayChange
  dsimp only
  split
  · exact .ite (fun _ => (State.enterEnding_acts _ _).after ((State.checkFail_acts _ _).after (.quiet rfl rfl)))
      fun _ => .quiet rfl rfl
  · exact .quiet rfl rfl

/-- The purge of CLASH takes frames away (R16). -/
theorem Link.purge_sublist (l : Link) : l.purge.queue.Sublist l.queue ∧ l.purge.nextId = l.nextId := by
  have started (l : Link) : l.startIfReady.nextId = l.nextId := by unfold Link.startIfReady; split <;> rfl
  unfold Link.purge
  dsimp only
  split
  · split
    · exact ⟨List.filter_sublist, rfl⟩
    · rw [Link.startIfReady_queue, started]
      exact ⟨List.filter_sublist, rfl⟩
  · exact ⟨.refl _, rfl⟩

theorem State.enterClash_acts (s : State) : Acts s s.enterClash := by
  have purged : Acts s { s with station := .clash, link := s.link.purge } :=
    .line s.link.purge_sublist.1 s.link.purge_sublist.2 Link.Sound.purge rfl
  unfold State.enterClash
  refine .unless fun _ => (State.enterEnding_acts _ _).after <| (State.checkFail_acts _ _).after <|
    (Acts.eachArm _ (fun a x => x.closeDemand_acts a _ _ _) _).after <|
    (Acts.foldl _ (fun x h => x.dropClaim_acts h false) _ _).after ?_
  exact (Acts.foldl _ (fun x f => .touch (x.purged_touch f)) _ _).after purged

theorem State.offerPlace_acts (s : State) : Acts s s.offerPlace := by
  have drained := s.offerHeld_acts.trans (State.drainOutbox_acts Config.writeCapacity _)
  unfold State.offerPlace
  refine .ite (fun h => drained.trans ((State.issueNote_acts _ ?_).trans (State.closeSession_acts _))) fun _ => drained
  exact ((Bool.and_eq_true _ _).mp h).2

theorem State.followStopSet_acts (s : State) : Acts s s.followStopSet := by
  unfold State.followStopSet
  refine .unless fun _ => .ite (fun _ => ?_) fun _ => ?_
  · exact (State.withdraw_acts _ _).after (.quiet rfl rfl)
  · exact (State.restoreIf_acts _ _).after (.quiet rfl rfl)

theorem State.handStop_acts (s : State) : Acts s s.handStop := by
  unfold State.handStop
  refine .when fun _ => (Acts.stop s).trans ?_
  dsimp only
  split
  · exact State.discarded_acts _ _
  · exact .refl _

theorem State.setOwnStop_acts (b : Bool) (s : State) : Acts s (s.setOwnStop b) := by
  unfold State.setOwnStop
  exact .unless fun _ => (State.followStopSet_acts _).after ((Acts.state _).after (.quiet rfl rfl))

theorem State.closeWindows_acts (a : ArmId) (s : State) : Acts s (s.closeWindows a) :=
  .eachInjector _ (fun i x => .when fun _ => (Acts.touch (x.endShot_touch true i)).trans (State.judgeWindow_acts i _)) s

theorem State.completeClose_acts (a : ArmId) (c : Close) (s : State) : Acts s (s.completeClose a c) := by
  have learnt (x : State) (leak : Bool) : Acts x (if c.kind = .normal then x.learn a c.cause leak else x) :=
    .when fun _ => .touch (x.learn_touch a _ _)
  have quieted (x : State) : Acts x (x.modArm a Arm.quietChannel) := .quiet rfl rfl
  unfold State.completeClose
  refine (Acts.touch (State.startIdle_touch _)).after <| (State.completeEnding_acts _).after <|
    (State.settleDeadman_acts _ _).after <| (State.closeWindows_acts a _).after <| (State.scan_acts _).after <|
    (Acts.touch (State.closeOutcome_touch a _ _ _)).after <| (State.announceFall_acts _ _).after ?_
  refine (Acts.touch (State.shut_touch a _)).after <| (learnt _ _).after ?_
  exact (quieted _).after ((State.handTotals_acts _).after (s.closeSlice_acts a))

end Sys2Proof.Machine
end

section
/-! Every command as a run of acts on the two queues (`exec_acts`). -/

namespace Sys2Proof.Machine

variable {s t u : State}

/-- A change of the line and the receiver alone. -/
theorem Acts.receiver (idle : Bool) (rx : RxState) (buffer : List Byte) (s : State) :
    Acts s (s.modLink fun l => { l with lineIdle := idle, rx := rx, buffer := buffer }) :=
  .line (.refl _) rfl (fun h => ⟨h.room, h.attempts, h.empty, h.slots⟩) rfl

/-! ## Received frames -/

theorem State.receive_acts (frame : List Byte) (deliver : StationId → Frame → State → State) (s : State)
    (hd : ∀ p f x, Acts x (deliver p f x)) : Acts s (s.receive frame deliver) := by
  have taken : Acts s (s.modLink fun l => { l with rx := .skip, buffer := frame }) :=
    .receiver s.link.lineIdle .skip frame s
  unfold State.receive
  refine .unless fun _ => ?_
  dsimp only
  split
  · exact taken
  · exact .ite (fun _ => (State.enterClash_acts _).after taken) fun _ => (hd _ _ _).after taken

theorem State.permitOffer_acts (p : StationId) (permit : Option Nat) (s : State) : Acts s (s.permitOffer p permit) := by
  unfold State.permitOffer
  refine .when fun _ => ?_
  split
  · exact .refl s
  · exact s.checkFail_acts _
  · exact .when fun _ => s.enterEnding_acts _
  · exact .refl s

theorem State.deliverState_acts (p : StationId) (cls : PriorityClass) (stop isOpen : Bool) (shares : Vector Nat 8)
    (permit : Option Nat) (s : State) : Acts s (s.deliverState p cls stop isOpen shares permit) := by
  have fell (old : Vector Nat 8) (x : State) (h : HeaderId) : Acts x (x.shareFell old shares h) := by
    unfold State.shareFell
    exact .when fun _ => x.retryTrigger_acts h
  unfold State.deliverState
  exact (State.permitOffer_acts _ _ _).after <| (Acts.foldl _ (fell _) _ _).after <|
    (State.followStopSet_acts _).after (.quiet rfl rfl)

theorem State.deliverPermitClaim_acts (p : StationId) (n : Nat) (s : State) : Acts s (s.deliverPermitClaim p n) := by
  unfold State.deliverPermitClaim
  refine .when fun _ => ?_
  split
  · exact .refl s
  · exact .when fun _ => s.checkFail_acts _
  · exact .state s
  · exact .state s

theorem State.deliverRevoke_acts (n day : Nat) (s : State) : Acts s (s.deliverRevoke n day) := by
  unfold State.deliverRevoke
  exact .ite (fun _ => (State.enterEnding_acts _ _).after ((State.checkFail_acts _ _).after (.quiet rfl rfl)))
    fun _ => .quiet rfl rfl

theorem State.deliverTime_acts (day second : Nat) (s : State) : Acts s (s.deliverTime day second) := by
  unfold State.deliverTime
  exact .ite (fun _ => (State.dayChange_acts _).after (.quiet rfl rfl)) fun _ => .quiet rfl rfl

theorem State.deliverStop_acts (p : StationId) (s : State) : Acts s (s.deliverStop p) := by
  unfold State.deliverStop
  exact (State.followStopSet_acts _).after (.quiet rfl rfl)

theorem State.deliverNoteRequest_acts (p : StationId) (s : State) : Acts s (s.deliverNoteRequest p) := by
  unfold State.deliverNoteRequest
  refine .when fun _ => ?_
  split
  · exact .refl s
  · exact .when fun _ => s.sendNote_acts _ _

theorem State.deliverNoteTaken_acts (p : StationId) (n : Nat) (s : State) : Acts s (s.deliverNoteTaken p n) := by
  have offered (x : State) : Acts x (x.offerRemoval n) := by
    unfold State.offerRemoval
    exact .ite (fun h => .write _ x h) fun _ => .quiet rfl rfl
  unfold State.deliverNoteTaken
  exact .when fun _ => (offered _).after (.quiet rfl rfl)

theorem State.frameSent_acts (f : TxFrame) (s : State) : Acts s (s.frameSent f) := by
  unfold State.frameSent
  split
  case h_4 =>
    split
    · exact .quiet rfl rfl
    · exact .state s
  case h_5 => exact .when fun _ => .quiet rfl rfl
  case h_6 => exact .quiet rfl rfl
  all_goals exact .refl s

/-! ## Panel requests -/

theorem State.frameEnd_acts (take : State → State) (s : State) (ht : Acts s (take s)) : Acts s (s.frameEnd take) := by
  unfold State.frameEnd
  split
  · exact ht
  · exact .refl s
  · exact .quiet rfl rfl

theorem State.request_acts (ok : Bool) (owner : State → State × Answer) (s : State) (ho : ∀ x, Acts x (owner x).1) :
    Acts s (s.request ok owner) := by
  have answered (x : State) (a : Answer) : Acts x (x.answer a) := .quiet rfl rfl
  unfold State.request
  refine s.frameEnd_acts _ (.ite (fun _ => answered _ _) fun _ => .ite (fun _ => answered _ _) fun _ =>
    .ite (fun _ => answered _ _) fun _ => ?_)
  exact (answered _ _).after ((ho _).after (.touch s.restartIdle_touch))

theorem State.beginCheck_acts (p : Permit) (t : Tag) (s : State) : Acts s (s.beginCheck p t) := by
  have handed (x : State) (payload : List Byte) : Acts x (match (x.handTail .permitClaim payload).2 with
      | .full => (x.handTail .permitClaim payload).1.checkFail .linkBusy
      | .clash => (x.handTail .permitClaim payload).1.checkFail .clash
      | _ => (x.handTail .permitClaim payload).1) := by
    have hand := Acts.tail .permitClaim payload x ⟨nofun, nofun⟩
    split
    · exact hand.trans (State.checkFail_acts _ _)
    · exact hand.trans (State.checkFail_acts _ _)
    · exact hand
  unfold State.beginCheck
  exact (handed _ _).after (.quiet rfl rfl)

theorem State.presentCard_acts (card : List Byte) (s : State) : Acts s (s.presentCard card).1 := by
  unfold State.presentCard
  split
  · exact .refl s
  · exact s.beginCheck_acts _ _

theorem State.finishSession_acts (s : State) : Acts s s.finishSession.1 := by
  unfold State.finishSession
  split
  · exact .refl s
  · exact .refl s
  · split
    · exact s.enterEnding_acts _
    · exact .refl s
  · exact .refl s

theorem State.releaseFor_acts (c : CompId) (s : State) : Acts s (s.releaseFor c) := by
  unfold State.releaseFor
  split
  · exact s.releaseReservation_acts _
  · exact .refl s

theorem State.cancelBatch_acts (c : Byte) (s : State) : Acts s (s.cancelBatch c).1 := by
  unfold State.cancelBatch
  split
  · exact .refl s
  · split
    · exact .quiet rfl rfl
    · split
      · exact (State.afterDequeue_acts _).after ((State.releaseFor_acts _ _).after (.quiet rfl rfl))
      · exact .refl s

theorem State.enqueue_acts (c : CompId) (q : List CompId) (s : State) : Acts s (s.enqueue c q) := by
  have started (x : State) : Acts x (if x.allClosed then x.startDeadman else x) :=
    .when fun _ => .touch x.startDeadman_touch
  unfold State.enqueue
  exact (State.scan_acts _).after <| (started _).after <| (Acts.touch (State.stopIdle_touch _)).after (.quiet rfl rfl)

theorem State.startBatch_acts (c : Byte) (s : State) : Acts s (s.startBatch c).1 := by
  unfold State.startBatch
  split
  · exact .refl s
  · split
    · exact .refl s
    · split
      · exact .refl s
      · split
        · exact .refl s
        · exact s.enqueue_acts _ _

theorem State.resumeBatch_acts (c : Byte) (s : State) : Acts s (s.resumeBatch c).1 := by
  unfold State.resumeBatch
  split
  · exact .refl s
  · split
    · exact .refl s
    · repeat' split
      case isFalse.isFalse.isFalse.isFalse => exact s.enqueue_acts _ _
      all_goals exact .refl s

theorem State.holdBatch_acts (c : CompId) (s : State) : Acts s (s.holdBatch c) := by
  unfold State.holdBatch
  split
  · exact .refl s
  · split
    · exact s.closeDemand_acts _ _ _ _
    · exact .quiet rfl rfl
    · exact .refl s

theorem State.holdAll_acts (cs : List CompId) (s : State) : Acts s (s.holdAll cs) := by
  unfold State.holdAll
  exact (State.afterDequeue_acts _).after <| (Acts.foldl _ (fun x c => x.releaseFor_acts c) _ _).after <|
    .foldl _ (fun x c => x.holdBatch_acts c) _ s

theorem State.holdOne_acts (c : Byte) (s : State) : Acts s (s.holdOne c).1 := by
  unfold State.holdOne
  split
  · exact .refl s
  · split
    · exact s.holdAll_acts _
    · split <;> exact .refl s

theorem State.holdEvery_acts (s : State) : Acts s s.holdEvery.1 := by
  unfold State.holdEvery
  split
  · exact .refl s
  · split
    · exact s.holdAll_acts _
    · exact .refl s

theorem State.clearLatch_acts (s : State) : Acts s s.clearLatch.1 := by
  unfold State.clearLatch
  split
  · exact .refl s
  · split
    · exact (State.restoreIf_acts _ _).after ((State.setOwnStop_acts _ _).after (.quiet rfl rfl))
    · exact .refl s

/-! ## The session's and the monitor's events -/

theorem State.tagSeen_acts (id : Nat) (s : State) : Acts s (s.tagSeen id) := by
  unfold State.tagSeen
  split
  · exact .refl s
  · exact .unless fun _ => s.checkFail_acts _
  · exact .ite (fun _ => .quiet rfl rfl) fun _ => s.enterEnding_acts _
  · exact .refl s

theorem State.setSocket_acts (ground : Bool) (sensors : Vector Sensor 8) (s : State) :
    Acts s (s.setSocket ground sensors) := by
  unfold State.setSocket
  exact (State.restoreIf_acts _ _).after <| (State.withdrawIf_acts _ _ _ _).after <|
    (State.withdrawIf_acts _ _ _ _).after (.quiet rfl rfl)

theorem State.bypassOff_acts (a : ArmId) (s : State) : Acts s (s.bypassOff a) := by
  unfold State.bypassOff
  split
  · exact .refl s
  · exact .when fun _ => s.closeDemand_acts a _ _ _

/-! ## The RESTART line -/

theorem State.assertRestart_acts (s : State) : Acts s s.assertRestart := by
  have stopped (a : ArmId) (x : State) : Acts x (x.stopArm a) := by
    unfold State.stopArm
    dsimp only
    split <;> exact .quiet rfl rfl
  have emptied (b : Bool) (p q : Timer) (x : StationState) : Acts s { s with
      restart := b, station := x, listenTimer := p, periodTimer := q, link := s.link.emptied } :=
    .line (List.nil_sublist _) rfl (fun _ => .emptied _) rfl
  have session (f : Session → Session) (x : State) : Acts x (x.modSession f) := .quiet rfl rfl
  have headers (x : State) : Acts x { x with headers := vec8 fun h => (x.header h).atAssertion } := .quiet rfl rfl
  have monitor (f : Monitor → Monitor) (x : State) : Acts x (x.modMonitor f) := .quiet rfl rfl
  unfold State.assertRestart
  exact (monitor _ _).after <| (Acts.touch (State.cutAllShots_touch _)).after <| (Acts.eachArm _ stopped _).after <|
    (headers _).after <| (session _ _).after <| (State.checkFail_acts _ _).after (emptied _ _ _ _)

theorem State.releaseArm_acts (a : ArmId) (s : State) : Acts s (s.releaseArm a) := by
  have judged (x : State) : Acts x (x.eachInjector fun i y => if (y.injectorCfg i).arm = a then y.judgeWindow i else y) :=
    .eachInjector _ (fun i y => .when fun _ => y.judgeWindow_acts i) x
  have shut (x : State) : Acts x (if (x.arm a).stage.isOpen then
      (((x.releaseSlice a).eachInjector fun i y => if (y.injectorCfg i).arm = a then y.judgeWindow i else y).moveStage a
        .closed).modArm a fun m => { m with close := none, leak := false, heldShare := 0 } else x) :=
    .when fun _ => (Acts.touch (State.shut_touch a _)).after ((judged _).after (x.releaseSlice_acts a))
  unfold State.releaseArm
  exact .trans (shut s) (.quiet rfl rfl)

theorem State.releaseBatches_acts (s : State) : Acts s s.releaseBatches := by
  unfold State.releaseBatches
  exact (Acts.eachArm _ (fun a x => .touch (x.saveOwner_touch a)) _).after (.quiet rfl rfl)

theorem State.beginListen_acts (s : State) : Acts s s.beginListen := by
  unfold State.beginListen
  exact (Acts.state _).after (.quiet rfl rfl)

/-- An attempt said to be under way, or no longer, leaves the queue (log 44). -/
theorem Acts.front {tx : TxState} (s : State) (hs : s.link.tx = .ready ∨ s.link.tx = .sending)
    (ht : tx = .ready ∨ tx = .sending) : Acts s (s.modLink fun l => { l with tx := tx }) := by
  refine .line (.refl _) rfl (fun h => ⟨h.room, h.attempts, ?_, ?_⟩) rfl
  · have := h.empty
    rcases hs with e | e <;> rcases ht with rfl | rfl <;> simpa [e, State.modLink] using this
  · rcases ht with rfl | rfl <;> exact nofun

theorem State.endingAtRelease_acts (s : State) : Acts s s.endingAtRelease := by
  have held (x : State) : Acts x (x.modLink Link.holdFront) := by
    by_cases e : x.link.tx = .ready
    · rw [show x.modLink Link.holdFront = x.modLink fun l => { l with tx := .sending } by
        simp [State.modLink, Link.holdFront, e]]
      exact .front x (.inl e) (.inr rfl)
    · exact .quiet (by simp [State.modLink, Link.holdFront, e]) rfl
  have freed (x : State) : Acts x (x.modLink Link.freeFront) := by
    by_cases e : x.link.tx = .sending
    · rw [show x.modLink Link.freeFront = x.modLink fun l => { l with tx := .ready } by
        simp [State.modLink, Link.freeFront, e]]
      exact .front x (.inr e) (.inl rfl)
    · exact .quiet (by simp [State.modLink, Link.freeFront, e]) rfl
  exact (freed _).after ((State.completeEnding_acts _).after (held s))

theorem State.releaseTimers_touch (s : State) : Moves [.session] s s.releaseTimers := by
  unfold State.releaseTimers
  exact .when fun _ => .modSession s

theorem Link.Sound.released (l : Link) : l.released.Sound :=
  ⟨(Link.Sound.emptied l).room, (Link.Sound.emptied l).attempts, (Link.Sound.emptied l).empty, (Link.Sound.emptied l).slots⟩

theorem State.releaseRestart_acts (s : State) : Acts s s.releaseRestart := by
  have blocks (x : State) : Acts x x.releaseBlocks := .line (List.nil_sublist _) rfl (fun _ => .released _) rfl
  have released (x : State) : Acts x { x with restart := false, socketRequests := x.socketRequests + 1 } := .quiet rfl rfl
  unfold State.releaseRestart
  exact (Acts.touch (State.releaseTimers_touch _)).after <| (State.endingAtRelease_acts _).after <|
    (State.beginListen_acts _).after <| (released _).after <| (blocks _).after <| (State.releaseBatches_acts _).after <|
    (State.handTotals_acts _).after (.eachArm _ State.releaseArm_acts s)

theorem State.stage5_acts (s : State) : Acts s s.stage5 := by
  rw [State.stage5_eq]
  exact (State.beginListen_acts _).after ((State.offerHeld_acts _).after (.quiet rfl rfl))

theorem State.releaseStage5_acts (s : State) : Acts s s.releaseStage5 :=
  (State.stage5_acts _).after ((State.handTotals_acts _).after (.line (List.nil_sublist _) rfl (fun _ => .released _) rfl))

/-! ## The table -/

/-- The commands that write the retention memory: the cold start's preload and the ends of writes (R182, R183). -/
def writesMemory : Instr → Bool
  | .coldStart _ _ _ => true
  | .retentionWriteEnd _ => true
  | .retentionWriteTimeout => true
  | _ => false

theorem Link.startIfReady_nextId (l : Link) : l.startIfReady.nextId = l.nextId := by
  unfold Link.startIfReady; split <;> rfl

/-- A collision keeps the queue or takes its front away (R6). -/
theorem Link.collide_sublist (station : StationId) (l : Link) :
    (l.collide station).1.queue.Sublist l.queue ∧ (l.collide station).1.nextId = l.nextId := by
  unfold Link.collide
  dsimp only
  split
  · exact ⟨.refl _, rfl⟩
  · split
    · split
      · exact ⟨.refl _, rfl⟩
      · exact ⟨List.tail_sublist _, rfl⟩
    · exact ⟨List.tail_sublist _, rfl⟩

/-- Every command that does not write the retention memory is a run of acts. -/
theorem exec_acts (c : Instr) (hc : writesMemory c = false) (s : State) : ∃ t, exec c s = .next t ∧ Acts s t := by
  have quiet (h : wholePart c = false ∧ touches c ⊆ quietTouch) : ∃ t, exec c s = .next t ∧ Acts s t := by
    obtain ⟨t, e, moves⟩ := exec_touches c h.1 s
    exact ⟨t, e, .touch moves h.2⟩
  cases c with
  | coldStart | retentionWriteEnd | retentionWriteTimeout => cases hc
  | restartAsserted =>
    exact ⟨_, rfl, .unless fun _ => .ite (fun _ => .quiet rfl rfl) fun _ => s.assertRestart_acts⟩
  | restartReleased =>
    exact ⟨_, rfl, .unless fun _ => .ite (fun _ => .quiet rfl rfl) fun _ =>
      .ite (fun _ => s.releaseStage5_acts) fun _ => s.releaseRestart_acts⟩
  | lineIdle =>
    refine ⟨_, rfl, .unless fun _ => .ite (fun _ => .receiver _ _ _ s) fun _ =>
      .line ?_ (Link.startIfReady_nextId _) Link.Sound.idleEvent rfl⟩
    · show s.link.idleEvent.queue.Sublist _
      rw [Link.idleEvent, Link.startIfReady_queue]
  | lineBusy n =>
    refine ⟨_, rfl, .unless fun _ => .line ?_ ?_ (fun h => h.busyEvent n) rfl⟩ <;> unfold State.modLink Link.busyEvent <;>
      dsimp only <;> split <;> rfl
  | collision =>
    refine ⟨_, rfl, .when fun ht => ?_⟩
    have struck : Acts s { s with link := (s.link.collide s.cfg.station).1 } :=
      .line (s.link.collide_sublist _).1 (s.link.collide_sublist _).2 (fun h => h.collide _ ht) rfl
    dsimp only
    split
    · exact (State.discarded_acts _ _).after struck
    · exact struck
  | backoffEnd => exact ⟨_, rfl, .when fun ht => .line (.refl _) rfl (fun h => h.beginAttempt (by simp [ht.1])) rfl⟩
  | readBackCompletion =>
    refine ⟨_, rfl, .when fun _ => ?_⟩
    split
    · refine (State.frameSent_acts _ _).after (.line (List.tail_sublist _) rfl (fun h => ?_) rfl)
      exact ⟨h.popFront.room, h.popFront.attempts, h.popFront.empty, h.popFront.slots⟩
    · exact .refl s
  | brokenCharacter => exact ⟨_, rfl, .when fun _ => .receiver _ _ _ s⟩
  | startByteMismatch => exact ⟨_, rfl, .when fun _ => .receiver _ _ _ s⟩
  | stateReceived frame =>
    refine ⟨_, rfl, s.receive_acts frame _ fun p f x => ?_⟩
    split
    · exact (State.deliverState_acts _ _ _ _ _ _ _).after (.quiet rfl rfl)
    · exact .refl x
  | claimReceived frame =>
    refine ⟨_, rfl, s.receive_acts frame _ fun p f x => ?_⟩
    split <;> exact .quiet rfl rfl
  | yieldReceived frame =>
    refine ⟨_, rfl, s.receive_acts frame _ fun p f x => ?_⟩
    split
    · exact (Acts.touch (State.deliverYield_touch _ _ _)).after (.quiet rfl rfl)
    · exact .refl x
  | permitClaimReceived frame =>
    refine ⟨_, rfl, s.receive_acts frame _ fun p f x => ?_⟩
    split
    · exact (State.deliverPermitClaim_acts _ _ _).after (.quiet rfl rfl)
    · exact .refl x
  | revokeReceived frame =>
    refine ⟨_, rfl, s.receive_acts frame _ fun p f x => ?_⟩
    split
    · exact (State.deliverRevoke_acts _ _ _).after (.quiet rfl rfl)
    · exact .refl x
  | timeReceived frame =>
    refine ⟨_, rfl, s.receive_acts frame _ fun p f x => ?_⟩
    split
    · exact (State.deliverTime_acts _ _ _).after (.quiet rfl rfl)
    · exact .refl x
  | stopReceived frame =>
    refine ⟨_, rfl, s.receive_acts frame _ fun p f x => ?_⟩
    split
    · exact (State.deliverStop_acts _ _).after (.quiet rfl rfl)
    · exact .refl x
  | noteReceived frame =>
    refine ⟨_, rfl, s.receive_acts frame _ fun p f x => ?_⟩
    split <;> exact .quiet rfl rfl
  | noteRequestReceived frame =>
    refine ⟨_, rfl, s.receive_acts frame _ fun p f x => ?_⟩
    split
    · exact (State.deliverNoteRequest_acts _ _).after (.quiet rfl rfl)
    · exact .refl x
  | noteTakenReceived frame =>
    refine ⟨_, rfl, s.receive_acts frame _ fun p f x => ?_⟩
    split
    · exact (State.deliverNoteTaken_acts _ _ _).after (.quiet rfl rfl)
    · exact .refl x
  | clockSecond =>
    exact ⟨_, rfl, .when fun _ => .ite (fun _ => (State.dayChange_acts _).after (.quiet rfl rfl)) fun _ => .quiet rfl rfl⟩
  | peerGone p =>
    have left (old : Vector Nat 8) (x : State) (h : HeaderId) : Acts x (x.peerLeft old h) := by
      unfold State.peerLeft
      exact .when fun _ => x.retryTrigger_acts h
    exact ⟨_, rfl, .when fun _ => (Acts.foldl _ (left _) _ _).after (.quiet rfl rfl)⟩
  | listenPeriodEnd => exact ⟨_, rfl, .unless fun _ => (State.scan_acts _).after (.quiet rfl rfl)⟩
  | statePeriodExpiry => exact ⟨_, rfl, .unless fun _ => (Acts.state _).after (.quiet rfl rfl)⟩
  | present card => exact ⟨_, rfl, s.request_acts _ _ (State.presentCard_acts card)⟩
  | finish => exact ⟨_, rfl, s.request_acts _ _ State.finishSession_acts⟩
  | cancel c => exact ⟨_, rfl, s.request_acts _ _ (State.cancelBatch_acts c)⟩
  | start c => exact ⟨_, rfl, s.request_acts _ _ (State.startBatch_acts c)⟩
  | resume c => exact ⟨_, rfl, s.request_acts _ _ (State.resumeBatch_acts c)⟩
  | hold c =>
    refine ⟨_, rfl, s.request_acts _ _ fun x => ?_⟩
    split
    · exact x.holdEvery_acts
    · exact x.holdOne_acts c
  | clearStop => exact ⟨_, rfl, s.request_acts _ _ State.clearLatch_acts⟩
  | permitClaimWindowEnd =>
    refine ⟨_, rfl, .when fun _ => ?_⟩
    exact (State.scan_acts _).after <| (Acts.state _).after <| (Acts.touch (State.startIdle_touch _)).after (.quiet rfl rfl)
  | idleTimerExpiry => exact ⟨_, rfl, .unless fun _ => s.enterEnding_acts _⟩
  | socketTimerExpiry => exact ⟨_, rfl, .unless fun _ => s.enterEnding_acts _⟩
  | tagReport tag =>
    refine ⟨_, rfl, ?_⟩
    split
    · exact .refl s
    · exact (State.tagSeen_acts _ _).after (.quiet rfl rfl)
  | unplugReport check =>
    refine ⟨_, rfl, .unless fun _ => ?_⟩
    have unplugged : Acts s ({ s with socketView := none } : State).unplugged :=
      (Acts.touch (State.unplugged_touch _)).after (.quiet rfl rfl)
    exact .ite (fun _ => unplugged) fun _ => (State.setSocket_acts _ _ _).after unplugged
  | socketStateReport body check =>
    exact ⟨_, rfl, .unless fun _ => .ite (fun _ => s.setSocket_acts _ _) fun _ => s.setSocket_acts _ _⟩
  | settleWindowEnd h =>
    refine ⟨_, rfl, ?_⟩
    split
    · split
      · exact s.evaluate_acts h _
      · exact .refl s
    · exact .refl s
  | retryTimerExpiry h => exact ⟨_, rfl, .unless fun _ => s.retryTrigger_acts h⟩
  | holdOffExpiry a =>
    exact ⟨_, rfl, .unless fun _ => .ite (fun _ => (State.requestStepUp_acts a _).after (.quiet rfl rfl)) fun _ =>
      .quiet rfl rfl⟩
  | overdrawTimerExpiry a => exact ⟨_, rfl, .unless fun _ => (State.closeDemand_acts a _ _ _ _).after (.quiet rfl rfl)⟩
  | aPulse a =>
    exact ⟨_, rfl, .when fun _ => .ite (fun _ => (State.fullSlice_acts a _).after (.quiet rfl rfl)) fun _ =>
      .quiet rfl rfl⟩
  | noFlowExpiry a => exact ⟨_, rfl, .unless fun _ => (State.closeDemand_acts a _ _ _ _).after (.quiet rfl rfl)⟩
  | settleTimerExpiry a =>
    refine ⟨_, rfl, .unless fun _ => ?_⟩
    split
    · exact s.completeClose_acts a _
    · exact .refl s
  | noteIssue =>
    refine ⟨_, rfl, .when fun h => (State.closeSession_acts _).after (s.issueNote_acts ?_)⟩
    exact ((Bool.and_eq_true _ _).mp h).2
  | closeLimitExpiry a =>
    exact ⟨_, rfl, .unless fun _ => (Acts.touch (State.flagOwner_touch a _ _)).after <|
      (State.recheckReservation_acts a _).after (.quiet rfl rfl)⟩
  | coupledInputChange a coupled =>
    refine ⟨_, rfl, .unless fun _ => .ite (fun _ => .quiet rfl rfl) fun _ => .ite (fun _ => ?_) fun _ => ?_⟩
    · exact (State.scan_acts _).after (.quiet rfl rfl)
    · exact (State.recheckReservation_acts a _).after ((State.closeDemand_acts a _ _ _ _).after (.quiet rfl rfl))
  | localStopActive =>
    refine ⟨_, rfl, .unless fun _ => .ite (fun _ => .quiet rfl rfl) fun _ => ?_⟩
    have withdrawn : Acts s ((s.modMonitor fun m => { m with stopInput := true, stopLatch := true }).withdrawIf .localStop
        s.monitor.stopInForce true) := (State.withdrawIf_acts _ _ _ _).after (.quiet rfl rfl)
    exact .ite (fun _ => withdrawn) fun _ => (State.setOwnStop_acts _ _).after ((State.handStop_acts _).after withdrawn)
  | contactClosure k =>
    refine ⟨_, rfl, .unless fun _ => .ite (fun _ => .quiet rfl rfl) fun _ =>
      .ite (fun _ => .ite (fun _ => .quiet rfl rfl) fun _ => .quiet rfl rfl) fun _ => .ite (fun _ => ?_) fun _ =>
        .quiet rfl rfl⟩
    exact (State.countClosure_acts k _).after (.quiet rfl rfl)
  | contactOpening k =>
    refine ⟨_, rfl, .unless fun _ => .ite (fun _ => ?_) fun _ => .quiet rfl rfl⟩
    exact (State.restoreIf_acts _ _).after (.quiet rfl rfl)
  | deadmanExpiry => exact ⟨_, rfl, .when fun _ => s.tripDeadman_acts _⟩
  | jamTimerExpiry => exact ⟨_, rfl, .unless fun _ => s.tripDeadman_acts _⟩
  | bypassKeyChange on =>
    refine ⟨_, rfl, .unless fun _ => .ite (fun _ => .quiet rfl rfl) fun _ => .ite (fun _ => ?_) fun _ => ?_⟩
    · exact (State.scan_acts _).after (.quiet rfl rfl)
    · exact (State.scan_acts _).after <| (Acts.eachArm _ State.recheckReservation_acts _).after <|
        (Acts.eachArm _ State.bypassOff_acts _).after (.quiet rfl rfl)
  | _ => exact quiet ⟨rfl, by simp only [touches]; decide⟩

/-- The end of a write, whether its read-back agrees or not, then a run of acts. -/
theorem writeEnd_acts (agrees : Bool) (s : State) : s.retention.queue.isEmpty = true ∧
      execRetentionWriteEnd agrees s = .next s ∨
    ∃ t, execRetentionWriteEnd agrees s = .next t ∧ Acts (s.endWrite agrees) t := by
  unfold execRetentionWriteEnd
  cases hq : s.retention.queue.isEmpty with
  | true => exact .inl ⟨rfl, rfl⟩
  | false => exact .inr ⟨_, rfl, State.offerPlace_acts _⟩

end Sys2Proof.Machine
end

section
/-! The bounds that every step keeps (O58): of the two queues, of the frame numbers, of what waits behind the front, and of the
memory's form. -/

namespace Sys2Proof.Machine

variable {s t u : State} {l : Link} {f : TxFrame}

/-! ## A STATE's hand-over -/

/-- The link controller as it has taken a STATE of this moment's figures, or refused it in CLASH (R8, R9, R16). -/
def State.stateTaken (s : State) : Link :=
  if s.station = .clash then s.link
  else if s.link.lastStateStop && !s.ownStop then s.link.pushStateHead (s.frameNow .state s.statePayload)
  else s.link.pushStateTail (s.frameNow .state s.statePayload)

theorem State.composeState_shut (h : s.linkOpen = false) : s.composeState = s := by
  unfold State.composeState
  rw [h]; rfl

theorem State.composeState_open (h : s.linkOpen = true) : s.composeState = { s with
    link := { s.stateTaken.numbered with lastStateStop := s.ownStop }
    periodTimer := some (s.now + 1000) } := by
  unfold State.composeState
  rw [h]; rfl

/-! ## Frame numbers -/

/-- The frame `f` at most has entered the queue. -/
structure Link.Gains (f : TxFrame) (l m : Link) : Prop where
  nextId : m.nextId = l.nextId
  frames : ∀ g ∈ m.queue, g ∈ l.queue ∨ g = f

theorem Link.Gains.refl (f : TxFrame) (l : Link) : Link.Gains f l l := ⟨rfl, fun _ h => .inl h⟩

theorem Link.wake_nextId (l : Link) : l.wake.nextId = l.nextId := by
  unfold Link.wake
  rw [Link.startIfReady_nextId]
  split <;> rfl

theorem Link.Gains.wake {q : List TxFrame} (h : ∀ g ∈ q, g ∈ l.queue ∨ g = f) :
    Link.Gains f l ({ l with queue := q } : Link).wake := by
  refine ⟨Link.wake_nextId _, fun g hg => ?_⟩
  rw [Link.wake_queue] at hg
  exact h g hg

theorem mem_insertAt {n : Nat} {q : List TxFrame} {g : TxFrame} (h : g ∈ insertAt n f q) : g ∈ q ∨ g = f := by
  rcases List.mem_append.mp h with h | h
  · exact .inl (List.mem_of_mem_take h)
  · rcases List.mem_cons.mp h with h | h
    · exact .inr h
    · exact .inl (List.mem_of_mem_drop h)

theorem mem_replaceFirst {p : TxFrame → Bool} {q : List TxFrame} {g : TxFrame} (h : g ∈ replaceFirst p f q) :
    g ∈ q ∨ g = f := by
  induction q with
  | nil => cases h
  | cons x rest ih =>
    rw [replaceFirst] at h
    split at h
    · exact (List.mem_cons.mp h).elim .inr fun h => .inl (.tail _ h)
    · rcases List.mem_cons.mp h with rfl | h
      · exact .inl (.head _)
      · exact (ih h).imp_left (.tail _)

theorem Link.pushTail_gains : Link.Gains f l (l.pushTail f).1 := by
  unfold Link.pushTail
  split
  · exact .wake fun g hg => by simpa using hg
  · exact .refl f l

theorem Link.pushStateHead_gains : Link.Gains f l (l.pushStateHead f) := by
  unfold Link.pushStateHead
  dsimp only
  split
  · refine .wake fun g hg => (mem_insertAt hg).imp_left fun h => ?_
    rcases List.mem_append.mp h with h | h
    · exact List.mem_of_mem_take h
    · exact List.mem_of_mem_drop (List.mem_of_mem_filter h)
  · exact .refl f l

theorem Link.pushStateTail_gains : Link.Gains f l (l.pushStateTail f) := by
  unfold Link.pushStateTail
  split
  · exact Link.pushTail_gains
  · rename_i front rest hq
    split
    · refine ⟨rfl, fun g hg => ?_⟩
      rw [hq]
      rcases List.mem_cons.mp hg with rfl | h
      · exact .inl (.head _)
      · exact (mem_replaceFirst h).imp_left (.tail _)
    · split
      · refine ⟨rfl, fun g hg => ?_⟩
        rw [hq]
        exact (List.mem_cons.mp hg).elim .inr fun h => .inl (.tail _ h)
      · exact Link.pushTail_gains

theorem Link.pushStop_gains : Link.Gains f l (l.pushStop f).1 := by
  have entered (q : List TxFrame) (h : q ⊆ l.queue) : Link.Gains f l (l.enterStop f q) := by
    refine .wake fun g hg => (mem_insertAt hg).imp_left fun hk => h ?_
    split at hk
    · exact hk
    · exact (oneStateWaits_sublist q).subset hk
  unfold Link.pushStop
  split
  · exact .refl f l
  · split
    · exact entered _ (List.Subset.refl _)
    · split
      · exact .refl f l
      · exact entered _ fun g hg => List.mem_of_mem_filter hg

/-- The frame handed over takes the next number. -/
theorem Link.Numbered.gains {m : Link} (h : l.Numbered) (hm : Link.Gains f l m) (hf : f.id = l.nextId) :
    m.numbered.Numbered := by
  intro g hg
  show g.id < m.nextId + 1
  rw [hm.nextId]
  rcases hm.frames g hg with h' | rfl
  · exact Nat.lt_succ_of_lt (h g h')
  · exact hf ▸ Nat.lt_succ_self _

/-! ## What every act keeps -/

/-- What O58 says of a step from `s` to `t`. -/
structure KeepsBounds (s t : State) : Prop where
  sound : s.link.Sound → t.link.Sound
  numbered : s.link.Numbered → t.link.Numbered
  orderly : s.link.Orderly → t.link.Orderly
  retention : s.retention.Sound → t.retention.Sound
  memory : MemoryLaw s → MemoryLaw t

theorem KeepsBounds.refl (s : State) : KeepsBounds s s := ⟨id, id, id, id, id⟩

theorem KeepsBounds.trans (h : KeepsBounds s t) (k : KeepsBounds t u) : KeepsBounds s u :=
  ⟨k.sound ∘ h.sound, k.numbered ∘ h.numbered, k.orderly ∘ h.orderly, k.retention ∘ h.retention, k.memory ∘ h.memory⟩

/-- The same link controller and retention block. -/
theorem KeepsBounds.same (hl : t.link = s.link) (hr : t.retention = s.retention) : KeepsBounds s t := by
  refine ⟨?_, ?_, ?_, ?_, ?_⟩
  · rw [hl]; exact id
  · rw [hl]; exact id
  · rw [hl]; exact id
  · rw [hr]; exact id
  · unfold MemoryLaw
    rw [hr]; exact id

theorem State.composeState_keepsBounds (s : State) : KeepsBounds s s.composeState := by
  cases h : s.linkOpen with
  | false => rw [State.composeState_shut h]; exact .refl s
  | true =>
    rw [State.composeState_open h]
    have id : (s.frameNow .state s.statePayload).id = s.link.nextId := rfl
    have taken : (s.link.Sound → s.stateTaken.numbered.Sound) ∧ (s.link.Numbered → s.stateTaken.numbered.Numbered) ∧
        (s.link.Orderly → s.stateTaken.numbered.Orderly) := by
      unfold State.stateTaken
      split
      · exact ⟨Link.Sound.numbered, fun h => h.gains (.refl (s.frameNow .state s.statePayload) _) id, fun h => h.same rfl⟩
      · split
        · exact ⟨fun h => (h.pushStateHead _).numbered, fun h => h.gains Link.pushStateHead_gains id,
            fun h => (h.pushStateHead rfl).same rfl⟩
        · exact ⟨fun h => (h.pushStateTail _).numbered, fun h => h.gains Link.pushStateTail_gains id,
            fun h => (h.pushStateTail rfl).same rfl⟩
    obtain ⟨sound, numbered, orderly⟩ := taken
    refine ⟨fun h => ?_, fun h => numbered h, fun h => (orderly h).same rfl, fun h => h, fun h => h⟩
    exact ⟨(sound h).room, (sound h).attempts, (sound h).empty, (sound h).slots⟩

theorem State.handTail_keepsBounds (tag : FrameTag) (payload : List Byte) (ht : tag ≠ .stop ∧ tag ≠ .state) (s : State) :
    KeepsBounds s (s.handTail tag payload).1 := by
  have id : (s.frameNow tag payload).id = s.link.nextId := rfl
  have refused : KeepsBounds s (s.modLink Link.numbered) :=
    ⟨Link.Sound.numbered, fun h => h.gains (.refl (s.frameNow tag payload) _) id, fun h => h.same rfl, fun h => h, fun h => h⟩
  unfold State.handTail
  split
  · exact refused
  · split
    · exact refused
    · refine ⟨fun h => (h.pushTail _).numbered, fun h => h.gains Link.pushTail_gains id, fun h => ?_, fun h => h, fun h => h⟩
      refine (h.pushTail (f := s.frameNow tag payload) ?_ ?_).same rfl
      · simpa [TxFrame.isStop, State.frameNow] using ht.1
      · simpa [TxFrame.isState, State.frameNow] using ht.2

theorem State.queueWrite_keepsBounds (w : Write) (s : State) (h : s.retention.hasRoom = true) :
    KeepsBounds s (s.queueWrite w) := by
  have same : (s.queueWrite w).link = s.link := by unfold State.queueWrite; split <;> rfl
  have kept : (s.retention.Sound → (s.queueWrite w).retention.Sound) ∧ (s.queueWrite w).retention.mem = s.retention.mem := by
    refine (s.queueWrite_touch w h).keeps
      (P := fun t => (s.retention.Sound → t.retention.Sound) ∧ t.retention.mem = s.retention.mem)
      (fun l hl x y p hx => ?_) ⟨id, rfl⟩
    cases p with
    | writes r x hm hs => exact ⟨hs ∘ hx.1, hm.trans hx.2⟩
    | _ => simp at hl
  refine ⟨by rw [same]; exact id, by rw [same]; exact id, by rw [same]; exact id, kept.1, fun hw => ?_⟩
  unfold MemoryLaw
  rw [kept.2]
  exact hw

/-- A run of acts keeps the bounds. -/
theorem Acts.keepsBounds (h : Acts s t) : KeepsBounds s t := by
  induction h with
  | refl s => exact .refl s
  | trans _ _ h k => exact h.trans k
  | quiet hl hr => exact .same hl hr
  | state s => exact s.composeState_keepsBounds
  | tail tag payload s ht => exact s.handTail_keepsBounds tag payload ht
  | stop s =>
    exact ⟨fun h => (h.pushStop _).numbered, fun h => h.gains Link.pushStop_gains rfl, fun h => (h.pushStop rfl).same rfl,
      fun h => h, fun h => h⟩
  | line hq hn hs hr =>
    refine ⟨hs, fun h g hg => ?_, fun h => h.sublist hq, fun h => hr ▸ h, fun h => ?_⟩
    · rw [hn]; exact h g (hq.subset hg)
    · unfold MemoryLaw; rw [hr]; exact h
  | write w s hw => exact s.queueWrite_keepsBounds w hw
  | hold block s => exact ⟨fun h => h, fun h => h, fun h => h, fun h => ⟨h.room, h.timer⟩, fun h => h⟩

/-! ## Write ends and the cold start -/

theorem State.endWrite_keepsBounds (agrees : Bool) (s : State) : KeepsBounds s (s.endWrite agrees) := by
  have same : (s.endWrite agrees).link = s.link := by unfold State.endWrite; split <;> rfl
  have kept : (s.retention.Sound → (s.endWrite agrees).retention.Sound) ∧ (MemoryLaw s → MemoryLaw (s.endWrite agrees)) := by
    refine (s.endWrite_touch agrees).keeps
      (P := fun t => (s.retention.Sound → t.retention.Sound) ∧ (MemoryLaw s → MemoryLaw t)) (fun l hl x y p hx => ?_) ⟨id, id⟩
    cases p with
    | memory r x hm hs => exact ⟨hs ∘ hx.1, hm ∘ hx.2⟩
    | _ => simp at hl
  exact ⟨by rw [same]; exact id, by rw [same]; exact id, by rw [same]; exact id, kept.1, kept.2⟩

theorem writeEnd_keepsBounds (agrees : Bool) (s t : State) (h : execRetentionWriteEnd agrees s = .next t) :
    KeepsBounds s t := by
  rcases writeEnd_acts agrees s with ⟨-, e⟩ | ⟨u, e, acts⟩
  · rw [e] at h; cases h; exact .refl s
  · rw [e] at h; cases h; exact (s.endWrite_keepsBounds agrees).trans acts.keepsBounds

/-- A cold link controller and an empty write queue over a memory in its form are within the bounds. -/
theorem KeepsBounds.cold (hl : t.link = Link.cold) (hq : t.retention.queue = [] ∧ t.retention.writeTimer = none)
    (hm : MemoryLaw s → MemoryLaw t) : KeepsBounds s t := by
  refine ⟨fun _ => ?_, fun _ => ?_, fun _ => ?_, fun _ => ⟨?_, ?_⟩, hm⟩
  · rw [hl]; exact ⟨by simp [Link.cold], by simp [Link.cold], by simp [Link.cold], by simp [Link.cold]⟩
  · rw [hl]; exact nofun
  · rw [hl]; exact ⟨by simp [Link.cold], by simp [Link.cold]⟩
  · rw [hq.1]; simp
  · rw [hq.1, hq.2]; simp

theorem State.coldStart_keepsBounds (preload : List Byte) (reads : ColdReads) (inputs : FieldInputs) (s : State) :
    KeepsBounds s (s.coldStart preload reads inputs) := by
  have form : MemoryLaw s → Memory.wf (s.preloaded preload) = true := fun h => writeBytes_wf _ _ _ h
  cases h : stage1Fault reads.config (s.preloaded preload) with
  | some kind =>
    rw [State.coldStart_refused s preload reads inputs h]
    exact .cold rfl ⟨rfl, rfl⟩ form
  | none =>
    have begun : KeepsBounds s (s.begun preload reads inputs) := .cold rfl ⟨rfl, rfl⟩ form
    rw [State.coldStart_accepted s preload reads inputs h]
    split
    · exact begun
    · exact begun.trans (State.stage5_acts _).keepsBounds

/-! ## Every step -/

theorem exec_keepsBounds (c : Instr) (s t : State) (h : exec c s = .next t) : KeepsBounds s t := by
  by_cases hc : writesMemory c = false
  · obtain ⟨u, e, acts⟩ := exec_acts c hc s
    rw [e] at h; cases h
    exact acts.keepsBounds
  · cases c with
    | coldStart preload reads inputs => cases h; exact s.coldStart_keepsBounds preload reads inputs
    | retentionWriteEnd agrees => exact writeEnd_keepsBounds agrees s t h
    | retentionWriteTimeout => exact writeEnd_keepsBounds false s t h
    | _ => exact absurd rfl hc

theorem step_keepsBounds (s t : State) (h : step s = .next t) : KeepsBounds s t := by
  unfold step at h
  split at h
  · refine KeepsBounds.trans ?_ (exec_keepsBounds _ _ _ h)
    exact .same rfl rfl
  · split at h
    · exact exec_keepsBounds _ _ _ h
    · cases h; exact .same rfl rfl

/-- Settles O58: a step is a command, an expiry's command or a tick, and each is a run of acts that keep the bounds. -/
theorem boundsKept : Obligations.BoundsKept := fun s t h =>
  have kept := step_keepsBounds s t h
  ⟨kept.sound, kept.numbered, kept.orderly, kept.retention, kept.memory⟩

end Sys2Proof.Machine
end

section
/-! What only a few kinds of change reach: the clock, the revocation list, the totalizers, the learned close-ahead values and the
socket view, each left by every kind but its own (`Framed`), and by every command but its own (O60). -/

namespace Sys2Proof.Machine

variable {s t u : State} {L L' : List Touch}

/-! ## What a run of changes leaves -/

/-- What a run of changes of the kinds in `L` leaves of the figures that have kinds of their own. -/
structure Framed (L : List Touch) (s t : State) : Prop where
  now : t.now = s.now
  pending : t.pending = s.pending
  cfg : t.cfg = s.cfg
  faultKind : t.faultKind = s.faultKind
  cfgClamped : t.cfgClamped = s.cfgClamped
  clock : .clock ∉ L → .newDay ∉ L → t.clock = s.clock
  revoked : .newDay ∉ L → .revoke ∉ L → t.revoked = s.revoked
  totals : .totals ∉ L → ∀ a, (t.arm a).grossTotal = (s.arm a).grossTotal ∧ (t.arm a).stdTotal = (s.arm a).stdTotal
  learned : .learned ∉ L → ∀ a, (t.arm a).closeAhead = (s.arm a).closeAhead
  socket : .socket ∉ L → t.socketView = s.socketView

theorem Framed.refl (L : List Touch) (s : State) : Framed L s s :=
  ⟨rfl, rfl, rfl, rfl, rfl, fun _ _ => rfl, fun _ _ => rfl, fun _ _ => ⟨rfl, rfl⟩, fun _ _ => rfl, fun _ => rfl⟩

theorem Framed.trans (h : Framed L s t) (k : Framed L t u) : Framed L s u where
  now := k.now.trans h.now
  pending := k.pending.trans h.pending
  cfg := k.cfg.trans h.cfg
  faultKind := k.faultKind.trans h.faultKind
  cfgClamped := k.cfgClamped.trans h.cfgClamped
  clock h1 h2 := (k.clock h1 h2).trans (h.clock h1 h2)
  revoked h1 h2 := (k.revoked h1 h2).trans (h.revoked h1 h2)
  totals h1 a := ⟨(k.totals h1 a).1.trans (h.totals h1 a).1, (k.totals h1 a).2.trans (h.totals h1 a).2⟩
  learned h1 a := (k.learned h1 a).trans (h.learned h1 a)
  socket h1 := (k.socket h1).trans (h.socket h1)

/-- The last part of a run first. -/
theorem Framed.after (k : Framed L t u) (h : Framed L s t) : Framed L s u := h.trans k

theorem Framed.mono (h : Framed L s t) (hl : L ⊆ L' := by decide) : Framed L' s t where
  now := h.now
  pending := h.pending
  cfg := h.cfg
  faultKind := h.faultKind
  cfgClamped := h.cfgClamped
  clock h1 h2 := h.clock (mt (@hl _) h1) (mt (@hl _) h2)
  revoked h1 h2 := h.revoked (mt (@hl _) h1) (mt (@hl _) h2)
  totals h1 := h.totals (mt (@hl _) h1)
  learned h1 := h.learned (mt (@hl _) h1)
  socket h1 := h.socket (mt (@hl _) h1)

/-- A run that reaches none of these figures may stand for one of any kinds. -/
theorem Framed.still (h : Framed L s t)
    (hl : ∀ l ∈ L, l ∉ [Touch.clock, .newDay, .revoke, .totals, .learned, .socket] := by decide) : Framed L' s t := by
  have out {x : Touch} (hx : x ∈ [Touch.clock, .newDay, .revoke, .totals, .learned, .socket]) : x ∉ L := fun h => hl x h hx
  exact ⟨h.now, h.pending, h.cfg, h.faultKind, h.cfgClamped, fun _ _ => h.clock (out (by simp)) (out (by simp)),
    fun _ _ => h.revoked (out (by simp)) (out (by simp)), fun _ => h.totals (out (by simp)), fun _ => h.learned (out (by simp)),
    fun _ => h.socket (out (by simp))⟩

/-- A change of an arm that leaves its totalizers and its close-ahead value. -/
theorem Framed.modArm (a : ArmId) (f : Arm → Arm) (s : State)
    (hf : ∀ m, ((f m).grossTotal, (f m).stdTotal, (f m).closeAhead) = (m.grossTotal, m.stdTotal, m.closeAhead)) :
    Framed L s (s.modArm a f) := by
  have view (b : ArmId) := State.arm_view (fun m => (m.grossTotal, m.stdTotal, m.closeAhead)) a f hf s b
  simp only [Prod.mk.injEq] at view
  exact ⟨rfl, rfl, rfl, rfl, rfl, fun _ _ => rfl, fun _ _ => rfl, fun _ b => ⟨(view b).1, (view b).2.1⟩,
    fun _ b => (view b).2.2, fun _ => rfl⟩

theorem Framed.moveStage (a : ArmId) (st : Stage) (s : State) : Framed L s (s.moveStage a st) := by
  refine ⟨rfl, rfl, rfl, rfl, rfl, fun _ _ => rfl, fun _ _ => rfl, fun _ b => ?_, fun _ b => ?_, fun _ => rfl⟩ <;>
    rw [State.moveStage_arm] <;> split
  · subst b; exact ⟨rfl, rfl⟩
  · exact ⟨rfl, rfl⟩
  · subst b; rfl
  · rfl

theorem Framed.shares (h : SharesMove s t) : Framed L s t :=
  ⟨h.now, h.pending, h.cfg, h.faultKind, h.cfgClamped, fun _ _ => h.clock, fun _ _ => h.revoked,
    fun _ a => ⟨h.armField Arm.grossTotal (fun _ => rfl) a, h.armField Arm.stdTotal (fun _ => rfl) a⟩,
    fun _ a => h.armField Arm.closeAhead (fun _ => rfl) a, fun _ => h.socketView⟩

/-- One change of a kind that holds no others. -/
theorem Prim.framed_simple (l : Touch) (hl : l ∉ composite) (p : Prim l s t) : Framed [l] s t := by
  cases p with
  | shares h => exact .shares h
  | arm a f s hf =>
    refine .modArm a f s fun m => ?_
    have h := hf m
    simp only [Arm.core, Prod.mk.injEq] at h
    obtain ⟨-, -, gross, std, ahead, -⟩ := h
    rw [gross, std, ahead]
  | totals a f s hf =>
    refine ⟨rfl, rfl, rfl, rfl, rfl, fun _ _ => rfl, fun _ _ => rfl, fun h => absurd (.head _) h, fun _ b => ?_, fun _ => rfl⟩
    exact State.arm_view Arm.closeAhead a f (fun m => (hf m).2.2.1) s b
  | learned a g s =>
    refine ⟨rfl, rfl, rfl, rfl, rfl, fun _ _ => rfl, fun _ _ => rfl, fun _ b => ?_, fun h => absurd (.head _) h, fun _ => rfl⟩
    exact Prod.mk.inj (State.arm_view (fun m => (m.grossTotal, m.stdTotal)) a
      (fun m => { m with closeAhead := g m.closeAhead }) (fun _ => rfl) s b)
  | coupled a b s => exact .modArm a _ s fun _ => rfl
  | stage a st s _ => exact .moveStage a st s
  | shut a s => exact (Framed.moveStage a .closed s).trans (.modArm a _ _ fun _ => rfl)
  | opening a st s _ => exact .moveStage a st s
  | clock c s _ =>
    exact ⟨rfl, rfl, rfl, rfl, rfl, fun h _ => absurd (.head _) h, fun _ _ => rfl, fun _ _ => ⟨rfl, rfl⟩, fun _ _ => rfl,
      fun _ => rfl⟩
  | socket v s =>
    exact ⟨rfl, rfl, rfl, rfl, rfl, fun _ _ => rfl, fun _ _ => rfl, fun _ _ => ⟨rfl, rfl⟩, fun _ _ => rfl,
      fun h => absurd (.head _) h⟩
  | alarm | stops | newDay | revoke => simp [composite] at hl
  | _ =>
    exact ⟨rfl, rfl, rfl, rfl, rfl, fun _ _ => rfl, fun _ _ => rfl, fun _ _ => ⟨rfl, rfl⟩, fun _ _ => rfl, fun _ => rfl⟩

/-- A run of changes, given what each of its kinds leaves. -/
theorem Moves.framed_of (h : Moves L s t) (hp : ∀ l ∈ L, ∀ s t, Prim l s t → Framed [l] s t) : Framed L s t := by
  induction h with
  | refl => exact .refl L _
  | step l _ hl p ih => exact ih.trans ((hp l hl _ _ p).mono (by simpa using hl))

/-- A change elsewhere, then a run of simple changes that reach none of these figures. -/
theorem Framed.run (h : Moves L t u) (hs : Framed L' s t) (hc : ∀ l ∈ L, l ∉ composite := by decide)
    (hl : ∀ l ∈ L, l ∉ [Touch.clock, .newDay, .revoke, .totals, .learned, .socket] := by decide) : Framed L' s u :=
  hs.trans ((h.framed_of fun l hl _ _ => Prim.framed_simple l (hc l hl)).still hl)

/-- One change of any kind. -/
theorem Prim.framed (l : Touch) (p : Prim l s t) : Framed [l] s t := by
  by_cases hl : l ∈ composite
  · cases p with
    | alarm m r s _ _ =>
      refine .run (State.withdraw_touch r _) ?_
      exact ⟨rfl, rfl, rfl, rfl, rfl, fun _ _ => rfl, fun _ _ => rfl, fun _ _ => ⟨rfl, rfl⟩, fun _ _ => rfl, fun _ => rfl⟩
    | stops v b l p s _ _ =>
      obtain ⟨m, moves⟩ := State.followStopSet_touch
        ({ s with peers := v, ownStop := b, link := l, periodTimer := p } : State)
      refine .run moves ?_
      exact ⟨rfl, rfl, rfl, rfl, rfl, fun _ _ => rfl, fun _ _ => rfl, fun _ _ => ⟨rfl, rfl⟩, fun _ _ => rfl, fun _ => rfl⟩
    | newDay c s _ =>
      obtain ⟨r, moves⟩ := State.dayChange_touch ({ s with clock := c } : State)
      refine .run moves ?_
      exact ⟨rfl, rfl, rfl, rfl, rfl, fun _ h => absurd (.head _) h, fun h _ => absurd (.head _) h, fun _ _ => ⟨rfl, rfl⟩,
        fun _ _ => rfl, fun _ => rfl⟩
    | revoke a b s =>
      obtain ⟨r, moves⟩ := State.deliverRevoke_touch a b s
      refine .run moves ?_
      exact ⟨rfl, rfl, rfl, rfl, rfl, fun _ _ => rfl, fun _ h => absurd (.head _) h, fun _ _ => ⟨rfl, rfl⟩, fun _ _ => rfl,
        fun _ => rfl⟩
    | _ => simp [composite] at hl
  · exact Prim.framed_simple l hl p

theorem Moves.framed (h : Moves L s t) : Framed L s t := h.framed_of fun l _ _ _ => Prim.framed l

/-! ## The RESTART line -/

/-- A change of figures that have no kind of their own here. -/
theorem Framed.other (hn : (t.now, t.pending) = (s.now, s.pending))
    (hc : (t.cfg, t.faultKind, t.cfgClamped) = (s.cfg, s.faultKind, s.cfgClamped))
    (hk : (t.clock, t.revoked, t.socketView) = (s.clock, s.revoked, s.socketView)) (ha : t.arms = s.arms) : Framed L s t := by
  simp only [Prod.mk.injEq] at hn hc hk
  have arm (a : ArmId) : t.arm a = s.arm a := by unfold State.arm; rw [ha]
  exact ⟨hn.1, hn.2, hc.1, hc.2.1, hc.2.2, fun _ _ => hk.1, fun _ _ => hk.2.1, fun _ a => by rw [arm]; exact ⟨rfl, rfl⟩,
    fun _ a => by rw [arm], fun _ => hk.2.2⟩

theorem Framed.eachArm (f : ArmId → State → State) (hf : ∀ a s, Framed L s (f a s)) (s : State) :
    Framed L s (s.eachArm f) :=
  (((hf 0 _).trans (hf 1 _)).trans (hf 2 _)).trans (hf 3 _)

theorem State.assertRestart_framed (s : State) : Framed [] s s.assertRestart := by
  have stopped (a : ArmId) (x : State) : Framed [] x (x.stopArm a) := by
    have closing : Framed [] x (if (x.arm a).stage.flowing then x.moveStage a .closing else x) := by
      split
      · exact .moveStage a .closing x
      · exact .refl _ x
    unfold State.stopArm
    exact closing.trans (.modArm a _ _ fun m => by dsimp only; split <;> rfl)
  have fields (b : Bool) (x : StationState) (p q : Timer) (l : Link) : Framed [] s { s with
      restart := b, station := x, listenTimer := p, periodTimer := q, link := l } := .other rfl rfl rfl rfl
  have session (f : Session → Session) (x : State) : Framed [] x (x.modSession f) := .other rfl rfl rfl rfl
  have headers (x : State) : Framed [] x { x with headers := vec8 fun h => (x.header h).atAssertion } :=
    .other rfl rfl rfl rfl
  have monitor (f : Monitor → Monitor) (x : State) : Framed [] x (x.modMonitor f) := .other rfl rfl rfl rfl
  unfold State.assertRestart
  refine (monitor _ _).after <| (State.cutAllShots_touch _).framed.still.after <| (Framed.eachArm _ stopped _).after <|
    (headers _).after <| (session _ _).after ?_
  exact (State.checkFail_touch _ _).framed.still.after (fields _ _ _ _ _)

theorem State.releaseArm_touch (a : ArmId) (s : State) : Moves sliceTouch s (s.releaseArm a) := by
  have judged (x : State) : Moves sliceTouch x
      (x.eachInjector fun i y => if (y.injectorCfg i).arm = a then y.judgeWindow i else y) :=
    .eachInjector _ (fun i y => .when fun _ => (y.judgeWindow_touch i).mono) x
  have shut (x : State) : Moves sliceTouch x (if (x.arm a).stage.isOpen then
      (((x.releaseSlice a).eachInjector fun i y => if (y.injectorCfg i).arm = a then y.judgeWindow i else y).moveStage a
        .closed).modArm a fun m => { m with close := none, leak := false, heldShare := 0 } else x) :=
    .when fun _ => ((x.releaseSlice_touch a).trans (judged _)).trans (State.shut_touch a _).mono
  unfold State.releaseArm
  exact (shut s).trans (.modArm a _)

theorem State.releaseBatches_framed (s : State) : Framed [] s s.releaseBatches := by
  have fields (v : Vector (Option Batch) 8) (k : Vector Header 8) : Framed [] s { s with
      batches := v, startQueue := [], arms := vec4 fun a => { s.arm a with reserved := none }, headers := k } := by
    have arm (a : ArmId) : State.arm { s with
        batches := v, startQueue := [], arms := vec4 fun a => { s.arm a with reserved := none }, headers := k } a =
        { s.arm a with reserved := none } := vec4_get _ a
    exact ⟨rfl, rfl, rfl, rfl, rfl, fun _ _ => rfl, fun _ _ => rfl, fun _ a => by rw [arm]; exact ⟨rfl, rfl⟩,
      fun _ a => by rw [arm], fun _ => rfl⟩
  unfold State.releaseBatches
  exact (Framed.eachArm _ (fun a x => (x.saveOwner_touch a).framed.still) _).after (fields _ _)

theorem State.beginListen_framed (s : State) : Framed L s s.beginListen := by
  unfold State.beginListen
  exact (State.composeState_touch _).framed.still.after (.other rfl rfl rfl rfl)

/-- The stages of a release but the first leave what only a few commands change (R181). -/
theorem State.releaseRestart_framed (s : State) : Framed [.totals] s s.releaseRestart := by
  have blocks (x : State) : Framed [.totals] x x.releaseBlocks := .other rfl rfl rfl rfl
  have released (x : State) : Framed [.totals] x { x with restart := false, socketRequests := x.socketRequests + 1 } :=
    .other rfl rfl rfl rfl
  have line (f : Link → Link) (x : State) : Framed [.totals] x (x.modLink f) := .other rfl rfl rfl rfl
  have arms (a : ArmId) (x : State) : Framed [.totals] x (x.releaseArm a) := by
    have h := (x.releaseArm_touch a).framed
    exact ⟨h.now, h.pending, h.cfg, h.faultKind, h.cfgClamped, fun _ _ => h.clock (by decide) (by decide),
      fun _ _ => h.revoked (by decide) (by decide), fun h1 => absurd (.head _) h1, fun _ => h.learned (by decide),
      fun _ => h.socket (by decide)⟩
  unfold State.releaseRestart State.endingAtRelease
  refine (State.releaseTimers_touch _).framed.still.after <| (line _ _).after <| (State.completeEnding_touch _).framed.still.after <|
    (line _ _).after <| (State.beginListen_framed _).after <| (released _).after <| (blocks _).after ?_
  exact (State.releaseBatches_framed _).still.after <| (State.handTotals_touch _).framed.still.after (.eachArm _ arms s)

theorem State.stage5_framed (s : State) : Framed [.clock] s s.stage5 := by
  rw [State.stage5_eq]
  refine (State.beginListen_framed _).after <| (State.offerHeld_touch _).framed.still.after ?_
  exact ⟨rfl, rfl, rfl, rfl, rfl, fun h _ => absurd (.head _) h, fun _ _ => rfl, fun _ _ => ⟨rfl, rfl⟩, fun _ _ => rfl,
    fun _ => rfl⟩

theorem State.releaseStage5_framed (s : State) : Framed [.clock] s s.releaseStage5 :=
  (State.stage5_framed _).after <| (State.handTotals_touch _).framed.still.after (.other rfl rfl rfl rfl)

/-! ## The retention memory -/

/-- A run of acts leaves the memory, the issue count and RETENTION_FAULT (R182, R183). -/
theorem Acts.retention_same (h : Acts s t) : t.retention.mem = s.retention.mem ∧
    t.retention.issueCount = s.retention.issueCount ∧ t.retention.fault = s.retention.fault := by
  induction h with
  | refl s => exact ⟨rfl, rfl, rfl⟩
  | trans _ _ h k => exact ⟨k.1.trans h.1, k.2.1.trans h.2.1, k.2.2.trans h.2.2⟩
  | quiet _ hr => rw [hr]; exact ⟨rfl, rfl, rfl⟩
  | state s => rw [s.composeState_moves.retention]; exact ⟨rfl, rfl, rfl⟩
  | tail tag payload s ht => rw [(s.handTail_moves tag payload ht).retention]; exact ⟨rfl, rfl, rfl⟩
  | stop s => exact ⟨rfl, rfl, rfl⟩
  | line _ _ _ hr => rw [hr]; exact ⟨rfl, rfl, rfl⟩
  | write w s _ => unfold State.queueWrite; split <;> exact ⟨rfl, rfl, rfl⟩
  | hold block s => exact ⟨rfl, rfl, rfl⟩

/-! ## Every command -/

/-- The kinds of change of each command, of the figures that have kinds of their own: the cold start apart. -/
def reaches : Instr → List Touch
  | .coldStart _ _ _ => []
  | .restartAsserted => []
  | .restartReleased => [.totals, .clock]
  | .clockSecond => [.clock, .newDay]
  | .timeReceived _ => [.clock, .newDay]
  | .revokeReceived _ => [.revoke]
  | .aPulse _ => [.totals]
  | .settleTimerExpiry _ => [.totals, .learned]
  | .tagReport _ => [.socket]
  | .unplugReport _ => [.socket]
  | _ => []

theorem exec_framed (c : Instr) (hc : ∀ x y z, c ≠ .coldStart x y z) (h : exec c s = .next t) : Framed (reaches c) s t := by
  have table (hw : wholePart c = false)
      (hr : ∀ l ∈ [Touch.clock, .newDay, .revoke, .totals, .learned, .socket], l ∈ touches c → l ∈ reaches c) :
      Framed (reaches c) s t := by
    obtain ⟨u, e, moves⟩ := exec_touches c hw s
    rw [e] at h; cases h
    have f := moves.framed
    exact ⟨f.now, f.pending, f.cfg, f.faultKind, f.cfgClamped,
      fun h1 h2 => f.clock (mt (hr _ (by simp)) h1) (mt (hr _ (by simp)) h2),
      fun h1 h2 => f.revoked (mt (hr _ (by simp)) h1) (mt (hr _ (by simp)) h2), fun h1 => f.totals (mt (hr _ (by simp)) h1),
      fun h1 => f.learned (mt (hr _ (by simp)) h1), fun h1 => f.socket (mt (hr _ (by simp)) h1)⟩
  cases c with
  | coldStart x y z => exact absurd rfl (hc x y z)
  | restartAsserted =>
    cases h
    split
    · exact .refl _ s
    · split
      · exact .other rfl rfl rfl rfl
      · exact s.assertRestart_framed
  | restartReleased =>
    cases h
    split
    · exact .refl _ s
    · split
      · exact .other rfl rfl rfl rfl
      · split
        · exact s.releaseStage5_framed.mono
        · exact s.releaseRestart_framed.mono
  | _ => exact table rfl (by simp only [touches, reaches]; decide)

/-- Settles O60: by the kinds of change that each command is made of. -/
theorem onlyTheseChange : Obligations.OnlyTheseChange := by
  intro c s t h
  by_cases hc : ∃ x y z, c = .coldStart x y z
  · obtain ⟨preload, reads, inputs, rfl⟩ := hc
    cases h
    have cold := s.coldStart_cold preload reads inputs
    exact ⟨cold.now, cold.pending, trivial, trivial, trivial, trivial, trivial, trivial, trivial⟩
  · have f := exec_framed c (fun x y z e => hc ⟨x, y, z, e⟩) h
    have mem (hm : writesMemory c = false) : t.retention.mem = s.retention.mem ∧
        t.retention.issueCount = s.retention.issueCount ∧ t.retention.fault = s.retention.fault := by
      obtain ⟨u, e, acts⟩ := exec_acts c hm s
      rw [e] at h; cases h
      exact acts.retention_same
    have fixed := And.intro f.cfg (And.intro f.faultKind f.cfgClamped)
    cases c with
    | coldStart x y z => exact absurd ⟨x, y, z, rfl⟩ hc
    | clockSecond | timeReceived =>
      exact ⟨f.now, f.pending, fixed, trivial, trivial, mem rfl, f.totals (by simp [reaches]), f.learned (by simp [reaches]),
        f.socket (by simp [reaches])⟩
    | restartReleased =>
      exact ⟨f.now, f.pending, fixed, trivial, f.revoked (by simp [reaches]) (by simp [reaches]), mem rfl, trivial,
        f.learned (by simp [reaches]), f.socket (by simp [reaches])⟩
    | revokeReceived =>
      exact ⟨f.now, f.pending, fixed, f.clock (by simp [reaches]) (by simp [reaches]), trivial, mem rfl,
        f.totals (by simp [reaches]), f.learned (by simp [reaches]), f.socket (by simp [reaches])⟩
    | aPulse =>
      exact ⟨f.now, f.pending, fixed, f.clock (by simp [reaches]) (by simp [reaches]),
        f.revoked (by simp [reaches]) (by simp [reaches]), mem rfl, trivial, f.learned (by simp [reaches]),
        f.socket (by simp [reaches])⟩
    | settleTimerExpiry =>
      exact ⟨f.now, f.pending, fixed, f.clock (by simp [reaches]) (by simp [reaches]),
        f.revoked (by simp [reaches]) (by simp [reaches]), mem rfl, trivial, trivial, f.socket (by simp [reaches])⟩
    | tagReport | unplugReport =>
      exact ⟨f.now, f.pending, fixed, f.clock (by simp [reaches]) (by simp [reaches]),
        f.revoked (by simp [reaches]) (by simp [reaches]), mem rfl, f.totals (by simp [reaches]),
        f.learned (by simp [reaches]), trivial⟩
    | retentionWriteEnd | retentionWriteTimeout =>
      exact ⟨f.now, f.pending, fixed, f.clock List.not_mem_nil List.not_mem_nil,
        f.revoked List.not_mem_nil List.not_mem_nil, trivial, f.totals List.not_mem_nil, f.learned List.not_mem_nil,
        f.socket List.not_mem_nil⟩
    | _ =>
      exact ⟨f.now, f.pending, fixed, f.clock List.not_mem_nil List.not_mem_nil,
        f.revoked List.not_mem_nil List.not_mem_nil, mem rfl, f.totals List.not_mem_nil, f.learned List.not_mem_nil,
        f.socket List.not_mem_nil⟩

end Sys2Proof.Machine
end

section
/-! The line's events, and a frame read back (1.1, 1.2; O3, O5, O59). -/

namespace Sys2Proof.Machine

variable {s t : State} {l : Link}

/-! ## Reset -/

theorem State.reset_arm (a : ArmId) : State.reset.arm a = Arm.cold 0 0 0 0 false := by
  unfold State.arm State.reset State.refusedStart
  simp

theorem State.reset_header (h : HeaderId) : State.reset.header h = Header.cold := by
  unfold State.header State.reset State.refusedStart
  simp

theorem State.reset_peer (p : StationId) : State.reset.peer p = Peer.cold := by
  unfold State.peer State.reset State.refusedStart
  simp

theorem State.reset_injector (i : InjectorId) : State.reset.injector i = Injector.cold := by
  unfold State.injector State.reset State.refusedStart
  simp

/-- Settles O59: every table at reset is its cold-start contents. -/
theorem resetHolds : Obligations.ResetHolds := by
  have still : State.reset.noFlow := fun a => by rw [State.reset_arm]; rfl
  have free : State.reset.slotsFree := fun h => by rw [State.reset_header]; rfl
  have closed (a : ArmId) : (State.reset.arm a).stage = .closed := by rw [State.reset_arm]; rfl
  refine ⟨fun h => ?_, ⟨fun _ => ⟨still, free⟩, fun _ => ⟨by decide, rfl, still, free⟩, fun h => nomatch h⟩, ?_, ?_, ?_, ?_, ?_,
    ?_, rfl, rfl, rfl, rfl, rfl, rfl, rfl, rfl, rfl, fun p => ?_, fun a => State.lowSolenoid_closed (closed a),
    fun a => State.mainSolenoid_closed (closed a), fun i => ?_, rfl, rfl⟩
  · rw [State.reset_header]
    simp [State.stageSum, State.reset_arm, stageShare, Arm.cold, Header.cold]
  · rintro (h | h) <;> cases h
  · exact ⟨by decide, fun h => nomatch h⟩
  · exact ⟨by decide, by decide, by decide, fun h => nomatch h⟩
  · exact fun f h => nomatch h
  · exact ⟨by decide, by decide⟩
  · exact ⟨by decide, by decide⟩
  · rw [State.reset_peer]; exact ⟨rfl, rfl⟩
  · rw [State.reset_injector]; rfl

/-! ## The line's events -/

theorem Link.idleEvent_quiet {l : Link} (h : l.tx ≠ .ready) : l.idleEvent = { l with
    lineIdle := true
    rx := .hunt
    buffer := if l.rx = .frame ∨ l.rx = .hunt ∧ l.lineIdle = false then [] else l.buffer } := by
  have cut : (if l.cutShort = true then [] else l.buffer) =
      if l.rx = .frame ∨ l.rx = .hunt ∧ l.lineIdle = false then [] else l.buffer :=
    if_congr (by simp [Link.cutShort]) rfl rfl
  unfold Link.idleEvent Link.startIfReady
  rw [if_neg (fun hr => h hr.1), cut]

theorem Link.idleEvent_ready {l : Link} (h : l.tx = .ready) : l.idleEvent = { l with
    lineIdle := false
    tx := .sending
    wait := 0
    rx := .frame
    buffer := [] } := by
  unfold Link.idleEvent Link.startIfReady
  rw [if_pos ⟨h, rfl⟩]
  rfl

theorem Link.beginAttempt_hunt {l : Link} (h : l.rx = .hunt) : l.beginAttempt = { l with
    tx := .sending
    lineIdle := false
    wait := 0
    rx := .frame
    buffer := [] } := by
  simp [Link.beginAttempt, h]

theorem Link.beginAttempt_away {l : Link} (h : l.rx ≠ .hunt) : l.beginAttempt = { l with
    tx := .sending
    lineIdle := false
    wait := 0 } := by
  simp [Link.beginAttempt, h]

/-- The line's commands in any state, each by its own definition. -/
theorem exec_lineIdle (s : State) : exec .lineIdle s = .next (if s.station = .configFault ∨ s.link.tx = .sending then s
    else if s.restart then { s with link := { s.link with lineIdle := true } } else { s with link := s.link.idleEvent }) := rfl

theorem exec_lineBusy (n : Nat) (s : State) : exec (.lineBusy n) s =
    .next (if s.station = .configFault then s else { s with link := s.link.busyEvent n }) := rfl

theorem exec_backoffEnd (s : State) (h : s.link.tx = .backoff) (hi : s.link.lineIdle = true) : exec .backoffEnd s =
    .next { s with link := s.link.beginAttempt } := congrArg _ (if_pos ⟨h, hi⟩)

theorem State.linkOpen_iff (s : State) : s.linkOpen = true ↔ s.station ≠ .configFault ∧ s.restart = false := by
  simp [State.linkOpen]

/-- Settles O3: by the branches of each event. -/
theorem lineEvents : Obligations.LineEvents := by
  refine ⟨fun s hs ht => ⟨fun hr hq => ?_, fun hr hq => ?_, fun hr => ?_⟩, fun s hs => ⟨fun n hi ht => ?_, fun n hi ht => ?_,
    fun n hi => ?_, fun hr hx => ?_, fun hr hx => ?_⟩, fun s ht hi => ⟨fun hx => ?_, fun hx => ?_⟩⟩
  · rw [exec_lineIdle, if_neg (by simp [hs, ht]), if_neg (by simp [hr]), Link.idleEvent_quiet hq]
  · rw [exec_lineIdle, if_neg (by simp [hs, ht]), if_neg (by simp [hr]), Link.idleEvent_ready hq]
  · rw [exec_lineIdle, if_neg (by simp [hs, ht]), if_pos hr]
  · rw [exec_lineBusy, if_neg hs, Link.busyEvent, if_pos hi, if_pos ht]
  · rw [exec_lineBusy, if_neg hs, Link.busyEvent, if_pos hi, if_neg ht]
  · rw [exec_lineBusy, if_neg hs, Link.busyEvent, if_neg (by simp [hi])]
  · exact congrArg _ (if_pos (by simp [(s.linkOpen_iff).2 ⟨hs, hr⟩, hx]))
  · exact congrArg _ (if_pos (by simp [(s.linkOpen_iff).2 ⟨hs, hr⟩, hx]))
  · rw [exec_backoffEnd s ht hi, Link.beginAttempt_hunt hx]
  · rw [exec_backoffEnd s ht hi, Link.beginAttempt_away hx]

/-! ## A frame read back -/

theorem Link.popFront_eq {l : Link} {f : TxFrame} {rest : List TxFrame} (h : l.queue = f :: rest) :
    l.popFront = l.frontGone rest := by
  unfold Link.popFront Link.frontGone
  rw [h]
  cases rest <;> rfl

/-- The part whose frame in progress has been read back, its owner not yet told (R7, R12). -/
def State.readBack (s : State) (rest : List TxFrame) : State :=
  { s with link := { s.link.frontGone rest with rx := .skip } }

theorem exec_readBackCompletion {s : State} {f : TxFrame} {rest : List TxFrame} (ht : s.link.tx = .sending)
    (hq : s.link.queue = f :: rest) : exec .readBackCompletion s = .next ((s.readBack rest).frameSent f) := by
  show Host.Outcome.next _ = _
  rw [if_pos ht, hq]
  dsimp only [State.modLink]
  rw [Link.popFront_eq hq]
  rfl

theorem State.claimOfFrame_some {s : State} {h : HeaderId} {c : Claim} (hc : (s.header h).slot = some c)
    (hp : c.phase = .queued) : s.claimOfFrame h c.frameId = some c := by
  simp [State.claimOfFrame, hc, hp]

theorem State.claimOfFrame_none {s : State} {h : HeaderId} {id : Nat}
    (hc : ∀ c, (s.header h).slot = some c → c.frameId ≠ id ∨ c.phase ≠ .queued) : s.claimOfFrame h id = none := by
  unfold State.claimOfFrame
  split
  · rename_i c e
    exact if_neg fun k => (hc c e).elim (· k.1) (· k.2)
  · rfl

/-- A STATE's place in the queue, the STATE clearing an announced stop flag or not (R8, R9). -/
theorem State.stateTaken_entered (s : State) (hs : s.station ≠ .clash) :
    StateEntered s.link.tx (s.link.lastStateStop && !s.ownStop) (s.frameNow .state s.statePayload) s.link.queue
      s.stateTaken.queue := by
  unfold State.stateTaken
  rw [if_neg hs]
  split
  · next h => rw [h]; exact Link.pushStateHead_entered
  · next h => rw [Bool.not_eq_true] at h; rw [h]; exact Link.pushStateTail_entered

/-! ## A frame with room enters (R8, R9) -/

theorem mem_insertAt_self (n : Nat) (f : TxFrame) (q : List TxFrame) : f ∈ insertAt n f q := by
  simp [insertAt]

theorem mem_replaceFirst_self {p : TxFrame → Bool} {f : TxFrame} {q : List TxFrame} (h : q.any p = true) :
    f ∈ replaceFirst p f q := by
  induction q with
  | nil => cases h
  | cons g rest ih =>
    rw [replaceFirst]
    split
    · exact .head _
    · rename_i hg
      exact .tail _ (ih (by simpa [hg] using h))

theorem Link.pushStateTail_mem {f : TxFrame} (h : l.queue.length < 8) : f ∈ (l.pushStateTail f).queue := by
  have tail : f ∈ (l.pushTail f).1.queue := by rw [Link.pushTail_queue, if_pos h]; simp
  unfold Link.pushStateTail
  split
  · exact tail
  · split
    · exact .tail _ (mem_replaceFirst_self ‹_›)
    · split
      · exact .head _
      · exact tail

theorem Link.pushStateHead_mem {f : TxFrame} (h : l.queue.length < 8) : f ∈ (l.pushStateHead f).queue := by
  have short : (l.queue.take 1 ++ (l.queue.drop 1).filter fun g => !g.isState).length < Config.txCapacity := by
    have := List.length_filter_le (fun g : TxFrame => !g.isState) (l.queue.drop 1)
    simp only [List.length_append, List.length_take, List.length_drop, Config.txCapacity] at *
    omega
  unfold Link.pushStateHead
  dsimp only
  rw [if_pos short, Link.wake_queue]
  exact mem_insertAt_self _ _ _

/-! ## What taking a frame leaves of the transmitter (R4, R8) -/

/-- A transmitter that a frame entering the queue sets nothing going in: neither EMPTY nor READY on an IDLE line. -/
structure Link.Settled (l : Link) : Prop where
  filled : l.tx ≠ .empty
  idles : l.tx = .ready → l.lineIdle = false

theorem Link.Settled.wake (h : l.Settled) (q : List TxFrame) : ({ l with queue := q } : Link).wake = { l with queue := q } := by
  unfold Link.wake Link.startIfReady
  rw [if_neg h.filled]
  exact if_neg fun k => Bool.noConfusion ((h.idles k.1).symm.trans k.2)

theorem Link.Settled.pushTail (h : l.Settled) (f : TxFrame) : (l.pushTail f).1 = { l with queue := (l.pushTail f).1.queue } := by
  unfold Link.pushTail
  split
  · rw [h.wake]
  · rfl

theorem Link.Settled.pushStateTail (h : l.Settled) (f : TxFrame) :
    l.pushStateTail f = { l with queue := (l.pushStateTail f).queue } := by
  unfold Link.pushStateTail
  split
  · exact h.pushTail f
  · split
    · rfl
    · split
      · rfl
      · exact h.pushTail f

theorem Link.Settled.pushStateHead (h : l.Settled) (f : TxFrame) :
    l.pushStateHead f = { l with queue := (l.pushStateHead f).queue } := by
  unfold Link.pushStateHead
  dsimp only
  split
  · rw [h.wake]
  · rfl

theorem Link.Settled.enterStop (h : l.Settled) (f : TxFrame) (q : List TxFrame) :
    l.enterStop f q = { l with queue := (l.enterStop f q).queue } := by
  unfold Link.enterStop
  dsimp only
  rw [h.wake]

theorem Link.pushTail_first (h : l.queue = []) (f : TxFrame) : (l.pushTail f).1 = ({ l with queue := [f] } : Link).wake := by
  unfold Link.pushTail
  rw [h]
  rfl

theorem Link.pushStateTail_first (h : l.queue = []) (f : TxFrame) :
    l.pushStateTail f = ({ l with queue := [f] } : Link).wake := by
  unfold Link.pushStateTail
  rw [h]
  exact Link.pushTail_first h f

theorem Link.pushStateHead_first (h : l.queue = []) (f : TxFrame) :
    l.pushStateHead f = ({ l with queue := [f] } : Link).wake := by
  unfold Link.pushStateHead
  rw [h]
  simp [headPlace, insertAt, Config.txCapacity]

theorem Link.wake_empty_busy {l : Link} (ht : l.tx = .empty) (h : l.lineIdle = false) :
    l.wake = { l with tx := .ready, attempts := 0, wait := 0 } := by
  unfold Link.wake Link.startIfReady
  rw [if_pos ht]
  exact if_neg fun k => Bool.noConfusion (h.symm.trans k.2)

theorem Link.wake_empty_idle {l : Link} (ht : l.tx = .empty) (h : l.lineIdle = true) : l.wake = { l with
    tx := .sending
    lineIdle := false
    attempts := 0
    wait := 0
    rx := if l.rx = .hunt then .frame else l.rx
    buffer := if l.rx = .hunt then [] else l.buffer } := by
  unfold Link.wake Link.startIfReady
  rw [if_pos ht]
  exact if_pos ⟨rfl, h⟩


/-! ## A STATE handed over (R30, R31) -/

theorem Link.Settled.stateTaken (h : s.link.Settled) : s.stateTaken = { s.link with queue := s.stateTaken.queue } := by
  unfold State.stateTaken
  split
  · rfl
  · split
    · exact h.pushStateHead _
    · exact h.pushStateTail _

theorem State.stateTaken_first (hs : s.station ≠ .clash) (hq : s.link.queue = []) : s.stateTaken =
    ({ s.link with queue := [s.frameNow .state s.statePayload] } : Link).wake := by
  unfold State.stateTaken
  rw [if_neg hs]
  split
  · exact Link.pushStateHead_first hq _
  · exact Link.pushStateTail_first hq _

theorem State.stateTaken_clash (hs : s.station = .clash) : s.stateTaken = s.link := if_pos hs

/-- A STATE enters a queue with room. -/
theorem State.stateTaken_mem (hs : s.station ≠ .clash) (hr : s.link.queue.length < 8) :
    s.frameNow .state s.statePayload ∈ s.stateTaken.queue := by
  unfold State.stateTaken
  rw [if_neg hs]
  split
  · exact Link.pushStateHead_mem hr
  · exact Link.pushStateTail_mem hr

theorem State.composeState_sameButLink (s : State) : s.SameButLink s.composeState := by
  unfold State.SameButLink
  by_cases h : s.linkOpen = true
  · rw [State.composeState_open h]
  · rw [State.composeState_shut (by simpa using h)]

theorem State.SameButLink.statePayload (h : s.SameButLink t) : t.statePayload = s.statePayload := by
  rw [h]
  rfl

/-- A STATE handed over to a queue with room is in it. -/
theorem State.composeState_announced (h : s.Sends) : s.composeState.Announced := by
  refine ⟨s.frameNow .state s.statePayload, ?_, rfl, ?_⟩
  · rw [State.composeState_open h.opened]
    exact State.stateTaken_mem h.clear h.room
  · rw [s.composeState_sameButLink.statePayload, s.composeState_sameButLink]
    rfl

/-- Behind a frame that has left, on a BUSY line, the STATE waits READY. -/
theorem State.stateTaken_waits {rest : List TxFrame} (hs : s.station ≠ .clash) (hi : s.link.lineIdle = false) :
    (s.readBack rest).stateTaken = { (s.readBack rest).link with
      queue := (s.readBack rest).stateTaken.queue
      tx := .ready } := by
  by_cases hr : rest = []
  · subst hr
    have first : ({ (s.readBack []).link with
        queue := [(s.readBack []).frameNow .state (s.readBack []).statePayload] } : Link).wake = _ :=
      Link.wake_empty_busy rfl hi
    rw [State.stateTaken_first (s := s.readBack []) hs rfl, first]
    rfl
  · have ready : (s.readBack rest).link.tx = .ready := if_neg hr
    rw [Link.Settled.stateTaken (s := s.readBack rest) ⟨by simp [ready], fun _ => hi⟩]
    dsimp only
    rw [ready]

theorem State.frameSent_claimGone {s : State} {h : HeaderId} {f : TxFrame} (hf : f.tag = .claim h)
    (hc : ∀ c, s.headers[h].slot = some c → c.frameId ≠ f.id ∨ c.phase ≠ .queued) : s.frameSent f = s.composeState := by
  unfold State.frameSent
  rw [hf]
  dsimp only
  rw [State.claimOfFrame_none hc]

/-- A note's marker of one frame is cleared wherever the note's number stands (R173). -/
theorem State.clearMarker_store (n id : Nat) (s : State) : (s.clearMarker n id).notes.store =
    s.notes.store.map fun x => if x.number = n ∧ x.marker = some id then { x with marker := none } else x := rfl

theorem State.clearMarker_cleared {n id : Nat} {x : StoredNote} (hx : x ∈ (s.clearMarker n id).notes.store)
    (hn : x.number = n) : x.marker ≠ some id := by
  rw [State.clearMarker_store] at hx
  obtain ⟨y, -, rfl⟩ := List.mem_map.mp hx
  split
  · simp
  · rename_i hy
    rw [if_neg hy] at hn
    exact fun k => hy ⟨hn, k⟩

theorem State.clearMarker_records (n id : Nat) (s : State) :
    (s.clearMarker n id).notes.store.map (fun x => (x.number, x.record)) =
      s.notes.store.map fun x => (x.number, x.record) := by
  rw [State.clearMarker_store, List.map_map]
  refine List.map_congr_left fun x _ => ?_
  dsimp only [Function.comp]
  split <;> rfl

/-- Settles O5: the frame gone, its owner told by the kind of frame. -/
theorem readBackCompletion : Obligations.ReadBackCompletion := by
  intro s f rest ht hq
  rw [exec_readBackCompletion ht hq]
  refine ⟨fun hf => ?_, fun h c hf hc hid hp => ?_, fun hf hs hid => ?_, fun hf hs => ?_, fun h hf hc => ?_, fun n hf => ?_⟩
  · unfold State.frameSent
    rcases hf with hf | hf | ⟨h, hf⟩ <;> rw [hf] <;> rfl
  · unfold State.frameSent
    rw [hf]
    dsimp only
    rw [← hid, State.claimOfFrame_some (s := s.readBack rest) hc hp]
    rfl
  · unfold State.frameSent
    rw [hf]
    exact congrArg _ (if_pos ⟨hs, hid⟩)
  · unfold State.frameSent
    rw [hf]
    exact congrArg _ (if_neg fun k => hs.elim (· k.1) (· k.2))
  · intro left said
    rw [State.frameSent_claimGone (s := s.readBack rest) hf hc]
    have shut (ho : s.linkOpen = false) := State.composeState_shut (s := s.readBack rest) ho
    have opened (ho : s.linkOpen = true) := State.composeState_open (s := s.readBack rest) ho
    refine ⟨fun ho => ?_, fun ho hs => ?_, fun ho hs => ?_⟩
    · rw [shut ho]; rfl
    · rw [opened ho, State.stateTaken_clash (s := s.readBack rest) hs]; rfl
    · rw [opened ho]
      refine ⟨_, rfl, rfl, rfl, (s.readBack rest).stateTaken_entered hs, fun hi => ?_⟩
      dsimp only
      rw [State.stateTaken_waits hs hi]
      rfl
  · refine ⟨(s.readBack rest).clearMarker n f.id, ?_, rfl, rfl, State.clearMarker_records .., fun x => State.clearMarker_cleared⟩
    unfold State.frameSent
    rw [hf]

end Sys2Proof.Machine
end

section
/-! A run of closes and endings, and what it leaves: the clock, the peers, the session's end reason (3.4; O8, O9, O13, O16, O18,
O20). -/

namespace Sys2Proof.Machine

variable {s t u : State} {L : List Touch}

/-! ## What closes and endings leave -/

/-- What neither a close nor an ending touches. -/
structure State.Beside (s t : State) : Prop where
  now : t.now = s.now
  station : t.station = s.station
  cfg : t.cfg = s.cfg
  restart : t.restart = s.restart
  ownStop : t.ownStop = s.ownStop
  clock : t.clock = s.clock
  peers : t.peers = s.peers
  revoked : t.revoked = s.revoked
  panel : t.panel = s.panel
  mem : t.retention.mem = s.retention.mem

theorem State.Beside.refl (s : State) : s.Beside s := ⟨rfl, rfl, rfl, rfl, rfl, rfl, rfl, rfl, rfl, rfl⟩

theorem State.Beside.trans (h : s.Beside t) (k : t.Beside u) : s.Beside u :=
  ⟨k.now.trans h.now, k.station.trans h.station, k.cfg.trans h.cfg, k.restart.trans h.restart, k.ownStop.trans h.ownStop,
    k.clock.trans h.clock, k.peers.trans h.peers, k.revoked.trans h.revoked, k.panel.trans h.panel, k.mem.trans h.mem⟩

theorem SharesMove.beside (h : SharesMove s t) : s.Beside t :=
  ⟨h.now, h.station, h.cfg, h.restart, h.ownStop, h.clock, h.peers, h.revoked, h.panel, by rw [h.retention]⟩

theorem Prim.beside {l : Touch} (p : Prim l s t) (hl : l ∈ enterTouch) : s.Beside t := by
  cases p with
  | shares h => exact h.beside
  | writes r s hm _ => exact ⟨rfl, rfl, rfl, rfl, rfl, rfl, rfl, rfl, rfl, hm⟩
  | arm | stage | shut | header | batch | injector | session | monitor | notes =>
    exact ⟨rfl, rfl, rfl, rfl, rfl, rfl, rfl, rfl, rfl, rfl⟩
  | _ => simp at hl

theorem Moves.beside (h : Moves enterTouch s t) : s.Beside t := by
  induction h with
  | refl => exact .refl _
  | step l _ hl p ih => exact ih.trans (p.beside hl)

/-- The kinds that leave the session as it is. -/
abbrev sessionless : List Touch := [.stage, .arm, .injector, .shares, .batch, .header, .monitor, .notes, .writes]

theorem Prim.session_same {l : Touch} (p : Prim l s t) (hl : l ∈ sessionless) : t.session = s.session := by
  cases p with
  | shares h => exact h.session
  | arm | stage | shut | header | batch | injector | monitor | notes | writes => rfl
  | _ => simp at hl

theorem Moves.session_same (h : Moves L s t) (hl : L ⊆ sessionless := by decide) : t.session = s.session := by
  induction h with
  | refl => rfl
  | step l _ hm p ih => exact (p.session_same (hl hm)).trans ih

/-- No check is under way and no session is ADMITTED. -/
def State.AtRest (s : State) : Prop := s.session.state ≠ .checking ∧ s.session.state ≠ .admitted

theorem Prim.atRest {l : Touch} (p : Prim l s t) (hl : l ∈ enterTouch) (h : s.AtRest) : t.AtRest := by
  have same (e : t.session = s.session) : t.AtRest := by unfold State.AtRest; rw [e]; exact h
  cases p with
  | session x s hk =>
    refine ⟨fun e => ?_, fun e => ?_⟩
    · exact (hk (.inl e)).1.elim h.1 h.2
    · exact (hk (.inr e)).1.elim h.1 h.2
  | shares hm => exact same hm.session
  | arm | stage | shut | header | batch | injector | monitor | notes | writes => exact same rfl
  | _ => simp at hl

theorem Moves.atRest (h : Moves enterTouch s t) (h0 : s.AtRest) : t.AtRest :=
  h.keeps (P := State.AtRest) (fun _ hl _ _ p => p.atRest hl) h0

/-! ## The end of a check and of a session (R40, R51, R52) -/

theorem State.checkFail_checking (r : Reason) (h : s.session.state = .checking) : s.checkFail r = { s with session :=
    { s.session with
      state := .none
      permit := none
      tag := none
      window := none
      outcome := some r } } := if_pos h

theorem State.checkFail_other (r : Reason) (h : s.session.state ≠ .checking) : s.checkFail r = s := if_neg h

theorem State.enterEnding_other (r : Reason) (h : s.session.state ≠ .admitted) : s.enterEnding r = s := if_neg h

/-- The session as its completion leaves it (R52). -/
def Session.closed (x : Session) : Session :=
  { x with
    latches := Vector.replicate 4 false
    state := .none
    permit := none
    tag := none }

/-- The session as entry to ENDING leaves it (R51). -/
def Session.ended (r : Reason) (x : Session) : Session :=
  { x with
    state := .ending
    endReason := some r
    idle := none
    socketTimer := none }

theorem State.eachArm_session (f : Arm → Arm) (s : State) : (s.eachArm fun a s => s.modArm a f).session = s.session := by
  unfold State.eachArm
  simp only [State.modArm_session]

theorem State.eachInjector_session (f : Injector → Injector) (s : State) :
    (s.eachInjector fun i s => s.modInjector i f).session = s.session := by
  unfold State.eachInjector
  simp only [State.modInjector_session]

theorem State.closeSession_session (s : State) : s.closeSession.session = s.session.closed := by
  unfold State.closeSession
  rw [(State.composeState_moves _).session, State.eachArm_session, State.modSession_session, State.eachArm_session,
    State.eachInjector_session]
  rfl

theorem State.settleBatches_session (s : State) : s.settleBatches.session = s.session := by
  have comps (x : State) : Moves [.batch] x (allComps.foldl State.settleComp x) := .foldl _ (fun s c => .setBatch c _ s) _ x
  have waits (x : State) : Moves [.header] x
      (allHeaders.foldl (fun s h => s.modHeader h fun x => { x with retryWait := false }) x) := by
    refine .foldl _ (fun s h => ?_) _ x
    exact .modHeader h s fun x => ⟨rfl, by cases e : x.slot <;> simp⟩
  have rests (b : Bool) (x : State) : (if b then x.settleDeadman false else x).session = x.session := by
    split
    · exact (x.settleDeadman_touch false).session_same
    · rfl
  unfold State.settleBatches
  dsimp only
  rw [rests, (waits _).session_same]
  exact (comps s).session_same

theorem State.completeEnding_session (s : State) :
    s.completeEnding.session = s.session ∨ s.completeEnding.session = s.session.closed := by
  have issue (x : State) : x.offerIssue.session = x.session ∨ x.offerIssue.session = x.session.closed := by
    unfold State.offerIssue
    split
    · rename_i h
      have room : x.retention.hasRoom = true := by
        unfold State.issueFits at h
        simp only [Bool.and_eq_true] at h
        exact h.2
      rw [State.closeSession_session, (x.issueNote_touch room).session_same]
      exact .inr rfl
    · exact .inl rfl
  unfold State.completeEnding
  split
  · dsimp only
    split
    · rw [← s.settleBatches_session]
      exact issue _
    · rw [State.closeSession_session, s.settleBatches_session]
      exact .inr rfl
  · exact .inl rfl

theorem State.enterEnding_session (r : Reason) (h : s.session.state = .admitted) :
    (s.enterEnding r).session = s.session.ended r ∨ (s.enterEnding r).session = (s.session.ended r).closed := by
  have low (x : State) : (allHeaders.foldl State.abandonLow x).session = x.session :=
    (Moves.foldl _ (fun s h => s.abandonLow_touch h) _ x).session_same
  have closes (x : State) : (x.eachArm fun a s => s.closeDemand a .stop .sessionEnd .controlled).session = x.session :=
    (Moves.eachArm _ (fun a s => s.closeDemand_touch a _ _ _) x).session_same
  unfold State.enterEnding
  rw [if_pos h]
  have done (x : State) (hx : x.session = s.session.ended r) : x.completeEnding.session = s.session.ended r ∨
      x.completeEnding.session = (s.session.ended r).closed := hx ▸ x.completeEnding_session
  refine done _ ?_
  rw [closes, State.eachArm_session, low]
  rfl

end Sys2Proof.Machine
end

section
/-! The clock and the frames of other stations (1.4, 1.5, 2.3, 3.3): O9, O13, O16, O18, O20. -/

namespace Sys2Proof.Machine

variable {s t : State} {frame : List Byte} {p : StationId} {f : Frame}

/-! ## A frame taken (R12, R13) -/

theorem State.receive_takes (h : s.Takes frame p f) (deliver : StationId → Frame → State → State) :
    s.receive frame deliver = deliver p f (s.dropped frame) := by
  have shut : (!s.linkOpen || s.link.rx == .skip || s.link.tx == .sending) = false := by
    simp [h.opened, h.hunts, h.quiet]
  unfold State.receive
  rw [shut]
  dsimp only [State.modLink]
  rw [h.good]
  exact if_neg h.other

/-! ## The clock (R17, R18, R45) -/

/-- The revocations that a day leaves (R45). -/
def State.pruned (s : State) : State := { s with revoked := s.revoked.filter fun r => decide (s.clock.day ≤ r.endDay) }

/-- A day change prunes the list; a session past its expiry day fails its check or ends (R45). -/
theorem State.dayChange_expired {x : Permit} (hp : s.session.permit = some x) (hx : x.expiry < s.clock.day) :
    s.dayChange = (s.pruned.checkFail .expired).enterEnding .expired := by
  unfold State.dayChange
  dsimp only
  rw [hp]
  exact if_pos hx

theorem State.dayChange_valid (hx : ∀ x, s.session.permit = some x → s.clock.day ≤ x.expiry) : s.dayChange = s.pruned := by
  unfold State.dayChange
  dsimp only
  split
  · rename_i x hp
    exact if_neg (Nat.not_lt.mpr (hx x hp))
  · rfl

theorem State.dayChange_beside (s : State) : s.pruned.Beside s.dayChange := by
  by_cases h : ∃ x, s.session.permit = some x ∧ x.expiry < s.clock.day
  · obtain ⟨x, hp, hx⟩ := h
    rw [State.dayChange_expired hp hx]
    exact (State.dayEnd_touch _ _ _).beside
  · rw [State.dayChange_valid fun x hp => Nat.not_lt.mp fun hx => h ⟨x, hp, hx⟩]
    exact .refl _

/-- A check or a session that ends both ways is at rest. -/
theorem State.dayEnd_atRest (r r' : Reason) (s : State) : ((s.checkFail r).enterEnding r').AtRest := by
  have done (x : State) (h : x.session.state ≠ .checking) : (x.enterEnding r').AtRest := by
    by_cases ha : x.session.state = .admitted
    · rcases State.enterEnding_session r' ha with e | e <;> unfold State.AtRest <;> rw [e] <;> simp [Session.ended, Session.closed]
    · rw [State.enterEnding_other r' ha]
      exact ⟨h, ha⟩
  refine done _ ?_
  by_cases h : s.session.state = .checking
  · rw [State.checkFail_checking r h]; simp
  · rw [State.checkFail_other r h]; exact h

/-- A day change past the permit's expiry day fails a check. -/
theorem State.dayChange_checking {x : Permit} (hp : s.session.permit = some x) (hx : x.expiry < s.clock.day)
    (hc : s.session.state = .checking) :
    s.dayChange.session.outcome = some .expired ∧ s.dayChange.session.state = .none := by
  rw [State.dayChange_expired hp hx, State.checkFail_checking (s := s.pruned) .expired hc, State.enterEnding_other _ (by simp)]
  exact ⟨rfl, rfl⟩

/-- A day change past the permit's expiry day ends an ADMITTED session. -/
theorem State.dayChange_admitted {x : Permit} (hp : s.session.permit = some x) (hx : x.expiry < s.clock.day)
    (ha : s.session.state = .admitted) : s.dayChange.session.endReason = some .expired ∧
      (s.dayChange.session.state = .ending ∨ s.dayChange.session.state = .none) := by
  have other : s.pruned.session.state ≠ .checking := by simp [State.pruned, ha]
  rw [State.dayChange_expired hp hx, State.checkFail_other .expired other]
  rcases State.enterEnding_session (s := s.pruned) .expired ha with e | e <;> rw [e]
  · exact ⟨rfl, .inl rfl⟩
  · exact ⟨rfl, .inr rfl⟩

theorem Clock.tick_dateKnown (now : Nat) (c : Clock) : (c.tick now).dateKnown = c.dateKnown := by
  unfold Clock.tick
  split <;> rfl

/-- The second of a running clock; a rollover with the date known is a day change. -/
theorem exec_clockSecond (h : s.clockRuns = true) : exec .clockSecond s = .next (if 86399 ≤ s.clock.second ∧
    s.clock.dateKnown = true then State.dayChange { s with clock := s.clock.tick s.now }
      else { s with clock := s.clock.tick s.now }) := by
  show Host.Outcome.next (if s.clockRuns = true then _ else _) = _
  rw [if_pos h]
  dsimp only
  rw [Clock.tick_dateKnown]
  simp only [Bool.and_eq_true, decide_eq_true_eq]

/-- Settles O16: by the second of the day and the session's expiry day. -/
theorem clockSecond : Obligations.ClockSecond := by
  intro s hs hw
  have rolls (h : 86399 ≤ s.clock.second) : s.clock.tick s.now = ⟨(s.clock.day + 1) % 65536, 0, s.clock.dateKnown, s.now⟩ :=
    if_neg (by omega)
  rw [exec_clockSecond (by simp [State.clockRuns, hs, hw])]
  refine ⟨fun h => ?_, fun h hd => ?_, fun h hd => ?_⟩
  · have same : s.clock.tick s.now = ⟨s.clock.day, s.clock.second + 1, s.clock.dateKnown, s.now⟩ := if_pos h
    rw [if_neg (by omega), same]
  · rw [if_neg (by simp [hd]), rolls h, hd]
  · rw [if_pos ⟨h, hd⟩, rolls h, hd]
    have beside := State.dayChange_beside { s with clock := ⟨(s.clock.day + 1) % 65536, 0, true, s.now⟩ }
    exact ⟨_, rfl, beside.clock, beside.revoked, fun x hp hx => ⟨fun hc => State.dayChange_checking hp hx hc,
      fun ha => State.dayChange_admitted hp hx ha⟩, fun hx => State.dayChange_valid
        (s := { s with clock := ⟨(s.clock.day + 1) % 65536, 0, true, s.now⟩ }) hx⟩

/-! ## NOTE, CLAIM and TIME (R14, R18, R24) -/

/-- Settles O9: each frame taken, its sender heard. -/
theorem noteClaimAndTimeFrames : Obligations.NoteClaimAndTimeFrames := by
  intro s frame p
  refine ⟨fun h => ?_, fun k total cls h => ?_, fun day second h hd hk => ?_, fun day second h hd => ?_⟩
  · exact congrArg Host.Outcome.next (State.receive_takes h _)
  · refine congrArg Host.Outcome.next ((State.receive_takes h _).trans ?_)
    simp [State.deliverClaim, State.hear, State.modPeer, State.dropped, State.heardFrom]
  · refine congrArg Host.Outcome.next ((State.receive_takes h _).trans ?_)
    exact if_neg (by simp [State.hear, State.modPeer, State.dropped, hd, hk])
  · refine ⟨_, congrArg Host.Outcome.next (State.receive_takes h _), ?_⟩
    have changed : State.deliverTime day second (State.hear p (s.dropped frame)) =
        State.dayChange { s.heardFrom frame p with clock := ⟨day, second, true, s.now⟩ } := by
      refine if_pos ?_
      rcases hd with hd | hd <;> simp [State.hear, State.modPeer, State.dropped, hd]
    dsimp only
    rw [changed]
    have beside := State.dayChange_beside { s.heardFrom frame p with clock := ⟨day, second, true, s.now⟩ }
    refine ⟨beside.clock, beside.revoked, beside.cfg, fun x hp hx => ?_⟩
    rw [State.dayChange_expired (s := { s.heardFrom frame p with clock := ⟨day, second, true, s.now⟩ }) hp hx]
    exact State.dayEnd_atRest _ _ _

/-! ## PERMIT-CLAIM (R39, R46) -/

/-- Settles O13: by the permit and the session's state. -/
theorem permitClaimFrame : Obligations.PermitClaimFrame := by
  intro s frame p permit h
  have taken : exec (.permitClaimReceived frame) s = .next ((s.heardFrom frame p).deliverPermitClaim p permit) :=
    congrArg Host.Outcome.next (State.receive_takes h _)
  rw [taken]
  have own (hp : s.sessionPermit = some permit) : (s.heardFrom frame p).sessionPermit = some permit := hp
  have checks (hp : s.sessionPermit = some permit) (hc : s.session.state = .checking) :
      (s.heardFrom frame p).deliverPermitClaim p permit =
        if p < s.cfg.station then (s.heardFrom frame p).checkFail .inUse else s.heardFrom frame p := by
    have state : (s.heardFrom frame p).session.state = .checking := hc
    unfold State.deliverPermitClaim
    rw [if_pos (own hp), state]
    rfl
  refine ⟨fun hp => ?_, fun hp hc hn => ?_, fun hp hc hn => ?_, fun hp hs => ?_⟩
  · exact congrArg Host.Outcome.next (if_neg hp)
  · rw [checks hp hc, if_neg (not_lt_of_gt hn)]
  · rw [checks hp hc, if_pos hn, State.checkFail_checking (s := s.heardFrom frame p) .inUse hc]
    rfl
  · have opened : (s.heardFrom frame p).linkOpen = true := h.opened
    have answered : (s.heardFrom frame p).deliverPermitClaim p permit = (s.heardFrom frame p).composeState := by
      have state : (s.heardFrom frame p).session.state = s.session.state := rfl
      unfold State.deliverPermitClaim
      rw [if_pos (own hp), state]
      rcases hs with hs | hs <;> rw [hs]
    rw [answered]
    refine ⟨_, rfl, State.composeState_sameButLink _, ?_, fun k => ?_, fun k => ?_⟩
    · rw [State.composeState_open opened]; rfl
    · exact State.composeState_announced ⟨k.opened, k.clear, k.room⟩
    · rw [State.composeState_open opened, State.stateTaken_clash (s := s.heardFrom frame p) k]
      rfl

/-! ## The listen and STATE periods (R28 to R31) -/

/-- A scan of an empty start queue finds nothing. -/
theorem State.scan_empty (h : s.startQueue = []) : s.scan = s := by
  unfold State.scan
  rw [h]
  exact ite_self s

/-- A STATE handed over sets the link and the STATE period alone. -/
theorem exec_statePeriodExpiry (hp : s.periodTimer ≠ none) (ho : s.linkOpen = true) : exec .statePeriodExpiry s = .next { s with
    link := { s.stateTaken.numbered with lastStateStop := s.ownStop }
    periodTimer := some (s.now + 1000) } := by
  have composed : exec .statePeriodExpiry s = .next (State.composeState { s with periodTimer := none }) :=
    congrArg Host.Outcome.next (if_neg hp)
  rw [composed, State.composeState_open (s := { s with periodTimer := none }) ho]
  rfl

/-- A frame in progress, or one READY on a BUSY line, is left so by what enters behind it. -/
theorem Link.settled_of {l : Link} (h : l.inProgress = true ∨ l.tx = .ready ∧ l.lineIdle = false) : l.Settled := by
  unfold Link.inProgress at h
  simp only [Bool.or_eq_true, beq_iff_eq] at h
  rcases h with (h | h) | ⟨h, k⟩
  · exact ⟨by simp [h], by simp [h]⟩
  · exact ⟨by simp [h], by simp [h]⟩
  · exact ⟨by simp [h], fun _ => k⟩

/-- Settles O18: the STATE by its place in the queue. -/
theorem listenAndStatePeriods : Obligations.ListenAndStatePeriods := by
  refine ⟨fun s ht hs => ?_, fun s hp ho => ⟨fun hs hq ht hi => ?_, fun hs hq ht hi => ?_, fun hs => ?_, fun hs => ?_⟩⟩
  · have ends : exec .listenPeriodEnd s = .next (State.scan { s with listenTimer := none, station := .running }) := by
      show Host.Outcome.next (if s.listenTimer = none then s else _) = _
      rw [if_neg ht, if_pos hs]
    rw [ends]
    have moves := State.scan_moves { s with listenTimer := none, station := .running }
    refine ⟨fun hq => ?_, _, rfl, moves.station, moves.listenTimer, ⟨moves.cfg, moves.session, moves.batches, moves.startQueue,
      moves.notes, moves.retention, moves.clock, moves.peers, moves.revoked⟩, moves.monitor⟩
    exact congrArg Host.Outcome.next (State.scan_empty hq)
  all_goals rw [exec_statePeriodExpiry hp ho]
  · have first : ({ s.link with queue := [s.frameNow .state s.statePayload] } : Link).wake = _ := Link.wake_empty_busy ht hi
    rw [State.stateTaken_first hs hq, first]
    rfl
  · have first : ({ s.link with queue := [s.frameNow .state s.statePayload] } : Link).wake = _ := Link.wake_empty_idle ht hi
    rw [State.stateTaken_first hs hq, first]
    rfl
  · refine ⟨_, rfl, rfl, rfl, s.stateTaken_entered hs, fun hk => ?_⟩
    have settled := Link.settled_of hk
    dsimp only
    rw [settled.stateTaken]
    rfl
  · rw [State.stateTaken_clash hs]
    rfl

/-! ## Admission (R41, R49) -/

/-- The part as admission leaves it, its STATE not yet handed over (R41, R49). -/
def State.admittedNow (s : State) : State :=
  { s with session := { s.session with
      state := .admitted
      window := none
      start := some (s.clock.day, s.clock.second)
      outcome := some .admitted
      idle := some (s.now + s.cfg.idleLimit * 1000) } }

/-- With every arm CLOSED and no batch waiting the admission starts the idle timer and hands a STATE over. -/
theorem exec_permitClaimWindowEnd (hc : s.session.state = .checking) (hw : s.session.window ≠ none) (hr : s.restart = false)
    (ha : s.allClosed = true) (hq : s.startQueue = []) (hi : s.session.idle = none) :
    exec .permitClaimWindowEnd s = .next s.admittedNow.composeState := by
  let u : State := s.modSession fun x => { x with
    state := .admitted
    window := none
    start := some (s.clock.day, s.clock.second)
    outcome := some .admitted }
  have admits : exec .permitClaimWindowEnd s = .next u.startIdle.composeState.scan :=
    congrArg Host.Outcome.next (if_pos ⟨hc, hw⟩)
  have closed : u.allClosed = true := ha
  have ready : (u.idleConditions && !u.restart && u.session.idle == none) = true := by
    simp [State.idleConditions, closed, u, hr, hi, hq]
  have started : u.startIdle = s.admittedNow := if_pos ready
  have empty : s.admittedNow.composeState.startQueue = [] := (State.composeState_moves _).startQueue.trans hq
  rw [admits, started, State.scan_empty empty]

/-- Settles O20: the session admitted, its STATE handed over. -/
theorem permitClaimWindowEnd : Obligations.PermitClaimWindowEnd := by
  intro s hc hw ho ha hq hi
  have opened : s.admittedNow.linkOpen = true := ho
  refine ⟨_, exec_permitClaimWindowEnd hc hw (s.linkOpen_iff.mp ho).2 ha hq hi, ?_, fun k => ?_, fun k => ?_,
    s.admittedNow.composeState_sameButLink⟩
  · rw [State.composeState_open opened]; rfl
  · exact State.composeState_announced ⟨opened, k.clear, k.room⟩
  · rw [State.composeState_open opened, State.stateTaken_clash (s := s.admittedNow) k]
    rfl

end Sys2Proof.Machine
end

section
/-! CLASH (R15, R16, R53, R87): what is silent there, and the entry to it (O8). -/

namespace Sys2Proof.Machine

variable {s t u : State} {L : List Touch} {frame : List Byte} {f : Frame}

/-! ## Silence in CLASH (R16) -/

/-- In CLASH no frame enters the queue. -/
def State.Silent (s t : State) : Prop := s.station = .clash → t.station = .clash ∧ t.link.queue = s.link.queue

theorem State.Silent.refl (s : State) : s.Silent s := fun h => ⟨h, rfl⟩

theorem State.Silent.trans (h : s.Silent t) (k : t.Silent u) : s.Silent u := fun hs =>
  ⟨(k (h hs).1).1, (k (h hs).1).2.trans (h hs).2⟩

/-- The last part first. -/
theorem State.Silent.after (k : t.Silent u) (h : s.Silent t) : s.Silent u := h.trans k

theorem State.Silent.of_link (hs : t.station = s.station) (hl : t.link = s.link) : s.Silent t :=
  fun h => ⟨hs.trans h, by rw [hl]⟩

theorem State.Silent.ite {c : Prop} [Decidable c] (h : c → s.Silent t) (k : ¬c → s.Silent u) :
    s.Silent (if c then t else u) := by
  split
  · exact h ‹_›
  · exact k ‹_›

theorem State.Silent.eachArm (f : ArmId → State → State) (hf : ∀ a (s : State), s.Silent (f a s)) (s : State) : s.Silent (s.eachArm f) :=
  (((hf 0 _).trans (hf 1 _)).trans (hf 2 _)).trans (hf 3 _)

theorem State.Silent.modArms (f : Arm → Arm) (s : State) : s.Silent (s.eachArm fun a x => x.modArm a f) := by
  refine .eachArm _ (fun a x => ?_) s
  exact .of_link rfl rfl

theorem State.Silent.foldl {α : Type} (f : State → α → State) (hf : ∀ (s : State) x, s.Silent (f s x)) (l : List α) (s : State) :
    s.Silent (l.foldl f s) := by
  induction l generalizing s with
  | nil => exact .refl s
  | cons x l ih => exact (hf s x).trans (ih _)

/-- The kinds that leave the link controller. -/
abbrev linkless : List Touch := [.stage, .arm, .injector, .batch, .header, .session, .monitor, .notes, .writes]

theorem Prim.silent {l : Touch} (p : Prim l s t) (hl : l ∈ linkless) : s.Silent t := by
  cases p with
  | arm | stage | shut | header | batch | injector | session | monitor | notes | writes => exact .of_link rfl rfl
  | _ => simp at hl

theorem Moves.silent (h : Moves L s t) (hl : L ⊆ linkless := by decide) : s.Silent t := by
  induction h with
  | refl => exact .refl _
  | step l _ hm p ih => exact ih.trans (p.silent (hl hm))

theorem State.composeState_silent (s : State) : s.Silent s.composeState := fun h => by
  by_cases ho : s.linkOpen = true
  · rw [State.composeState_open ho, State.stateTaken_clash h]
    exact ⟨h, rfl⟩
  · rw [State.composeState_shut (by simpa using ho)]
    exact ⟨h, rfl⟩

theorem State.handTail_silent (tag : FrameTag) (payload : List Byte) (s : State) : s.Silent (s.handTail tag payload).1 := by
  intro h
  unfold State.handTail
  split
  · exact ⟨h, rfl⟩
  · exact ⟨h, rfl⟩

theorem State.mayClaim_clash (h : s.station = .clash) : s.mayClaim = false := by
  simp [State.mayClaim, h]

theorem State.scan_silent (s : State) : s.Silent s.scan := fun h => by
  rw [State.scan, State.mayClaim_clash h]
  exact ⟨h, rfl⟩

theorem State.passOn_silent (h : HeaderId) (s : State) : s.Silent (s.passOn h) := fun hs => by
  rw [State.passOn, State.mayClaim_clash hs]
  exact ⟨hs, rfl⟩

theorem State.dropClaim_silent (h : HeaderId) (announce : Bool) (s : State) : s.Silent (s.dropClaim h announce) := by
  unfold State.dropClaim
  split
  · exact .refl s
  · rename_i c _
    have freed (x : State) : x.Silent (match c.kind with
        | .low => x.modArm c.arm fun m => { m with reserved := none }
        | .stepUp => x.modArm c.arm fun m => { m with stepUp := .none }) := by
      split <;> exact .of_link rfl rfl
    have free : s.Silent (s.modHeader h fun x => { x with slot := none }) := .of_link rfl rfl
    dsimp only
    split
    · exact (State.composeState_silent _).after ((freed _).after free)
    · exact (freed _).after free

theorem State.abandon_silent (h : HeaderId) (s : State) : s.Silent (s.abandon h) := by
  unfold State.abandon
  split
  · exact .refl s
  · exact (State.passOn_silent h _).after (s.dropClaim_silent h true)

theorem State.abandonLow_silent (s : State) (h : HeaderId) : s.Silent (s.abandonLow h) := by
  unfold State.abandonLow
  split
  · exact .ite (fun _ => s.abandon_silent h) fun _ => .refl s
  · exact .refl s

theorem State.closeDemand_silent (a : ArmId) (k : CloseKind) (r : Reason) (m : Manner) (s : State) :
    s.Silent (s.closeDemand a k r m) := by
  have stepUp (x : State) : x.Silent (x.abandonStepUp a) := by
    unfold State.abandonStepUp
    split
    · exact .ite (fun _ => x.abandon_silent _) fun _ => .refl x
    · exact .refl x
  have cut (x : State) : x.Silent (if m = .fast then x.cutArmShots a else x) :=
    .ite (fun _ => (x.cutArmShots_touch a).silent) fun _ => .refl x
  have begun : s.Silent (s.beginClose a k r m) := by
    unfold State.beginClose
    refine (stepUp _).after ((cut _).after ?_)
    exact .of_link rfl rfl
  unfold State.closeDemand
  refine .ite (fun _ => .refl s) fun _ => ?_
  split
  · exact .refl s
  · exact .ite (fun _ => (s.enterSettle_touch a).silent) fun _ => .refl s
  · exact begun

theorem State.restoreIf_silent (was : Bool) (s : State) : s.Silent (s.restoreIf was) :=
  .ite (fun _ => s.scan_silent) fun _ => .refl s

theorem State.issueNote_silent (s : State) : s.Silent s.issueNote := by
  have queued (w : Write) (x : State) : x.Silent (x.queueWrite w) := by
    unfold State.queueWrite
    split <;> exact .of_link rfl rfl
  have sent (n : Nat) (record : List Byte) (x : State) : x.Silent (x.sendNote n record) := by
    have cleared (y : State) (id : Nat) : y.Silent (y.clearMarker n id) := (y.clearMarker_touch n id).silent
    have marked : x.Silent (x.modNotes fun y => { y with
        store := y.store.map fun m => if m.number = n then { m with marker := some x.link.nextId } else m }) := .of_link rfl rfl
    unfold State.sendNote
    dsimp only
    split
    · exact (cleared _ _).after ((State.handTail_silent _ _ _).after marked)
    · exact (cleared _ _).after ((State.handTail_silent _ _ _).after marked)
    · exact (State.handTail_silent _ _ _).after marked
  unfold State.issueNote
  exact (sent _ _ _).after ((queued _ _).after (.of_link rfl rfl))

theorem State.settleBatches_silent (s : State) : s.Silent s.settleBatches := by
  have comps (x : State) : Moves [.batch] x (allComps.foldl State.settleComp x) := .foldl _ (fun s c => .setBatch c _ s) _ x
  have waits (x : State) : x.Silent (allHeaders.foldl (fun s h => s.modHeader h fun x => { x with retryWait := false }) x) := by
    refine .foldl _ (fun _ _ => ?_) _ x
    exact .of_link rfl rfl
  have rests (x : State) : x.Silent (x.settleDeadman false) :=
    .ite (fun _ => (State.restoreIf_silent _ _).after (.of_link rfl rfl)) fun _ => .refl x
  have emptied (x : State) : x.Silent { x with startQueue := [] } := .of_link rfl rfl
  have rested (b : Bool) (x : State) : x.Silent (if b then x.settleDeadman false else x) :=
    .ite (fun _ => rests x) fun _ => .refl x
  exact (rested _ _).after ((waits _).after ((emptied _).after (comps s).silent))

theorem State.closeSession_silent (s : State) : s.Silent s.closeSession := by
  have runs (x : State) : x.Silent (x.eachInjector fun i s => s.modInjector i fun x => { x with badRun := 0 }) :=
    (Moves.eachInjector (L := [.injector]) _ (fun i s => .modInjector i _ s) x).silent
  have batches (x : State) : x.Silent { x with batches := Vector.replicate 8 none } := .of_link rfl rfl
  have session (f : Session → Session) (x : State) : x.Silent (x.modSession f) := .of_link rfl rfl
  unfold State.closeSession
  exact (State.composeState_silent _).after <| (State.Silent.modArms _ _).after <| (batches _).after <| (session _ _).after <|
    (State.Silent.modArms _ _).after <| (runs _).after (session _ s)

theorem State.completeEnding_silent (s : State) : s.Silent s.completeEnding := by
  have issued (x : State) : x.Silent x.offerIssue :=
    .ite (fun _ => (State.closeSession_silent _).after x.issueNote_silent) fun _ => .of_link rfl rfl
  unfold State.completeEnding
  refine .ite (fun _ => ?_) fun _ => .refl s
  dsimp only
  exact .ite (fun _ => (issued _).after s.settleBatches_silent) fun _ => (State.closeSession_silent _).after s.settleBatches_silent

theorem State.enterEnding_silent (r : Reason) (s : State) : s.Silent (s.enterEnding r) := by
  have low (x : State) : x.Silent (allHeaders.foldl State.abandonLow x) := .foldl _ State.abandonLow_silent _ x
  have closed (x : State) : x.Silent (x.eachArm fun a s => s.closeDemand a .stop .sessionEnd .controlled) :=
    .eachArm _ (fun a x => x.closeDemand_silent a _ _ _) x
  unfold State.enterEnding
  refine .ite (fun _ => ?_) fun _ => .refl s
  exact (State.completeEnding_silent _).after <| (closed _).after <| (State.Silent.modArms _ _).after <| (low _).after (.of_link rfl rfl)

/-! ## Closes and claims (R87, R131) -/

/-- Closes of a kind that cuts no arm's stage but to CLOSING leave no arm flowing, the RESTART line not asserted (R131). -/
theorem State.eachArm_closeDemand_noFlow (k : CloseKind) (r : Reason) (m : Manner) (s : State) (hr : s.restart = false) :
    (s.eachArm fun a s => s.closeDemand a k r m).noFlow := by
  have moves (a : ArmId) (x : State) : Moves enterTouch x (x.closeDemand a k r m) := (x.closeDemand_touch a k r m).mono
  have line {x : State} (a : ArmId) (h : x.restart = false) : (x.closeDemand a k r m).restart = false :=
    (moves a x).beside.restart.trans h
  have stops {x : State} (a : ArmId) (h : x.restart = false) : ((x.closeDemand a k r m).arm a).stage.flowing = false :=
    x.closeDemand_noFlow a k r m h
  have still {x : State} (a b : ArmId) (h : (x.arm b).stage.flowing = false) :
      ((x.closeDemand a k r m).arm b).stage.flowing = false := (moves a x).noFlow b h
  have h0 := line 0 hr
  have h1 := line 1 h0
  have h2 := line 2 h1
  intro b
  match b with
  | 0 => exact still 3 0 (still 2 0 (still 1 0 (stops 0 hr)))
  | 1 => exact still 3 1 (still 2 1 (stops 1 h0))
  | 2 => exact still 3 2 (stops 2 h1)
  | 3 => exact stops 3 h2

/-- Closes, endings and abandonments fill no slot while the part is not RUNNING (R80). -/
theorem Prim.slot_free {l : Touch} (p : Prim l s t) (hl : l ∈ enterTouch) (hr : s.station ≠ .running) (k : HeaderId)
    (hk : (s.header k).slot = none) : (t.header k).slot = none := by
  cases p with
  | shares h =>
    by_contra hc
    rcases h.slots k hc with hs | hm
    · exact hs hk
    · simp [State.mayClaim, hr] at hm
  | header h f s hf =>
    rw [State.header_modHeader]
    split
    · rename_i e
      subst e
      exact (hf _).2.resolve_right fun hs => hs hk
    · exact hk
  | stage a st s => rw [State.moveStage_slot]; exact hk
  | shut a s => rw [State.header_modArm, State.moveStage_slot]; exact hk
  | arm | batch | injector | session | monitor | notes | writes => exact hk
  | _ => simp at hl

theorem Moves.slot_free (h : Moves enterTouch s t) (hr : s.station ≠ .running) (k : HeaderId)
    (hk : (s.header k).slot = none) : (t.header k).slot = none := by
  have both : t.station ≠ .running ∧ (t.header k).slot = none :=
    h.keeps (P := fun x => x.station ≠ .running ∧ (x.header k).slot = none) (fun l hl x y p hx =>
      ⟨by rw [(p.beside hl).station]; exact hx.1, p.slot_free hl hx.1 k hx.2⟩) ⟨hr, hk⟩
  exact both.2

theorem State.dropClaim_slot (h : HeaderId) (s : State) : ((s.dropClaim h false).header h).slot = none := by
  unfold State.dropClaim
  split
  · assumption
  · rename_i c _
    have free : ((s.modHeader h fun x => { x with slot := none }).header h).slot = none := by
      rw [State.header_modHeader_self]
    cases c.kind <;> exact free

/-- Each step of a fold brings about what it is for, and no later step undoes it. -/
theorem foldl_reaches {α β : Type} (f : β → α → β) {P : β → Prop} {Q : α → β → Prop} (keeps : ∀ b x, P b → P (f b x))
    (does : ∀ b x, P b → Q x (f b x)) (stays : ∀ b x y, P b → Q y b → Q y (f b x)) (l : List α) (b : β) (hb : P b) :
    ∀ x ∈ l, Q x (l.foldl f b) := by
  have later (l : List α) (b : β) (y : α) (hb : P b) (hy : Q y b) : Q y (l.foldl f b) := by
    induction l generalizing b with
    | nil => exact hy
    | cons x l ih => exact ih _ (keeps b x hb) (stays b x y hb hy)
  induction l generalizing b with
  | nil => exact fun x hx => nomatch hx
  | cons z l ih =>
    intro x hx
    rcases List.mem_cons.mp hx with rfl | hx
    · exact later l _ _ (keeps b _ hb) (does b _ hb)
    · exact ih _ (keeps b z hb) x hx

theorem mem_allHeaders (h : HeaderId) : h ∈ allHeaders := by
  revert h
  decide

/-- Every claim abandoned, the part not RUNNING: no slot is held. -/
theorem State.dropClaims_slotsFree (hr : s.station ≠ .running) :
    (allHeaders.foldl (fun s h => s.dropClaim h false) s).slotsFree := fun h =>
  foldl_reaches (fun s h => State.dropClaim h false s) (P := fun s => s.station ≠ .running)
    (Q := fun h s => (s.header h).slot = none) (fun s k hs => by rw [(s.dropClaim_moves k false).station]; exact hs)
    (fun s k _ => s.dropClaim_slot k)
    (fun s k j hs hj => Moves.slot_free (s.dropClaim_touch k false).mono hs j hj) _ s hr h (mem_allHeaders h)

/-! ## Entry to CLASH -/

/-- The part at the start of its entry to CLASH (R16). -/
def State.clashing (s : State) : State := { s with station := .clash, link := s.link.purge }

theorem Link.purge_stops (l : Link) : ∀ g ∈ l.purge.queue, g.tag = .stop := by
  have stops : ∀ g ∈ l.queue.filter TxFrame.isStop, g.tag = .stop := fun g hg =>
    TxFrame.isStop_iff.mp (List.mem_filter.mp hg).2
  unfold Link.purge
  dsimp only
  split
  · rename_i front rest e
    rw [e] at stops
    split
    · rw [e]; exact stops
    · rw [Link.startIfReady_queue, e]; exact stops
  · rename_i e
    rw [e]
    exact fun g hg => nomatch hg

/-- The claims dropped and the arms closed at an entry to CLASH, the check and the session not yet ended. -/
def State.clashed (s : State) : State :=
  (allHeaders.foldl (fun s h => s.dropClaim h false)
    ((s.link.queue.filter fun f => !f.isStop).foldl State.purged s.clashing)).eachArm fun a s => s.closeDemand a .stop .clash .controlled

theorem State.enterClash_eq (h : s.station ≠ .clash) : s.enterClash = (s.clashed.checkFail .clash).enterEnding .clash := if_neg h

theorem State.purgedAll_touch (gone : List TxFrame) (s : State) : Moves enterTouch s (gone.foldl State.purged s) :=
  .foldl _ (fun s f => (s.purged_touch f).mono) _ _

theorem State.dropClaims_touch (s : State) : Moves enterTouch s (allHeaders.foldl (fun s h => s.dropClaim h false) s) :=
  .foldl _ (fun s h => (s.dropClaim_touch h _).mono) _ _

theorem State.clashCloses_touch (s : State) :
    Moves enterTouch s (s.eachArm fun a s => s.closeDemand a .stop .clash .controlled) :=
  .eachArm _ (fun a s => (s.closeDemand_touch a _ _ _).mono) _

theorem State.clashed_touch (s : State) : Moves enterTouch s.clashing s.clashed :=
  ((State.purgedAll_touch _ _).trans (State.dropClaims_touch _)).trans (State.clashCloses_touch _)

theorem State.enterClash_moves (h : s.station ≠ .clash) : Moves enterTouch s.clashing s.enterClash := by
  rw [State.enterClash_eq h]
  exact s.clashed_touch.trans (State.dayEnd_touch _ _ _)

theorem State.enterClash_queue (h : s.station ≠ .clash) : s.enterClash.link.queue = s.link.purge.queue := by
  have purged (gone : List TxFrame) (x : State) : x.Silent (gone.foldl State.purged x) :=
    .foldl _ (fun x f => (x.purged_touch f).silent) _ x
  have dropped (x : State) : x.Silent (allHeaders.foldl (fun s h => s.dropClaim h false) x) :=
    .foldl _ (fun x h => x.dropClaim_silent h false) _ x
  have closed (x : State) : x.Silent (x.eachArm fun a s => s.closeDemand a .stop .clash .controlled) :=
    .eachArm _ (fun a x => x.closeDemand_silent a _ _ _) x
  have silent : s.clashing.Silent s.enterClash := by
    rw [State.enterClash_eq h]
    exact (State.enterEnding_silent _ _).after <| (State.checkFail_touch _ _).silent.after <| (closed _).after <|
      (dropped _).after (purged _ _)
  exact (silent rfl).2

theorem State.enterClash_slotsFree (h : s.station ≠ .clash) : s.enterClash.slotsFree := by
  have station {x y : State} (m : Moves enterTouch x y) (hx : x.station = .clash) : y.station ≠ .running := by
    rw [m.beside.station, hx]; decide
  have gone := State.purgedAll_touch (s.link.queue.filter fun f => !f.isStop) s.clashing
  intro k
  rw [State.enterClash_eq h]
  refine Moves.slot_free (State.dayEnd_touch _ _ _) (station s.clashed_touch rfl) k ?_
  unfold State.clashed
  refine Moves.slot_free (State.clashCloses_touch _) (station (gone.trans (State.dropClaims_touch _)) rfl) k ?_
  exact State.dropClaims_slotsFree (station gone rfl) k

theorem State.enterClash_noFlow (h : s.station ≠ .clash) (hr : s.restart = false) : s.enterClash.noFlow := by
  intro b
  rw [State.enterClash_eq h]
  refine Moves.noFlow b (State.dayEnd_touch _ _ _) ?_
  unfold State.clashed
  refine State.eachArm_closeDemand_noFlow _ _ _ _ ?_ b
  rw [((State.purgedAll_touch _ _).trans (State.dropClaims_touch _)).beside.restart]
  exact hr

/-- A good frame with the own number, of whichever kind it was taken for, is an entry to CLASH and nothing else (R15). -/
theorem State.receive_own (ho : s.linkOpen = true) (hx : s.link.rx ≠ .skip) (ht : s.link.tx ≠ .sending)
    (hp : parseFrame frame = some (s.cfg.station, f)) (deliver : StationId → Frame → State → State) :
    s.receive frame deliver = (s.dropped frame).enterClash := by
  have shut : (!s.linkOpen || s.link.rx == .skip || s.link.tx == .sending) = false := by simp [ho, hx, ht]
  unfold State.receive
  rw [shut]
  dsimp only [State.modLink]
  rw [hp]
  exact if_pos rfl

/-- Settles O8: by the parts of an entry to CLASH. -/
theorem ownNumberPutsInClash : Obligations.OwnNumberPutsInClash := by
  intro s frame f ho hx ht hp hs c hc
  have clash : (s.dropped frame).station ≠ .clash := hs
  have run := State.receive_own ho hx ht hp
  have taken : exec c s = .next (s.dropped frame).enterClash := by
    simp only [List.mem_cons, List.not_mem_nil, or_false] at hc
    rcases hc with rfl | rfl | rfl | rfl | rfl | rfl | rfl | rfl | rfl | rfl <;> exact congrArg Host.Outcome.next (run _)
  have beside := (State.enterClash_moves clash).beside
  have rest : (s.dropped frame).enterClash.AtRest := by
    rw [State.enterClash_eq clash]
    exact State.dayEnd_atRest _ _ _
  refine ⟨_, taken, beside.station, fun g hg => ?_, State.enterClash_slotsFree clash,
    State.enterClash_noFlow clash (s.linkOpen_iff.mp ho).2, rest.1, rest.2, beside.peers, beside.clock, beside.revoked,
    beside.cfg, beside.mem, beside.ownStop⟩
  rw [State.enterClash_queue clash] at hg
  exact Link.purge_stops _ g hg

end Sys2Proof.Machine
end

section
/-! A collision (R5, R6, R11): the wait, and the frame given up at the 16th attempt with the effect of its kind (O4). -/

namespace Sys2Proof.Machine

variable {s t : State} {l m : Link} {f g : TxFrame} {rest : List TxFrame}

/-! ## The transmitter -/

theorem Link.collide_below {station : StationId} (h : l.attempts + 1 < 16) : l.collide station = ({ l with
    tx := .backoff
    attempts := l.attempts + 1
    wait := 1 + (station.val * 3 + (l.attempts + 1) * 5) % 16 }, none) := if_pos h

theorem Link.collide_stop {station : StationId} (h : l.attempts = 15) (hq : l.queue = f :: rest) (hf : f.tag = .stop) :
    l.collide station = ({ l with
      tx := .backoff
      attempts := 0
      wait := 1 + (station.val * 3 + 80) % 16 }, none) := by
  have last : ¬ l.attempts + 1 < Config.attemptLimit := by rw [h]; decide
  unfold Link.collide
  dsimp only
  rw [if_neg last, hq]
  exact if_pos (TxFrame.isStop_iff.mpr hf)

theorem Link.collide_gives {station : StationId} (h : l.attempts = 15) (hq : l.queue = f :: rest) (hf : f.tag ≠ .stop) :
    l.collide station = (l.frontGone rest, some f) := by
  have last : ¬ l.attempts + 1 < Config.attemptLimit := by rw [h]; decide
  unfold Link.collide
  dsimp only
  rw [if_neg last, ← Link.popFront_eq hq, hq]
  exact if_neg fun k => hf (TxFrame.isStop_iff.mp k)

theorem exec_collision_waits (ht : s.link.tx = .sending) (hc : s.link.collide s.cfg.station = (l, none)) :
    exec .collision s = .next { s with link := l } := by
  show Host.Outcome.next (if s.link.tx = .sending then _ else s) = _
  rw [if_pos ht, hc]

/-- The part whose frame in progress has been given up, its owner not yet told (R6). -/
def State.givenUp (s : State) (rest : List TxFrame) : State := { s with link := s.link.frontGone rest }

theorem exec_collision_gives (ht : s.link.tx = .sending) (hk : s.link.attempts = 15) (hq : s.link.queue = f :: rest)
    (hf : f.tag ≠ .stop) : exec .collision s = .next ((s.givenUp rest).discarded f) := by
  show Host.Outcome.next (if s.link.tx = .sending then _ else s) = _
  rw [if_pos ht, Link.collide_gives hk hq hf]
  rfl

/-! ## A claim withdrawn with nothing to pass its slot on to (R81, R86) -/

/-- A header's slot finds no taker: no arm of the header waits, and every batch queued waits for a retry. -/
structure State.NoTaker (s : State) (h : HeaderId) : Prop where
  arms : ∀ a, (s.armCfg a).header = h → (s.arm a).stepUp ≠ .waiting
  batches : ∀ k ∈ s.startQueue, ∀ b, s.batch k = some b → (s.header (s.gradeHeader b.grade)).retryWait = true

theorem State.NoTaker.scan {h : HeaderId} (n : s.NoTaker h) : s.scan = s := by
  have one (k : CompId) (hk : k ∈ s.startQueue) : s.scanOne k = s := by
    unfold State.scanOne
    split
    · rfl
    · rename_i b hb
      have waits : s.eligible k b = false := by simp [State.eligible, n.batches k hk b hb]
      rw [waits]
      rfl
  have all (q : List CompId) (hq : q ⊆ s.startQueue) : q.foldl State.scanOne s = s := by
    induction q with
    | nil => rfl
    | cons k q ih =>
      rw [List.foldl_cons, one k (hq (.head _))]
      exact ih fun x hx => hq (.tail _ hx)
  unfold State.scan
  rw [all _ (List.Subset.refl _)]
  exact ite_self s

theorem State.NoTaker.passOn {h : HeaderId} (n : s.NoTaker h) : s.passOn h = s := by
  have offer (a : ArmId) : s.offerSlot h a = s := if_neg fun k => n.arms a k.2.1 k.2.2
  have arms : s.passArms h = s := by
    unfold State.passArms allArms
    simp only [List.foldl_cons, List.foldl_nil, offer]
  unfold State.passOn
  dsimp only
  rw [arms, n.scan, ite_self, ite_self]

/-! ## What stays in the queue -/

theorem mem_insertAt_of_mem {n : Nat} {q : List TxFrame} (h : g ∈ q) : g ∈ insertAt n f q := by
  rw [← List.take_append_drop n q] at h
  rcases List.mem_append.mp h with h | h
  · exact List.mem_append_left _ h
  · exact List.mem_append_right _ (.tail _ h)

theorem mem_replaceFirst_of_not {p : TxFrame → Bool} {q : List TxFrame} (hp : p g = false) (h : g ∈ q) :
    g ∈ replaceFirst p f q := by
  induction q with
  | nil => cases h
  | cons x q ih =>
    rw [replaceFirst]
    rcases List.mem_cons.mp h with rfl | h
    · rw [hp]; exact .head _
    · split
      · exact .tail _ h
      · exact .tail _ (ih h)

theorem Link.pushTail_keeps (hg : g ∈ l.queue) : g ∈ (l.pushTail f).1.queue := by
  rw [Link.pushTail_queue]
  split
  · exact List.mem_append_left _ hg
  · exact hg

theorem Link.pushStateHead_keeps (hs : g.isState = false) (hg : g ∈ l.queue) : g ∈ (l.pushStateHead f).queue := by
  have kept : g ∈ l.queue.take 1 ++ (l.queue.drop 1).filter fun x => !x.isState := by
    rw [← List.take_append_drop 1 l.queue] at hg
    rcases List.mem_append.mp hg with hg | hg
    · exact List.mem_append_left _ hg
    · exact List.mem_append_right _ (List.mem_filter.mpr ⟨hg, by simp [hs]⟩)
  unfold Link.pushStateHead
  dsimp only
  split
  · rw [Link.wake_queue]; exact mem_insertAt_of_mem kept
  · exact hg

theorem Link.pushStateTail_keeps (hs : g.isState = false) (hg : g ∈ l.queue) : g ∈ (l.pushStateTail f).queue := by
  unfold Link.pushStateTail
  split
  · exact Link.pushTail_keeps hg
  · rename_i front rest hq
    have member := hg
    rw [hq] at member
    split
    · rcases List.mem_cons.mp member with rfl | hr
      · exact .head _
      · exact .tail _ (mem_replaceFirst_of_not hs hr)
    · split
      · rename_i hf
        rcases List.mem_cons.mp member with rfl | hr
        · simp [hs] at hf
        · exact .tail _ hr
      · exact Link.pushTail_keeps hg

/-- Hand-overs lose no frame but a STATE. -/
theorem Link.Sends.keeps (h : Link.Sends l m) (hs : g.tag ≠ .state) (hg : g ∈ l.queue) : g ∈ m.queue := by
  have other : g.isState = false := by simpa [TxFrame.isState] using hs
  induction h with
  | refl | numbered | announced => exact hg
  | trans _ _ ih ih' => exact ih' (ih hg)
  | tail => exact Link.pushTail_keeps hg
  | stateHead => exact Link.pushStateHead_keeps other hg
  | stateTail => exact Link.pushStateTail_keeps other hg

theorem Link.startIfReady_attempts (l : Link) : l.startIfReady.attempts = l.attempts := by
  unfold Link.startIfReady
  split <;> rfl

theorem Link.wake_attempts (h : l.attempts = 0) : l.wake.attempts = 0 := by
  unfold Link.wake
  rw [Link.startIfReady_attempts]
  split
  · rfl
  · exact h

/-- No attempt is counted against a frame by the hand-over of another (R6). -/
theorem Link.Sends.attempts (h : Link.Sends l m) (ha : l.attempts = 0) : m.attempts = 0 := by
  have tail (l : Link) (f : TxFrame) (ha : l.attempts = 0) : (l.pushTail f).1.attempts = 0 := by
    unfold Link.pushTail
    split
    · exact Link.wake_attempts ha
    · exact ha
  induction h with
  | refl | numbered | announced => exact ha
  | trans _ _ ih ih' => exact ih' (ih ha)
  | tail l f => exact tail l f ha
  | stateHead l f =>
    unfold Link.pushStateHead
    dsimp only
    split
    · exact Link.wake_attempts ha
    · exact ha
  | stateTail l f =>
    unfold Link.pushStateTail
    split
    · exact tail l f ha
    · split
      · exact ha
      · split
        · exact ha
        · exact tail l f ha

/-! ## The discard of a CLAIM (R83, R86) -/

theorem State.discarded_claim {h : HeaderId} {c : Claim} (hf : f.tag = .claim h) (hc : s.claimOfFrame h f.id = some c) :
    s.discarded f = s.withdrawFully h c none := by
  unfold State.discarded
  rw [hf]
  dsimp only
  rw [hc]

theorem State.discarded_claimGone {h : HeaderId} (hf : f.tag = .claim h) (hc : s.claimOfFrame h f.id = none) :
    s.discarded f = s := by
  unfold State.discarded
  rw [hf]
  dsimp only
  rw [hc]

/-- A claim withdrawn whose slot finds no taker. -/
theorem State.withdrawFully_noTaker {h : HeaderId} {c : Claim} (n : (s.withdrawClaim h c.arm c.kind true).NoTaker h) :
    s.withdrawFully h c none = s.withdrawClaim h c.arm c.kind true := by
  unfold State.withdrawFully
  dsimp only
  rw [n.passOn]
  split
  · exact n.scan
  · rfl

/-- The marks that a claim withdrawn leaves on its arm and its header, behind its STATE (R86). -/
theorem State.withdrawClaim_eq (h : HeaderId) (c : Claim) (s : State) : s.withdrawClaim h c.arm c.kind true =
    (s.composeState.modArm c.arm fun m => if c.kind = .low then { m with reserved := none }
      else { m with stepUp := .retryWait }).modHeader h fun x => { x with
        slot := none
        retryTimer := some (s.now + 5000)
        retryWait := if c.kind = .low then true else x.retryWait } := by
  unfold State.withdrawClaim
  rw [if_pos rfl]
  cases c.kind <;> simp [State.modHeader, State.modArm, State.after, Config.retryMs, (State.composeState_moves s).now]

/-- A share move leaves the figures of a STATE (R30). -/
theorem SharesMove.statePayload (h : SharesMove s t) : t.statePayload = s.statePayload := by
  have cls : t.sessionClass = s.sessionClass := by unfold State.sessionClass; rw [h.session]
  have opened : t.sessionOpen = s.sessionOpen := by unfold State.sessionOpen; rw [h.session]
  have permit : t.sessionPermit = s.sessionPermit := by unfold State.sessionPermit; rw [h.session]
  have shared : t.sharedHeaders = s.sharedHeaders := by unfold State.sharedHeaders; simp only [h.ownShare]
  unfold State.statePayload
  simp only [cls, opened, permit, shared, h.ownStop, h.station, h.ownShare]

/-- The STATE of a claim withdrawn is in a queue with room (R86). -/
theorem State.withdrawClaim_announced (h : HeaderId) (c : Claim) (hs : s.Sends) :
    (s.withdrawClaim h c.arm c.kind true).Announced := by
  obtain ⟨f, member, tag, image⟩ := State.composeState_announced hs
  have moves := s.withdrawClaim_moves h c.arm c.kind true
  refine ⟨f, ?_, tag, ?_⟩
  · rw [State.withdrawClaim_eq]; exact member
  · rw [image, moves.statePayload, moves.cfg, s.composeState_moves.statePayload, s.composeState_moves.cfg]

/-- With no arm of the header waiting and no batch queued but low ones of the header, the slot of a claim withdrawn finds no
taker: the header's retry wait flag keeps the batches back. -/
theorem State.withdrawClaim_noTaker (h : HeaderId) (c : Claim) (hw : ∀ a, (s.armCfg a).header = h → (s.arm a).stepUp ≠ .waiting)
    (hb : ∀ k ∈ s.startQueue, c.kind = .low ∧ ∀ b, s.batch k = some b → (s.gradeCfg b.grade).header = h) :
    (s.withdrawClaim h c.arm c.kind true).NoTaker h := by
  have compose : s.composeState = { s with link := s.composeState.link, periodTimer := s.composeState.periodTimer } :=
    s.composeState_sameButLink
  rw [State.withdrawClaim_eq, compose]
  refine ⟨fun a ha => ?_, fun k hk b hkb => ?_⟩
  · rw [State.arm_modHeader, State.arm_modArm]
    split
    · rename_i e
      subst e
      split
      · exact hw _ ha
      · nofun
    · exact hw a ha
  · obtain ⟨low, header⟩ := hb k hk
    rw [State.header_modHeader]
    exact (congrArg Header.retryWait (if_pos (header b hkb))).trans (if_pos low)

/-- Settles O4: by the attempt count and the kind of the frame in progress. -/
theorem collision : Obligations.Collision := by
  refine ⟨fun s ht hk => exec_collision_waits ht (Link.collide_below hk), fun s f rest ht hk hq => ⟨fun hf => ?_, fun hf => ?_,
    fun hf hs hid => ?_, fun n hf => ?_, fun h hf hc => ?_, fun h c hf hc hid hp ho hw hb => ?_⟩⟩
  · exact exec_collision_waits ht (Link.collide_stop hk hq hf)
  · rw [exec_collision_gives ht hk hq (by rcases hf with hf | ⟨h, hf⟩ <;> simp [hf])]
    unfold State.discarded
    rcases hf with hf | ⟨h, hf⟩ <;> rw [hf] <;> rfl
  · rw [exec_collision_gives ht hk hq (by simp [hf])]
    unfold State.discarded
    rw [hf]
    exact congrArg Host.Outcome.next ((if_pos hid).trans (State.checkFail_checking (s := s.givenUp rest) .linkBusy hs))
  · rw [exec_collision_gives ht hk hq (by simp [hf])]
    unfold State.discarded
    rw [hf]
    rfl
  · rw [exec_collision_gives ht hk hq (by simp [hf]), State.discarded_claimGone (s := s.givenUp rest) hf (State.claimOfFrame_none hc)]
    rfl
  · have claim : (s.givenUp rest).claimOfFrame h f.id = some c := by
      rw [← hid]
      exact State.claimOfFrame_some (s := s.givenUp rest) hc hp
    have taker := State.withdrawClaim_noTaker (s := s.givenUp rest) h c hw hb
    rw [exec_collision_gives ht hk hq (by simp [hf]), State.discarded_claim hf claim, State.withdrawFully_noTaker taker]
    refine ⟨_, rfl, ?_, fun hs hr => State.withdrawClaim_announced h c ⟨ho, hs, ?_⟩, ?_, fun g hg ht => ?_⟩
    · rw [State.withdrawClaim_eq, State.composeState_open (s := s.givenUp rest) ho]
      rfl
    · rw [hq] at hr
      exact Nat.lt_of_succ_le hr
    · exact (State.withdrawClaim_moves _ _ _ _ _).sends.attempts rfl
    · exact (State.withdrawClaim_moves _ _ _ _ _).sends.keeps ht hg

end Sys2Proof.Machine
end

section
/-! A STOP handed over (R8 to R10): its place, and the frame that it displaces (O6). -/

namespace Sys2Proof.Machine

variable {l : Link} {f g : TxFrame}

/-! ## The newest frame (R10) -/

/-- The later of the newest frame so far and the next, a STOP passed over. -/
def newerFrame (best : Option TxFrame) (f : TxFrame) : Option TxFrame :=
  if f.isStop then best
  else
    match best with
    | some g => if g.id < f.id then some f else best
    | none => some f

theorem newestNonStop_eq (w : List TxFrame) : newestNonStop w = w.foldl newerFrame none := rfl

theorem newerFrame_newest (best : Option TxFrame) (hf : f.isStop = false) : ∃ g, newerFrame best f = some g ∧ f.id ≤ g.id ∧
    ∀ x, best = some x → x.id ≤ g.id := by
  unfold newerFrame
  rw [hf]
  cases best with
  | none => exact ⟨f, rfl, le_refl _, nofun⟩
  | some y =>
    by_cases h : y.id < f.id
    · exact ⟨f, if_pos h, le_refl _, fun x hx => by cases hx; omega⟩
    · exact ⟨y, if_neg h, by omega, fun x hx => by cases hx; exact le_refl _⟩

theorem foldl_newerFrame (w : List TxFrame) (hw : ∀ x ∈ w, x.isStop = false) (best : TxFrame) :
    ∃ g, w.foldl newerFrame (some best) = some g ∧ (∀ x ∈ w, x.id ≤ g.id) ∧ best.id ≤ g.id := by
  induction w generalizing best with
  | nil => exact ⟨best, rfl, nofun, le_refl _⟩
  | cons f w ih =>
    obtain ⟨y, hy, hf, hb⟩ := newerFrame_newest (some best) (hw f (.head _))
    obtain ⟨g, hg, later, newest⟩ := ih (fun x hx => hw x (.tail _ hx)) y
    refine ⟨g, by rw [List.foldl_cons, hy, hg], fun x hx => ?_, le_trans (hb best rfl) newest⟩
    rcases List.mem_cons.mp hx with rfl | hx
    · exact le_trans hf newest
    · exact later x hx

/-- Of frames that wait with no STOP among them the newest is the one with the highest number. -/
theorem newestNonStop_newest {w : List TxFrame} (hw : ∀ x ∈ w, x.isStop = false) (hn : w ≠ []) :
    ∃ g, newestNonStop w = some g ∧ ∀ x ∈ w, x.id ≤ g.id := by
  cases w with
  | nil => exact absurd rfl hn
  | cons f w =>
    have first : newerFrame none f = some f := by unfold newerFrame; rw [hw f (.head _)]; rfl
    obtain ⟨g, hg, later, newest⟩ := foldl_newerFrame w (fun x hx => hw x (.tail _ hx)) f
    refine ⟨g, by rw [newestNonStop_eq, List.foldl_cons, first, hg], fun x hx => ?_⟩
    rcases List.mem_cons.mp hx with rfl | hx
    · exact newest
    · exact later x hx

/-- With distinct numbers one frame alone is displaced. -/
theorem filter_id_split {q : List TxFrame} (hp : q.Pairwise fun a b => a.id ≠ b.id) (hg : g ∈ q) :
    ∃ before after, q = before ++ g :: after ∧ q.filter (·.id != g.id) = before ++ after := by
  obtain ⟨before, after, rfl⟩ := List.append_of_mem hg
  refine ⟨before, after, rfl, ?_⟩
  obtain ⟨-, tail, across⟩ := List.pairwise_append.mp hp
  have kept (r : List TxFrame) (hr : ∀ x ∈ r, x.id ≠ g.id) : r.filter (·.id != g.id) = r :=
    List.filter_eq_self.mpr fun x hx => bne_iff_ne.mpr (hr x hx)
  rw [List.filter_append, kept before fun x hx => across x hx g (.head _), List.filter_cons_of_neg (by simp),
    kept after fun x hx => ((List.pairwise_cons.mp tail).1 x hx).symm]

/-! ## The places of a STOP (R8 to R10) -/

theorem Link.pushStop_merged (h : ∃ g ∈ l.waiting, g.tag = .stop) : l.pushStop f = (l, none) := by
  obtain ⟨g, hg, ht⟩ := h
  exact if_pos (List.any_eq_true.mpr ⟨g, hg, TxFrame.isStop_iff.mpr ht⟩)

theorem Link.no_stop_waits (h : ∀ g ∈ l.waiting, g.tag ≠ .stop) : l.waiting.any TxFrame.isStop = false := by
  simpa [TxFrame.isStop] using h

theorem Link.pushStop_room (h : ∀ g ∈ l.waiting, g.tag ≠ .stop) (hr : l.queue.length < 8) :
    l.pushStop f = (l.enterStop f l.queue, none) := by
  unfold Link.pushStop
  rw [Link.no_stop_waits h]
  exact if_pos hr

theorem Link.pushStop_full (h : ∀ g ∈ l.waiting, g.tag ≠ .stop) (hr : l.queue.length = 8)
    (hg : newestNonStop l.waiting = some g) :
    l.pushStop f = (l.enterStop f (l.queue.filter (·.id != g.id)), some g) := by
  have full : ¬ l.queue.length < Config.txCapacity := by rw [hr]; decide
  unfold Link.pushStop
  simp only [Link.no_stop_waits h, Bool.false_eq_true, if_false, if_neg full, hg]

theorem Link.Settled.pushStop (h : l.Settled) (f : TxFrame) : (l.pushStop f).1 = { l with queue := (l.pushStop f).1.queue } := by
  unfold Link.pushStop
  split
  · rfl
  · split
    · exact h.enterStop f _
    · split
      · rfl
      · exact h.enterStop f _

theorem Link.pushStop_first (h : l.queue = []) (f : TxFrame) : (l.pushStop f).1 = ({ l with queue := [f] } : Link).wake := by
  have none : l.waiting = [] := List.subset_nil.mp (h ▸ l.waiting_subset)
  rw [Link.pushStop_room (by simp [none]) (by simp [h]), h]
  unfold Link.enterStop
  simp [headPlace, insertAt, oneStateWaits]

theorem Link.waiting_of_full (hr : l.queue.length = 8) : l.waiting ≠ [] := by
  intro h
  have shorter : l.queue.length ≤ l.waiting.length + 1 := by
    unfold Link.waiting
    split
    · rw [List.length_drop]; omega
    · omega
  rw [h, hr] at shorter
  exact absurd shorter (by decide)

/-- A queue without one of the frames that wait has no more waiting than before. -/
theorem Link.waiting_without {before after : List TxFrame} (hq : l.queue = before ++ g :: after) (hg : g ∈ l.waiting)
    (hn : l.queue.Pairwise fun a b => a.id ≠ b.id) :
    ∀ x ∈ (if l.inProgress then (before ++ after).drop 1 else before ++ after), x ∈ l.waiting := by
  unfold Link.waiting at *
  split
  · rename_i hp
    rw [if_pos hp, hq] at hg
    rw [hq]
    cases before with
    | nil =>
      have alone := (List.pairwise_cons.mp (hq ▸ hn)).1 g hg
      exact absurd rfl alone
    | cons y before =>
      intro x hx
      simp only [List.cons_append, List.drop_succ_cons, List.drop_zero, List.mem_append, List.mem_cons] at hx ⊢
      exact hx.imp_right .inr
  · rw [hq]
    intro x hx
    simp only [List.mem_append, List.mem_cons] at hx ⊢
    exact hx.imp_right .inr

/-- Settles O6: by what waits and by the room there is. -/
theorem stopDisplacesTheNewest : Obligations.StopDisplacesTheNewest := by
  intro l f hf sound
  refine ⟨Link.pushStop_merged, fun hw => ⟨fun hr => ?_, fun hr hn => ?_, fun hq hs => ?_, fun hq hi => ?_, fun hq hi => ?_⟩⟩
  · rw [Link.pushStop_room hw hr]
    exact ⟨rfl, Link.enterStop_entered _ hw⟩
  · obtain ⟨g, hg, newest⟩ := newestNonStop_newest (fun x hx => by simpa [TxFrame.isStop] using hw x hx) (Link.waiting_of_full hr)
    have waits := newestNonStop_mem _ _ hg
    obtain ⟨before, after, hq, kept⟩ := filter_id_split hn (l.waiting_subset waits)
    rw [Link.pushStop_full hw hr hg, kept]
    exact ⟨before, g, after, hq, waits, newest, rfl,
      Link.enterStop_entered _ fun x hx => hw x (Link.waiting_without hq waits hn x hx)⟩
  · refine Link.Settled.pushStop ⟨fun h => hq (sound.empty.mp h), fun h => hs.resolve_left ?_⟩ f
    simp [Link.inProgress, h]
  · have first : ({ l with queue := [f] } : Link).wake = _ := Link.wake_empty_busy (sound.empty.mpr hq) hi
    rw [Link.pushStop_first hq, first]
  · have first : ({ l with queue := [f] } : Link).wake = _ := Link.wake_empty_idle (sound.empty.mpr hq) hi
    rw [Link.pushStop_first hq, first]
    exact ⟨rfl, rfl, rfl, rfl⟩

end Sys2Proof.Machine
end

section
/-! PRESENT (R34, R37, R38, R189): the card read, the checks in order, the entry to CHECKING (O19). -/

namespace Sys2Proof.Machine

variable {s : State} {card : List Byte} {p : Permit}

/-! ## Fields -/

theorem asFin_eq_some {m n : Nat} {x : Fin m} : asFin m n = some x ↔ x.val = n := by
  unfold asFin
  split
  · rename_i h
    exact ⟨fun e => by cases e; rfl, fun e => congrArg some (Fin.ext e.symm)⟩
  · rename_i h
    exact ⟨nofun, fun e => absurd (e ▸ x.isLt) h⟩

theorem fieldAt_one (bs : List Byte) (n : Nat) : fieldAt bs n 1 = (bs.getD n 0).toNat := by
  unfold fieldAt
  rw [List.getD_eq_getElem?_getD]
  cases h : bs.drop n with
  | nil =>
    have short : bs.length ≤ n := List.drop_eq_nil_iff.mp h
    rw [List.getElem?_eq_none short]
    rfl
  | cons b rest =>
    have item : bs[n]? = some b := by rw [← List.head?_drop, h]; rfl
    rw [item]
    simp [beValue]

/-- A record's check value agrees when the CRC of the rest is in its last two bytes. -/
theorem checkAgrees_iff (bs : List Byte) : checkAgrees bs = true ↔ 2 ≤ bs.length ∧
    crc16 (bs.take (bs.length - 2)) = fieldAt bs (bs.length - 2) 2 := by
  have whole (h : 2 ≤ bs.length) : (bs.drop (bs.length - 2)).take 2 = bs.drop (bs.length - 2) :=
    List.take_of_length_le (by rw [List.length_drop]; omega)
  unfold checkAgrees fieldAt
  simp only [Bool.and_eq_true, decide_eq_true_eq, beq_iff_eq]
  exact and_congr_right fun h => by rw [whole h]

/-! ## The card record (R34, R189) -/

theorem parseCard_iff : parseCard card = some p ↔
    card.length = 12 ∧ crc16 (card.take 10) = fieldAt card 10 2 ∧ fieldAt card 0 4 ≠ 0 ∧ fieldAt card 7 1 ≤ 3 ∧
      p.id = fieldAt card 0 4 ∧ p.carrier = fieldAt card 4 2 ∧ p.groups.toNat = fieldAt card 6 1 ∧
      p.cls.val = fieldAt card 7 1 ∧ p.expiry = fieldAt card 8 2 := by
  have fields : ((asFin 4 (fieldAt card 7 1)).map fun cls =>
      (⟨fieldAt card 0 4, fieldAt card 4 2, card.getD 6 0, cls, fieldAt card 8 2⟩ : Permit)) = some p ↔
      fieldAt card 7 1 ≤ 3 ∧ p.id = fieldAt card 0 4 ∧ p.carrier = fieldAt card 4 2 ∧ p.groups.toNat = fieldAt card 6 1 ∧
        p.cls.val = fieldAt card 7 1 ∧ p.expiry = fieldAt card 8 2 := by
    rw [Option.map_eq_some_iff, fieldAt_one card 6]
    constructor
    · rintro ⟨cls, hc, rfl⟩
      have value := asFin_eq_some.mp hc
      exact ⟨by omega, rfl, rfl, rfl, value, rfl⟩
    · rintro ⟨-, hid, hcarrier, hgroups, hcls, hexpiry⟩
      refine ⟨p.cls, asFin_eq_some.mpr hcls, ?_⟩
      rw [← hid, ← hcarrier, ← hexpiry, ← BitVec.eq_of_toNat_eq hgroups]
  unfold parseCard
  rw [Option.ite_none_right_eq_some, fields, checkAgrees_iff]
  constructor
  · rintro ⟨⟨len, ⟨-, crc⟩, id⟩, rest⟩
    rw [len] at crc
    exact ⟨len, crc, id, rest⟩
  · rintro ⟨len, crc, id, rest⟩
    exact ⟨⟨len, ⟨by omega, by rw [len]; exact crc⟩, id⟩, rest⟩

/-! ## The checks in order (R37) -/

/-- The outcome of a list of refusals: the first, or what follows when none holds. -/
def refusedOr {α : Type} (pass : Except Reason α) : Option Reason → Except Reason α
  | some r => .error r
  | none => pass

theorem refusedOr_ite {α : Type} {c d : Prop} [Decidable c] [Decidable d] {x pass : Except Reason α} {r : Reason}
    {rest : Option Reason} (hcd : c ↔ d) (h : ¬d → x = refusedOr pass rest) :
    (if c then .error r else x) = refusedOr pass (if d then some r else rest) := by
  by_cases hd : d
  · rw [if_pos hd, if_pos (hcd.mpr hd)]; rfl
  · rw [if_neg hd, if_neg (mt hcd.mp hd)]; exact h hd

theorem firstOf_cons (b : Bool) (r : Reason) (tests : List (Bool × Reason)) :
    firstOf ((b, r) :: tests) = if b = true then some r else firstOf tests := by
  unfold firstOf
  rw [List.find?_cons]
  cases b <;> rfl

/-- The ten tests of R37, in order. -/
def State.presentTests (s : State) (p : Permit) : List (Bool × Reason) :=
  [(decide (s.station = .clash), .clash), (decide (s.station = .starting), .starting),
    (decide (s.session.state ≠ .none), .busy), (decide (s.clock.dateKnown = false), .noDate),
    (decide (p.expiry < s.clock.day), .expired), (decide (∃ r ∈ s.revoked, r.permit = p.id), .revoked),
    (s.retention.fault, .storeFault), (decide (16 ≤ s.notes.store.length), .noteStoreFull),
    (decide (s.socketView = none ∨ s.monitor.ground = false), .noTanker),
    (decide (∃ q, q ≠ s.cfg.station ∧ s.peers[q].fresh ≠ .gone ∧ s.peers[q].permit = some p.id), .inUse)]

theorem State.permitInUse_iff (s : State) (n : Nat) : s.permitInUse n = true ↔
    ∃ q, q ≠ s.cfg.station ∧ s.peers[q].fresh ≠ .gone ∧ s.peers[q].permit = some n := by
  have every (q : StationId) : q ∈ allStations := by revert q; decide
  unfold State.permitInUse
  rw [List.any_eq_true]
  exact ⟨fun ⟨q, _, h⟩ => ⟨q, by simpa [State.countsPeer, State.peer, and_assoc] using h⟩,
    fun ⟨q, h⟩ => ⟨q, every q, by simpa [State.countsPeer, State.peer, and_assoc] using h⟩⟩

theorem State.admission_eq (hp : parseCard card = some p) : s.admission card =
    refusedOr (match s.socketView with
      | some t => .ok (p, t)
      | none => .error .noTanker) (firstOf (s.presentTests p)) := by
  unfold State.admission State.presentTests
  rw [hp]
  simp only [firstOf_cons, decide_eq_true_eq]
  refine refusedOr_ite Iff.rfl fun _ => refusedOr_ite Iff.rfl fun _ => refusedOr_ite Iff.rfl fun _ =>
    refusedOr_ite Iff.rfl fun _ => refusedOr_ite Iff.rfl fun _ => refusedOr_ite (by simp) fun _ =>
    refusedOr_ite Iff.rfl fun _ => refusedOr_ite Iff.rfl fun _ => ?_
  split
  · rename_i hv
    rw [if_pos (.inl hv)]
    rfl
  · rename_i t hv
    rw [hv]
    exact refusedOr_ite (by simp) fun _ => refusedOr_ite (State.permitInUse_iff s p.id) fun _ => rfl

/-! ## A request taken (R49, R185) -/

theorem State.restartIdle_eq (s : State) : s.restartIdle = s.asked := by
  unfold State.restartIdle State.asked
  split
  · rename_i h
    have same : { s.session with idle := none } = s.session := by rw [← h]
    rw [h, Option.map_none, same]
  · rename_i h
    obtain ⟨d, hd⟩ := Option.ne_none_iff_exists'.mp h
    rw [hd, Option.map_some]
    rfl

/-- A request within its ranges, the port free: the owner answers on the part with its idle timer restarted. -/
theorem State.request_asks (h : s.Asks) (owner : State → State × Answer) :
    s.request true owner = (owner s.asked).1.answer (owner s.asked).2 := by
  have receiving : s.panel.atFrameEnd = .receiving := by simp [Panel.atFrameEnd, h.port, h.clear]
  unfold State.request State.frameEnd
  rw [receiving]
  dsimp only
  rw [if_neg (by simp), if_neg h.station, if_neg (by simp [h.restart]), State.restartIdle_eq]

theorem State.answer_eq (h : s.panel.discarding = false) (a : Answer) : s.answer a = s.answered a := by
  unfold State.answer State.answered
  dsimp only
  rw [h]

/-! ## Entry to CHECKING (R38, R11) -/

/-- The session as its entry to CHECKING leaves it. -/
def State.checking (s : State) (p : Permit) (t : Tag) : State :=
  { s with session := { s.session with
      state := .checking
      permit := some p
      tag := some t
      start := none
      endReason := none
      outcome := none
      window := none
      checkFrame := s.link.nextId } }

theorem Link.pushTail_room {l : Link} {f : TxFrame} (h : l.queue.length < 8) :
    l.pushTail f = (({ l with queue := l.queue ++ [f] } : Link).wake, true) := if_pos h

theorem Link.pushTail_full {l : Link} {f : TxFrame} (h : 8 ≤ l.queue.length) : l.pushTail f = (l, false) :=
  if_neg (Nat.not_lt.mpr h)

theorem State.handTail_eq (ho : s.linkOpen = true) (hs : s.station ≠ .clash) (tag : FrameTag) (payload : List Byte) :
    s.handTail tag payload = ({ s with link := (s.link.pushTail (s.frameNow tag payload)).1.numbered },
      if (s.link.pushTail (s.frameNow tag payload)).2 then .taken else .full) := by
  unfold State.handTail
  rw [if_neg (by simp [ho]), if_neg hs]

/-- A PERMIT-CLAIM finds room at the tail. -/
theorem State.beginCheck_room {t : Tag} (ho : s.linkOpen = true) (hs : s.station ≠ .clash) (hr : s.link.queue.length < 8) :
    ∃ l : Link, l.queue = s.link.queue ++ [⟨s.link.nextId, .permitClaim, lineImage s.cfg.station 4 (beBytes 4 p.id)⟩] ∧
      s.beginCheck p t = { s.checking p t with link := l } := by
  have handed := State.handTail_eq (s := s.checking p t) ho hs .permitClaim (beBytes 4 p.id)
  rw [Link.pushTail_room (l := (s.checking p t).link) hr] at handed
  have entered : s.beginCheck p t = { s.checking p t with link := Link.numbered (Link.wake { s.link with
      queue := s.link.queue ++ [(s.checking p t).frameNow .permitClaim (beBytes 4 p.id)] }) } := by
    show (match ((s.checking p t).handTail .permitClaim (beBytes 4 p.id)).2 with
      | .full => _
      | .clash => _
      | _ => ((s.checking p t).handTail .permitClaim (beBytes 4 p.id)).1) = _
    rw [handed]
    rfl
  exact ⟨_, Link.wake_queue, entered⟩

/-- A full queue turns the PERMIT-CLAIM away, and the check ends LINK_BUSY. -/
theorem State.beginCheck_full {t : Tag} (ho : s.linkOpen = true) (hs : s.station ≠ .clash) (hr : 8 ≤ s.link.queue.length) :
    s.beginCheck p t = { s.checking p t with
      link := s.link.numbered
      session := { (s.checking p t).session with
        state := .none
        permit := none
        tag := none
        window := none
        outcome := some .linkBusy } } := by
  have handed := State.handTail_eq (s := s.checking p t) ho hs .permitClaim (beBytes 4 p.id)
  rw [Link.pushTail_full (l := (s.checking p t).link) hr] at handed
  show (match ((s.checking p t).handTail .permitClaim (beBytes 4 p.id)).2 with
    | .full => ((s.checking p t).handTail .permitClaim (beBytes 4 p.id)).1.checkFail .linkBusy
    | .clash => _
    | _ => _) = _
  rw [handed]
  exact State.checkFail_checking _ rfl

theorem exec_present (h : s.Asks) (hl : card.length = 12) :
    exec (.present card) s = .next ((s.asked.presentCard card).1.answer (s.asked.presentCard card).2) := by
  have length : (card.length == 12) = true := by rw [hl]; rfl
  show Host.Outcome.next (s.request (card.length == 12) (State.presentCard card)) = _
  rw [length, State.request_asks h]

theorem State.presentCard_refused {r : Reason} (h : s.admission card = .error r) :
    s.presentCard card = (s, .refused r) := by
  unfold State.presentCard
  rw [h]

theorem State.presentCard_ok {t : Tag} (h : s.admission card = .ok (p, t)) :
    s.presentCard card = (s.beginCheck p t, .pending) := by
  unfold State.presentCard
  rw [h]

/-- Settles O19: the card by its fields, the refusal by the first test that holds, the entry to CHECKING by the room there is. -/
theorem present : Obligations.Present := by
  refine ⟨fun card p => parseCard_iff, fun s card asks hl => ⟨fun hc => ?_, ?_⟩⟩
  · have refused : s.asked.admission card = .error .badCard := by unfold State.admission; rw [hc]
    rw [exec_present asks hl, State.presentCard_refused refused, State.answer_eq (s := s.asked) asks.clear]
  intro p hp refusal
  have admission : s.asked.admission card = refusedOr (match s.socketView with
      | some t => .ok (p, t)
      | none => .error .noTanker) refusal := State.admission_eq (s := s.asked) hp
  have passes (t : Tag) (hn : refusal = none) (hv : s.socketView = some t) : s.asked.admission card = .ok (p, t) := by
    rw [admission, hn, hv]
    rfl
  have opened : s.asked.linkOpen = true := (s.linkOpen_iff).mpr ⟨asks.station, asks.restart⟩
  have clear (hn : refusal = none) : s.asked.station ≠ .clash := by
    intro h
    have first : refusal = some .clash := by
      have holds : decide (s.station = .clash) = true := decide_eq_true h
      show firstOf _ = _
      rw [firstOf_cons, if_pos holds]
    rw [hn] at first
    cases first
  have taken (t : Tag) (hn : refusal = none) (hv : s.socketView = some t)
      (hx : (s.asked.beginCheck p t).panel = s.panel) :
      exec (.present card) s = .next ((s.asked.beginCheck p t).answered .pending) := by
    rw [exec_present asks hl, State.presentCard_ok (passes t hn hv)]
    exact congrArg Host.Outcome.next (State.answer_eq (by rw [hx]; exact asks.clear) _)
  refine ⟨fun r hr => ?_, fun t hn hv hq => ?_, fun t hn hv hq => ?_⟩
  · have refused : s.asked.admission card = .error r := by rw [admission, hr]; rfl
    rw [exec_present asks hl, State.presentCard_refused refused, State.answer_eq (s := s.asked) asks.clear]
  · obtain ⟨l, queue, entered⟩ := State.beginCheck_room (s := s.asked) (p := p) (t := t) opened (clear hn) hq
    refine ⟨l, queue, ?_⟩
    rw [taken t hn hv (by rw [entered]; rfl), entered]
    rfl
  · have entered := State.beginCheck_full (s := s.asked) (p := p) (t := t) opened (clear hn) hq
    refine ⟨_, taken t hn hv (by rw [entered]; rfl), ?_⟩
    rw [entered]
    exact ⟨rfl, rfl, rfl, rfl, rfl⟩

end Sys2Proof.Machine
end

section
/-! The RESTART line asserted (R19, R29, R40, R54, R87, R98, R112, R139, R153, R167, R181): O50. -/

namespace Sys2Proof.Machine

variable {s : State}

/-! ## A change of every arm and of every injector -/

/-- Four entries changed one by one are each changed on its own. -/
theorem vec4_of_sets {α : Type} (f : Fin 4 → α → α) (g : Fin 4 → Vector α 4 → Vector α 4)
    (hg : ∀ i w, g i w = w.set i (f i w[i])) (v : Vector α 4) : g 3 (g 2 (g 1 (g 0 v))) = vec4 fun i => f i v[i] := by
  simp only [hg]
  refine vector_ext_fin fun i => ?_
  rw [vec4_get]
  fin_cases i <;> simp

theorem State.eachArm_modArm (f : ArmId → Arm → Arm) (s : State) :
    (s.eachArm fun a x => x.modArm a (f a)) = { s with arms := vec4 fun a => f a (s.arm a) } :=
  congrArg (fun v => { s with arms := v }) (vec4_of_sets f (fun a v => v.set a (f a v[a])) (fun _ _ => rfl) s.arms)

theorem State.eachInjector_modInjector (f : InjectorId → Injector → Injector) (s : State) :
    (s.eachInjector fun i x => x.modInjector i (f i)) = { s with injectors := vec4 fun i => f i (s.injector i) } :=
  congrArg (fun v => { s with injectors := v })
    (vec4_of_sets f (fun i v => v.set i (f i v[i])) (fun _ _ => rfl) s.injectors)

theorem State.modArm_id (a : ArmId) (s : State) : (s.modArm a fun m => m) = s := by
  have same : s.arms.set a s.arms[a] = s.arms := Vector.set_getElem_self _
  unfold State.modArm
  rw [same]

theorem State.modInjector_id (i : InjectorId) (s : State) : (s.modInjector i fun x => x) = s := by
  have same : s.injectors.set i s.injectors[i] = s.injectors := Vector.set_getElem_self _
  unfold State.modInjector
  rw [same]

/-! ## Arms and shots at the assertion -/

/-- Entry to CLOSING holds the share, so own steady share stays (R77). -/
theorem State.moveStage_closing (a : ArmId) (s : State) : s.moveStage a .closing =
    s.modArm a fun m => { m with stage := .closing, heldShare := stageShare (s.armCfg a) m } := by
  have share (x : Header) (n : Nat) : { x with ownShare := x.ownShare + n - n } = x := by rw [Nat.add_sub_cancel]
  have headers : s.headers.set (s.armCfg a).header s.headers[(s.armCfg a).header] = s.headers := Vector.set_getElem_self _
  unfold State.moveStage State.modArm
  dsimp only [stageShare]
  rw [share, headers]
  rfl

/-- An arm as the assertion leaves it. -/
def Arm.stopped (c : ArmCfg) (m : Arm) : Arm :=
  if m.stage.flowing then
    { m.atAssertion with
      stage := .closing
      heldShare := stageShare c m
      close := some ⟨.stop, .restart, .fast, .settle⟩
      leak := false }
  else m.atAssertion

theorem Arm.stopped_still {c : ArmCfg} {m : Arm} (h : m.stage.flowing = false) : m.stopped c = m.atAssertion := by
  unfold Arm.stopped
  rw [h]
  rfl

theorem Arm.stopped_flowing {c : ArmCfg} {m : Arm} (h : m.stage.flowing = true) : m.stopped c = { m.atAssertion with
    stage := .closing
    heldShare := stageShare c m
    close := some ⟨.stop, .restart, .fast, .settle⟩
    leak := false } := by
  unfold Arm.stopped
  rw [h]
  rfl

theorem State.modArm_congr {a : ArmId} {f g : Arm → Arm} (h : f (s.arm a) = g (s.arm a)) : s.modArm a f = s.modArm a g :=
  congrArg (fun m => { s with arms := s.arms.set a m }) h

theorem State.modArm_modArm (a : ArmId) (f g : Arm → Arm) (s : State) :
    (s.modArm a f).modArm a g = s.modArm a fun m => g (f m) := by
  simp [State.modArm]

theorem State.stopArm_eq (a : ArmId) (s : State) : s.stopArm a = s.modArm a (Arm.stopped (s.armCfg a)) := by
  unfold State.stopArm
  cases h : (s.arm a).stage.flowing
  · exact State.modArm_congr (Arm.stopped_still h).symm
  · dsimp only
    rw [if_pos rfl, State.moveStage_closing, State.modArm_modArm]
    exact State.modArm_congr (Arm.stopped_flowing h).symm

/-- A shot as its forced end leaves it (R145). -/
def Injector.cutShort (x : Injector) : Injector :=
  if x.firing then
    { x with
      firing := false
      width := none
      window := x.window.map fun w => { w with cut := true } }
  else x

theorem Injector.cutShort_firing (x : Injector) : x.cutShort.firing = false := by
  unfold Injector.cutShort
  cases h : x.firing
  · exact h
  · rfl

theorem Injector.cutShort_window {x : Injector} {w : Window} (h : x.firing = true) (hw : x.window = some w) :
    x.cutShort.window = some { w with cut := true } := by
  unfold Injector.cutShort
  rw [h, if_pos rfl, hw]
  rfl

theorem State.modInjector_congr {i : InjectorId} {f g : Injector → Injector} (h : f (s.injector i) = g (s.injector i)) :
    s.modInjector i f = s.modInjector i g := congrArg (fun x => { s with injectors := s.injectors.set i x }) h

theorem State.endShot_cut (i : InjectorId) (s : State) : s.endShot true i = s.modInjector i Injector.cutShort := by
  unfold State.endShot
  split
  · rename_i h
    refine State.modInjector_congr ?_
    simp [Injector.cutShort, h]
  · rename_i h
    refine (s.modInjector_id i).symm.trans (State.modInjector_congr ?_)
    simp [Injector.cutShort, h]

theorem State.cutAllShots_eq (s : State) : s.cutAllShots = { s with injectors := vec4 fun i => (s.injector i).cutShort } := by
  rw [← State.eachInjector_modInjector]
  simp only [State.cutAllShots, State.eachInjector, State.endShot_cut]

/-! ## The whole assertion -/

/-- The session as the end of a check leaves it (R40). -/
def Session.failed (r : Reason) (x : Session) : Session :=
  if x.state = .checking then
    { x with
      state := .none
      permit := none
      tag := none
      window := none
      outcome := some r }
  else x

theorem State.checkFail_eq (r : Reason) (s : State) : s.checkFail r = { s with session := s.session.failed r } := by
  unfold State.checkFail Session.failed
  split <;> rfl

/-- The part as the assertion leaves it: every block by its own rule. -/
theorem State.assertRestart_eq (s : State) : s.assertRestart = { s with
    restart := true
    station := s.station.atAssertion
    listenTimer := none
    periodTimer := none
    link := s.link.emptied
    session := { s.session.failed .restart with
      idle := none
      socketTimer := none
      window := none }
    headers := vec8 fun h => (s.header h).atAssertion
    arms := vec4 fun a => (s.arm a).stopped (s.armCfg a)
    injectors := vec4 fun i => (s.injector i).cutShort
    monitor := { s.monitor with
      deadmanTimer := none
      jam := none
      horn := false } } := by
  have arms (x : State) : x.eachArm State.stopArm = { x with arms := vec4 fun a => (x.arm a).stopped (x.armCfg a) } := by
    rw [← State.eachArm_modArm]
    simp only [State.eachArm, State.stopArm_eq]
    rfl
  unfold State.assertRestart
  simp only [State.checkFail_eq, arms, State.cutAllShots_eq]
  rfl

/-- Settles O50: by the blocks. -/
theorem restartAsserted : Obligations.RestartAsserted := by
  intro s hr hs
  have runs : exec .restartAsserted s = .next s.assertRestart := by
    show Host.Outcome.next (if s.restart = true then s else _) = _
    rw [if_neg (by simp [hr]), if_neg hs]
  rw [runs, State.assertRestart_eq]
  refine ⟨_, rfl, rfl, ?_, rfl, rfl, rfl, fun h => vec8_get _ h, fun a => ?_, fun i => ?_, rfl, rfl, rfl, fun hc => ?_,
    fun hc => ?_, rfl, rfl, rfl, rfl, rfl, rfl, rfl, rfl⟩
  · cases s.station <;> rfl
  · simp only [State.lowSolenoid, State.mainSolenoid, State.arm, vec4_get]
    refine ⟨rfl, rfl, ?_⟩
    cases h : s.arms[a].stage.flowing
    · rw [Arm.stopped_still h]
      simp [Arm.atAssertion]
    · rw [Arm.stopped_flowing h]
      simp [Arm.atAssertion]
  · simp only [State.injector, vec4_get]
    exact ⟨Injector.cutShort_firing _, fun h w hw => Injector.cutShort_window h hw⟩
  · simp [Session.failed, hc]
  · simp [Session.failed, hc]

end Sys2Proof.Machine
end

section
/-! A withdrawal (R158): what it does to the arms, the shots and the claims, and what it hands over. -/

namespace Sys2Proof.Machine

variable {s t u : State} {L : List Touch}

/-! ## What a run of closes leaves -/

/-- Everything but the flow side and the transmit queue is as it was. -/
def State.SameButFlow (s t : State) : Prop := t = { s with
  arms := t.arms
  headers := t.headers
  injectors := t.injectors
  link := t.link
  periodTimer := t.periodTimer }

theorem State.SameButFlow.refl (s : State) : s.SameButFlow s := rfl

theorem State.SameButFlow.trans (h : s.SameButFlow t) (k : t.SameButFlow u) : s.SameButFlow u :=
  Eq.trans k (congrArg (fun x : State => { x with
    arms := u.arms
    headers := u.headers
    injectors := u.injectors
    link := u.link
    periodTimer := u.periodTimer }) h)

theorem SharesMove.sameButFlow (h : SharesMove s t) : s.SameButFlow t := by
  have rest := congrArg (fun x : State => { x with
    arms := t.arms
    headers := t.headers
    injectors := t.injectors
    link := t.link
    periodTimer := t.periodTimer }) h.rest
  exact rest

theorem Prim.sameButFlow {l : Touch} (p : Prim l s t) (hl : l ∈ closeTouch) : s.SameButFlow t := by
  cases p with
  | shares h => exact h.sameButFlow
  | arm | stage | shut | injector => rfl
  | _ => simp at hl

theorem Moves.sameButFlow (h : Moves closeTouch s t) : s.SameButFlow t := by
  induction h with
  | refl => rfl
  | step l _ hl p ih => exact ih.trans (p.sameButFlow hl)

section
variable (h : s.SameButFlow t)
include h

theorem State.SameButFlow.field {β : Type} (g : State → β) : g t = g { s with
    arms := t.arms
    headers := t.headers
    injectors := t.injectors
    link := t.link
    periodTimer := t.periodTimer } := congrArg g h

theorem State.SameButFlow.now : t.now = s.now := h.field State.now
theorem State.SameButFlow.cfg : t.cfg = s.cfg := h.field State.cfg
theorem State.SameButFlow.station : t.station = s.station := h.field State.station
theorem State.SameButFlow.restart : t.restart = s.restart := h.field State.restart
theorem State.SameButFlow.ownStop : t.ownStop = s.ownStop := h.field State.ownStop
theorem State.SameButFlow.monitor : t.monitor = s.monitor := h.field State.monitor
theorem State.SameButFlow.session : t.session = s.session := h.field State.session

theorem State.SameButFlow.mayClaim : t.mayClaim = s.mayClaim := by
  unfold State.mayClaim
  rw [h.station, h.session, h.monitor]

theorem State.SameButFlow.linkOpen : t.linkOpen = s.linkOpen := by
  unfold State.linkOpen
  rw [h.station, h.restart]

theorem State.SameButFlow.sameLoad : s.SameLoad t :=
  ⟨h.cfg, h.session, h.field State.batches, h.field State.startQueue, h.field State.notes,
    h.field State.retention, h.field State.clock, h.field State.peers, h.field State.revoked⟩

end

theorem State.closeDemand_sameButFlow (a : ArmId) (k : CloseKind) (r : Reason) (m : Manner) (s : State) :
    s.SameButFlow (s.closeDemand a k r m) := (s.closeDemand_touch a k r m).sameButFlow

theorem State.withdraw_sameButFlow (r : Reason) (s : State) : s.SameButFlow (s.withdraw r) := (s.withdraw_touch r).sameButFlow

/-! ## The arms -/

/-- A flowing arm as a fast close begins on it, reservation and step-up state apart (R133). -/
def Arm.closeBegun (now : Nat) (c : ArmCfg) (r : Reason) (m : Arm) : Arm :=
  { m.quiet with
    stage := .closing
    heldShare := stageShare c m
    close := some ⟨.stop, r, .fast, .settle⟩
    leak := false
    stepDown := none
    settle := some (now + 2000)
    closeLimit := some (now + 30000) }

/-- A closing arm as its close passes to SETTLE (R134). -/
def Arm.settled (now : Nat) (m : Arm) : Arm :=
  { m with
    close := m.close.map fun c => { c with phase := .settle }
    stepDown := none
    settle := some (now + 2000)
    closeLimit := some (now + 30000) }

/-- A step-down that a fast close cuts short is under way (R133). -/
def Arm.cutsShort (r : Reason) (m : Arm) : Prop :=
  m.stage = .closing ∧ cutsStepDown r = true ∧ m.close.any (·.phase == .stepDown) = true

/-- An arm as a demand for a fast close leaves it, reservation and step-up state apart (R131, R133). -/
def Arm.fastClosed (now : Nat) (c : ArmCfg) (r : Reason) (m : Arm) : Arm :=
  if m.stage.flowing then m.closeBegun now c r
  else if m.stage = .closing ∧ cutsStepDown r = true ∧ m.close.any (·.phase == .stepDown) = true then m.settled now
  else m

section
variable {now : Nat} {c : ArmCfg} {r : Reason} {m n : Arm}

theorem Arm.fastClosed_flowing (h : m.stage.flowing = true) : m.fastClosed now c r = m.closeBegun now c r := if_pos h

theorem Arm.fastClosed_cut (h : m.stage.flowing = false) (hc : m.cutsShort r) : m.fastClosed now c r = m.settled now := by
  unfold Arm.fastClosed
  rw [h]
  exact if_pos hc

theorem Arm.fastClosed_other (h : m.stage.flowing = false) (hc : ¬m.cutsShort r) : m.fastClosed now c r = m := by
  unfold Arm.fastClosed
  rw [h]
  exact if_neg hc

theorem Arm.fastClosed_sansShares : (m.sansShares.fastClosed now c r).sansShares = (m.fastClosed now c r).sansShares := by
  cases hf : m.stage.flowing
  · by_cases hc : m.cutsShort r
    · rw [Arm.fastClosed_cut hf hc, Arm.fastClosed_cut (m := m.sansShares) hf hc]
      rfl
    · rw [Arm.fastClosed_other hf hc, Arm.fastClosed_other (m := m.sansShares) hf hc]
      rfl
  · rw [Arm.fastClosed_flowing hf, Arm.fastClosed_flowing (m := m.sansShares) hf]
    rfl

theorem Arm.fastClosed_congr (h : m.sansShares = n.sansShares) :
    (m.fastClosed now c r).sansShares = (n.fastClosed now c r).sansShares := by
  rw [← Arm.fastClosed_sansShares, h, Arm.fastClosed_sansShares]

end

theorem State.beginClose_fast (a : ArmId) (r : Reason) (h : (s.arm a).stage.flowing = true) :
    s.beginClose a .stop r .fast =
      ((s.modArm a (Arm.fastClosed s.now (s.armCfg a) r)).cutArmShots a).abandonStepUp a := by
  have closes : (s.moveStage a .closing).modArm a (fun m => { m.quiet with
      close := some ⟨.stop, r, .fast, .settle⟩
      leak := false
      stepDown := none
      settle := some (s.now + 2000)
      closeLimit := some (s.now + 30000) }) = s.modArm a (Arm.fastClosed s.now (s.armCfg a) r) := by
    rw [State.moveStage_closing, State.modArm_modArm]
    refine State.modArm_congr ?_
    rw [Arm.fastClosed_flowing h]
    rfl
  have fast : (Manner.fast == Manner.controlled) = false := rfl
  unfold State.beginClose
  simp only [fast, Bool.false_and, Bool.false_eq_true, if_false, if_true]
  exact congrArg (fun x => (State.cutArmShots a x).abandonStepUp a) closes

theorem State.closeDemand_still {a : ArmId} {r : Reason} (hr : s.restart = false) (h : (s.arm a).stage.flowing = false) :
    s.closeDemand a .stop r .fast = s.modArm a (Arm.fastClosed s.now (s.armCfg a) r) := by
  have still : (s.arm a).stage = .closed ∨ (s.arm a).stage = .closing := by
    cases hs : (s.arm a).stage <;> simp_all [Stage.flowing]
  have same (k : ¬(s.arm a).cutsShort r) : s = s.modArm a (Arm.fastClosed s.now (s.armCfg a) r) :=
    (s.modArm_id a).symm.trans (State.modArm_congr (Arm.fastClosed_other h k).symm)
  unfold State.closeDemand
  rw [hr, if_neg Bool.false_ne_true]
  rcases still with e | e
  · rw [e]
    exact same fun k => absurd (e.symm.trans k.1) (by decide)
  · rw [e]
    by_cases hc : cutsStepDown r = true ∧ (s.arm a).close.any (·.phase == .stepDown) = true
    · refine (if_pos ⟨rfl, hc⟩).trans (State.modArm_congr ?_)
      rw [Arm.fastClosed_cut h ⟨e, hc⟩]
      rfl
    · exact (if_neg fun k => hc k.2).trans (same fun k => hc k.2)

theorem State.closeDemand_flowing {a : ArmId} {r : Reason} (hr : s.restart = false) (h : (s.arm a).stage.flowing = true) :
    s.closeDemand a .stop r .fast =
      ((s.modArm a (Arm.fastClosed s.now (s.armCfg a) r)).cutArmShots a).abandonStepUp a := by
  rw [← State.beginClose_fast a r h]
  unfold State.closeDemand
  rw [hr]
  cases hs : (s.arm a).stage <;> simp_all [Stage.flowing]

theorem State.cutArmShots_arms (a : ArmId) (s : State) : (s.cutArmShots a).arms = s.arms := by
  have one (i : InjectorId) (x : State) : (if (x.injectorCfg i).arm = a then x.endShot true i else x).arms = x.arms := by
    rw [State.endShot_cut]
    split <;> rfl
  exact (one 3 _).trans ((one 2 _).trans ((one 1 _).trans (one 0 s)))

theorem State.closeDemand_arm (hr : s.restart = false) (a b : ArmId) (r : Reason) :
    ((s.closeDemand a .stop r .fast).arm b).sansShares =
      if b = a then ((s.arm b).fastClosed s.now (s.armCfg b) r).sansShares else (s.arm b).sansShares := by
  have changed : ((s.modArm a (Arm.fastClosed s.now (s.armCfg a) r)).arm b).sansShares =
      if b = a then ((s.arm b).fastClosed s.now (s.armCfg b) r).sansShares else (s.arm b).sansShares := by
    rw [State.arm_modArm]
    split
    · rename_i e
      rw [e]
    · rfl
  rw [← changed]
  cases h : (s.arm a).stage.flowing
  · rw [State.closeDemand_still hr h]
  · rw [State.closeDemand_flowing hr h, (State.abandonStepUp_moves a _).arm b]
    unfold State.arm
    rw [State.cutArmShots_arms]

/-- Four operations, each on an arm of its own. -/
theorem State.eachArm_view {β : Type} {f : ArmId → State → State} {P : State → Prop} {view : ArmId → State → β}
    {g : ArmId → β → β} (keeps : ∀ a s, P s → P (f a s))
    (step : ∀ a b s, P s → view b (f a s) = if b = a then g b (view b s) else view b s) (h : P s) (b : ArmId) :
    view b (s.eachArm f) = g b (view b s) := by
  have h0 := keeps 0 s h
  have h1 := keeps 1 _ h0
  have h2 := keeps 2 _ h1
  unfold State.eachArm
  rw [step 3 b _ h2, step 2 b _ h1, step 1 b _ h0, step 0 b s h]
  fin_cases b <;> rfl

/-- What a withdrawal leaves of an arm, reservation and step-up state apart. -/
theorem State.withdraw_arm (hr : s.restart = false) (r : Reason) (b : ArmId) :
    ((s.withdraw r).arm b).sansShares = ((s.arm b).fastClosed s.now (s.armCfg b) r).sansShares := by
  have closes : ((s.eachArm fun a x => x.closeDemand a .stop r .fast).arm b).sansShares =
      ((s.arm b).sansShares.fastClosed s.now (s.armCfg b) r).sansShares := by
    refine State.eachArm_view (P := s.SameButFlow) (view := fun b x => (x.arm b).sansShares)
      (g := fun b m => (m.fastClosed s.now (s.armCfg b) r).sansShares)
      (fun a x h => h.trans (x.closeDemand_sameButFlow a _ _ _)) (fun a b x h => ?_) (.refl s) b
    rw [State.closeDemand_arm (h.restart.trans hr), Arm.fastClosed_sansShares, h.now, State.armCfg, h.cfg]
    rfl
  rw [← Arm.fastClosed_sansShares, ← closes]
  unfold State.withdraw
  have dropped (x : State) : SharesMove x (allHeaders.foldl (fun s h => s.abandon h) x) :=
    .foldl _ (fun x h => x.abandon_moves h) _ x
  dsimp only
  rw [(dropped _).arm b, State.cutAllShots_eq]
  rfl

/-! ## The shots and the claims -/

theorem State.withdraw_shots (r : Reason) (i : InjectorId) (s : State) : ((s.withdraw r).injector i).firing = false := by
  have dropped (x : State) : SharesMove x (allHeaders.foldl (fun s h => s.abandon h) x) :=
    .foldl _ (fun x h => x.abandon_moves h) _ x
  unfold State.withdraw State.injector
  dsimp only
  rw [(dropped _).injectors, State.cutAllShots_eq, vec4_get]
  exact Injector.cutShort_firing _

theorem State.withdraw_slotsFree (r : Reason) (hm : s.mayClaim = false) : (s.withdraw r).slotsFree := by
  have moves : Moves closeTouch s ((s.eachArm fun a s => s.closeDemand a .stop r .fast).cutAllShots) :=
    (Moves.eachArm _ (fun a s => s.closeDemand_touch a .stop r .fast) s).trans (State.cutAllShots_touch _).mono
  exact fun h => foldl_reaches (fun s h => State.abandon h s) (P := fun s => s.mayClaim = false)
    (Q := fun h s => (s.header h).slot = none) (fun s k hs => (s.abandon_moves k).mayClaim.trans hs)
    (fun s k hs => s.abandon_slot k hs)
    (fun s k j hs hj => by
      by_contra hc
      rcases (s.abandon_moves k).slots j hc with x | x
      · exact x hj
      · rw [hs] at x
        cases x) _ _ (moves.sameButFlow.mayClaim.trans hm) h (mem_allHeaders h)

/-- With no arm flowing and no claim held a withdrawal concerns the arms and the injectors alone. -/
theorem State.withdraw_still {r : Reason} (hr : s.restart = false) (hn : s.noFlow) (hs : s.slotsFree) :
    ∃ v w, s.withdraw r = { s with arms := v, injectors := w } := by
  have closes : ∃ v, (s.eachArm fun a x => x.closeDemand a .stop r .fast) = { s with arms := v } := by
    have one (a : ArmId) (x : State) (h : x.noFlow ∧ ∃ v, x = { s with arms := v }) :
        (x.closeDemand a .stop r .fast).noFlow ∧ ∃ v, x.closeDemand a .stop r .fast = { s with arms := v } := by
      obtain ⟨hn, v, rfl⟩ := h
      refine ⟨fun b => Moves.noFlow b (State.closeDemand_touch a _ _ _ _).mono (hn b), ?_⟩
      rw [State.closeDemand_still (s := { s with arms := v }) hr (hn a)]
      exact ⟨_, rfl⟩
    exact (one 3 _ (one 2 _ (one 1 _ (one 0 s ⟨hn, _, rfl⟩)))).2
  have kept (x : State) (h : x.slotsFree) : allHeaders.foldl (fun s h => s.abandon h) x = x := by
    have one (k : HeaderId) : x.abandon k = x := by
      unfold State.abandon
      rw [h k]
    generalize allHeaders = hs
    induction hs with
    | nil => rfl
    | cons k hs ih => rw [List.foldl_cons, one k, ih]
  obtain ⟨v, e⟩ := closes
  refine ⟨v, vec4 fun i => (s.injector i).cutShort, ?_⟩
  unfold State.withdraw
  dsimp only
  rw [e, State.cutAllShots_eq]
  exact kept _ hs

/-! ## What is handed over -/

/-- A run that hands over STATEs alone. -/
inductive Announces : State → State → Prop where
  | refl (s : State) : Announces s s
  | trans {s t u : State} : Announces s t → Announces t u → Announces s u
  /-- a change elsewhere -/
  | quiet {s t : State} : t.link = s.link → t.station = s.station → t.restart = s.restart → t.ownStop = s.ownStop →
      Announces s t
  | state (s : State) : Announces s s.composeState

theorem Announces.keeps {P : State → Prop} (h : Announces s t)
    (quiet : ∀ x y : State, y.link = x.link → y.station = x.station → y.restart = x.restart → y.ownStop = x.ownStop → P x → P y)
    (state : ∀ x : State, P x → P x.composeState) : P s → P t := by
  induction h with
  | refl => exact id
  | trans _ _ h k => exact fun p => k (h p)
  | quiet h1 h2 h3 h4 => exact quiet _ _ h1 h2 h3 h4
  | state => exact state _

theorem Announces.ite {c : Prop} [Decidable c] (h : c → Announces s t) (k : ¬c → Announces s u) :
    Announces s (if c then t else u) := by
  split
  · exact h ‹_›
  · exact k ‹_›

theorem Prim.announces {l : Touch} (p : Prim l s t) (hl : l ∈ [Touch.stage, .arm, .injector]) : Announces s t := by
  cases p with
  | arm | stage | shut | injector => exact .quiet rfl rfl rfl rfl
  | _ => simp at hl

theorem Moves.announces (h : Moves L s t) (hl : L ⊆ [Touch.stage, .arm, .injector] := by decide) : Announces s t := by
  induction h with
  | refl => exact .refl _
  | step l _ hm p ih => exact ih.trans (p.announces (hl hm))

theorem State.dropClaim_announces (h : HeaderId) (announce : Bool) (s : State) : Announces s (s.dropClaim h announce) := by
  unfold State.dropClaim
  split
  · exact .refl s
  · rename_i c _
    have freed (x : State) : Announces x (match c.kind with
        | .low => x.modArm c.arm fun m => { m with reserved := none }
        | .stepUp => x.modArm c.arm fun m => { m with stepUp := .none }) := by
      split <;> exact .quiet rfl rfl rfl rfl
    have free : Announces s (s.modHeader h fun x => { x with slot := none }) := .quiet rfl rfl rfl rfl
    dsimp only
    split
    · exact (free.trans (freed _)).trans (.state _)
    · exact free.trans (freed _)

theorem State.passOn_shut {h : HeaderId} (hm : s.mayClaim = false) : s.passOn h = s := by
  unfold State.passOn
  rw [hm]
  rfl

/-- While no claim may be taken an abandonment hands over no CLAIM. -/
theorem State.abandon_announces (h : HeaderId) (hm : s.mayClaim = false) : Announces s (s.abandon h) := by
  unfold State.abandon
  split
  · exact .refl s
  · rw [State.passOn_shut ((s.dropClaim_moves h true).mayClaim.trans hm)]
    exact s.dropClaim_announces h true

theorem State.abandonStepUp_announces (a : ArmId) (hm : s.mayClaim = false) : Announces s (s.abandonStepUp a) := by
  unfold State.abandonStepUp
  split
  · exact .ite (fun _ => State.abandon_announces _ hm) fun _ => .refl s
  · exact .refl s

theorem State.closeDemand_announces (a : ArmId) (r : Reason) (hr : s.restart = false) (hm : s.mayClaim = false) :
    Announces s (s.closeDemand a .stop r .fast) := by
  have closed (f : Arm → Arm) : Announces s (s.modArm a f) := .quiet rfl rfl rfl rfl
  have ended (x : State) (hx : x.mayClaim = false) : Announces x ((x.cutArmShots a).abandonStepUp a) := by
    have cut : x.SameButFlow (x.cutArmShots a) := Moves.sameButFlow (x.cutArmShots_touch a).mono
    exact (x.cutArmShots_touch a).announces.trans (State.abandonStepUp_announces a (cut.mayClaim.trans hx))
  cases h : (s.arm a).stage.flowing
  · rw [State.closeDemand_still hr h]
    exact closed _
  · rw [State.closeDemand_flowing hr h]
    exact (closed _).trans (ended _ hm)

/-- A withdrawal hands over the STATEs of the claims that it ends, and nothing else. -/
theorem State.withdraw_announces (r : Reason) (hm : s.mayClaim = false) : Announces s (s.withdraw r) := by
  have demand (a : ArmId) (x : State) (h : s.SameButFlow x ∧ Announces s x) :
      s.SameButFlow (x.closeDemand a .stop r .fast) ∧ Announces s (x.closeDemand a .stop r .fast) := by
    refine ⟨h.1.trans (x.closeDemand_sameButFlow a _ _ _), h.2.trans ?_⟩
    cases hr : x.restart
    · exact State.closeDemand_announces a r hr (h.1.mayClaim.trans hm)
    · rw [State.closeDemand, if_pos hr]
      exact .refl x
  have drop (hs : List HeaderId) (x : State) (hx : x.mayClaim = false) : Announces x (hs.foldl (fun s h => s.abandon h) x) := by
    induction hs generalizing x with
    | nil => exact .refl x
    | cons k hs ih => exact (State.abandon_announces k hx).trans (ih _ ((x.abandon_moves k).mayClaim.trans hx))
  obtain ⟨same, demands⟩ := demand 3 _ (demand 2 _ (demand 1 _ (demand 0 s ⟨.refl s, .refl s⟩)))
  have cut := same.trans (Moves.sameButFlow (State.cutAllShots_touch _).mono)
  exact (demands.trans (State.cutAllShots_touch _).announces).trans (drop _ _ (cut.mayClaim.trans hm))

/-- Nothing is handed over while the RESTART line is asserted (R19). -/
theorem Announces.link_restart (h : Announces s t) (hr : s.restart = true) : t.link = s.link := by
  have silent (x : State) (p : x.restart = true ∧ x.link = s.link) :
      x.composeState.restart = true ∧ x.composeState.link = s.link := by
    have shut : x.linkOpen = false := by simp [State.linkOpen, p.1]
    rw [State.composeState_shut shut]
    exact p
  have kept : t.restart = true ∧ t.link = s.link :=
    h.keeps (fun x y hl _ hx _ p => ⟨hx.trans p.1, hl.trans p.2⟩) silent ⟨hr, rfl⟩
  exact kept.2

end Sys2Proof.Machine
end

section
/-! The local stop input and CLEAR-STOP (R26, R159, R160; O43). -/

namespace Sys2Proof.Machine

variable {s t : State} {l m : Link} {f : TxFrame} {n : Nat}

/-! ## Room for a STOP -/

/-- A transmit queue that has room for a STOP, or else a STATE numbered `n` or later to give up for it, all frames from that
number on being STATEs. -/
structure Link.StopFits (n : Nat) (l : Link) : Prop where
  later : n ≤ l.nextId
  frames : ∀ g ∈ l.queue, g.id < n ∨ g.tag = .state
  room : l.queue.length < 7 ∨ l.queue.length < 8 ∧ (l.lineIdle = false ∨ l.inProgress = true) ∨
    l.lastStateStop = false ∧ ∃ g ∈ l.waiting, g.tag = .state ∧ n ≤ g.id

theorem Link.mem_waiting_or (h : f ∈ l.queue) : f ∈ l.waiting ∨ l.inProgress = true := by
  cases hp : l.inProgress
  · exact .inl (by unfold Link.waiting; rwa [hp])
  · exact .inr rfl

theorem Link.mem_waiting_of_drop (h : f ∈ l.queue.drop 1) : f ∈ l.waiting := by
  unfold Link.waiting
  split
  · exact h
  · exact List.mem_of_mem_drop h

/-- On a BUSY line no attempt begins. -/
theorem Link.wake_waits (h : l.lineIdle = false) (hp : l.inProgress = false) : l.wake.inProgress = false := by
  unfold Link.wake Link.startIfReady Link.inProgress at *
  cases ht : l.tx <;> simp_all

theorem length_insertAt {k : Nat} {q : List TxFrame} : (insertAt k f q).length = q.length + 1 := by
  unfold insertAt
  rw [List.length_append, List.length_cons, List.length_take, List.length_drop]
  omega

/-- A frame put behind the front is not the front. -/
theorem mem_drop_insertAt {k : Nat} {q : List TxFrame} (hk : 1 ≤ k) (hq : q ≠ []) : f ∈ (insertAt k f q).drop 1 := by
  obtain ⟨g, rest, rfl⟩ := List.exists_cons_of_ne_nil hq
  obtain ⟨j, rfl⟩ : ∃ j, k = j + 1 := ⟨k - 1, by omega⟩
  simp [insertAt]

theorem le_headPlace {q : List TxFrame} (h : q ≠ []) : 1 ≤ headPlace true q := by
  obtain ⟨g, rest, rfl⟩ := List.exists_cons_of_ne_nil h
  exact Nat.le_add_right 1 _

/-- A frame just entered waits, or is in progress in a queue with room left. -/
def Link.Placed (f : TxFrame) (l : Link) : Prop := f ∈ l.waiting ∨ l.inProgress = true ∧ l.queue.length < 8

theorem Link.placed_of (hf : f ∈ l.queue) (h : l.queue.length < 8 ∨ f ∈ l.queue.drop 1 ∨ l.inProgress = false) : l.Placed f := by
  rcases Link.mem_waiting_or hf with hw | hp
  · exact .inl hw
  · rcases h with h | h | h
    · exact .inr ⟨hp, h⟩
    · exact .inl (Link.mem_waiting_of_drop h)
    · rw [h] at hp
      cases hp

theorem Link.pushTail_placed (h : l.queue.length < 8) : (l.pushTail f).1.Placed f := by
  have entered : (l.pushTail f).1.queue = l.queue ++ [f] := by rw [Link.pushTail_queue, if_pos h]
  refine Link.placed_of (by rw [entered]; simp) ?_
  rw [entered]
  cases l.queue with
  | nil => exact .inl (by simp)
  | cons g rest => exact .inr (.inl (by simp))

theorem Link.pushStateTail_placed (h : l.queue.length < 8) : (l.pushStateTail f).Placed f := by
  unfold Link.pushStateTail
  split
  · exact Link.pushTail_placed h
  · rename_i front rest hq
    split
    · rename_i held
      exact .inl (Link.mem_waiting_of_drop (mem_replaceFirst_self held))
    · split
      · exact Link.placed_of (.head _) (.inl (by rw [hq] at h; exact h))
      · exact Link.pushTail_placed h

theorem Link.pushStateHead_placed (h : l.queue.length < 7 ∨ l.queue.length < 8 ∧ (l.lineIdle = false ∨ l.inProgress = true)) :
    (l.pushStateHead f).Placed f := by
  obtain ⟨kept, hk⟩ : ∃ q, q = l.queue.take 1 ++ (l.queue.drop 1).filter fun g => !g.isState := ⟨_, rfl⟩
  have shorter : kept.length ≤ l.queue.length := by
    calc kept.length ≤ (l.queue.take 1).length + (l.queue.drop 1).length := by
          rw [hk, List.length_append]; exact Nat.add_le_add_left (List.length_filter_le _ _) _
      _ = l.queue.length := by rw [← List.length_append, List.take_append_drop]
  have room : kept.length < Config.txCapacity := lt_of_le_of_lt shorter (show l.queue.length < 8 by omega)
  unfold Link.pushStateHead
  dsimp only
  rw [← hk, if_pos room]
  refine Link.placed_of (by rw [Link.wake_queue]; exact mem_insertAt_self _ _ _) ?_
  rw [Link.wake_queue]
  dsimp only
  rw [length_insertAt]
  by_cases few : kept.length < 7
  · exact .inl (by omega)
  · have filled : kept ≠ [] := fun e => few (by rw [e]; decide)
    have long : ¬l.queue.length < 7 := fun x => few (lt_of_le_of_lt shorter x)
    cases hp : l.inProgress
    · have busy := (h.resolve_left long).2.resolve_right (by rw [hp]; exact Bool.false_ne_true)
      exact .inr (.inr (Link.wake_waits busy hp))
    · exact .inr (.inl (mem_drop_insertAt (by rw [Bool.true_or]; exact le_headPlace filled) filled))

/-- Once a STATE waits, one waits whose number is no lower. -/
theorem Link.pushStateTail_waits (h : ∃ g ∈ l.waiting, g.tag = .state ∧ n ≤ g.id) (hf : f.tag = .state ∧ n ≤ f.id) :
    ∃ g ∈ (l.pushStateTail f).waiting, g.tag = .state ∧ n ≤ g.id := by
  obtain ⟨g, hg, tag, later⟩ := h
  unfold Link.pushStateTail
  split
  · rename_i hq
    have none : g ∈ l.queue := l.waiting_subset hg
    rw [hq] at none
    cases none
  · rename_i front rest hq
    split
    · rename_i held
      exact ⟨f, Link.mem_waiting_of_drop (mem_replaceFirst_self held), hf⟩
    · rename_i none
      split
      · refine ⟨f, (Link.mem_waiting_or (.head _)).resolve_right fun hp => none ?_, hf⟩
        have behind : g ∈ rest := by
          unfold Link.waiting at hg
          rw [if_pos (show l.inProgress = true from hp), hq] at hg
          exact hg
        exact List.any_eq_true.mpr ⟨g, behind, TxFrame.isState_iff.mpr tag⟩
      · by_cases room : l.queue.length < 8
        · refine ⟨f, Link.mem_waiting_of_drop ?_, hf⟩
          rw [Link.pushTail_queue, if_pos room, hq]
          simp
        · unfold Link.pushTail
          rw [if_neg (show ¬l.queue.length < Config.txCapacity from room)]
          exact ⟨g, hg, tag, later⟩

theorem Link.StopFits.taken (h : l.StopFits n) (hm : Link.Gains f l m) (hf : f.tag = .state)
    (hr : m.Placed f ∨ ∃ g ∈ m.waiting, g.tag = .state ∧ n ≤ g.id) (hi : f.id = l.nextId) :
    ({ m.numbered with lastStateStop := false } : Link).StopFits n where
  later := by
    show n ≤ m.nextId + 1
    rw [hm.nextId]
    exact Nat.le_succ_of_le h.later
  frames g hg := by
    rcases hm.frames g hg with old | rfl
    · exact h.frames g old
    · exact .inr hf
  room := by
    rcases hr with (waits | sends) | waits
    · exact .inr (.inr ⟨rfl, f, waits, hf, hi ▸ h.later⟩)
    · exact .inr (.inl ⟨sends.2, .inr sends.1⟩)
    · exact .inr (.inr ⟨rfl, waits⟩)

/-- A STATE with no stop flag takes no room from a STOP that has to follow. -/
theorem State.composeState_stopFits (ho : s.ownStop = false) (h : s.link.StopFits n) : s.composeState.link.StopFits n := by
  by_cases opened : s.linkOpen = true
  · rw [State.composeState_open opened, ho]
    show ({ s.stateTaken.numbered with lastStateStop := false } : Link).StopFits n
    unfold State.stateTaken
    split
    · exact ⟨Nat.le_succ_of_le h.later, h.frames, h.room.imp_right (.imp_right fun k => ⟨rfl, k.2⟩)⟩
    · split
      · rename_i told
        rw [ho, Bool.not_false, Bool.and_true] at told
        refine h.taken Link.pushStateHead_gains rfl (.inl (Link.pushStateHead_placed ?_)) rfl
        rcases h.room with room | room | ⟨quiet, -⟩
        · exact .inl room
        · exact .inr room
        · rw [told] at quiet
          cases quiet
      · refine h.taken Link.pushStateTail_gains rfl ?_ rfl
        rcases h.room with room | room | ⟨-, waits⟩
        · exact .inl (Link.pushStateTail_placed (by omega))
        · exact .inl (Link.pushStateTail_placed room.1)
        · exact .inr (Link.pushStateTail_waits waits ⟨rfl, h.later⟩)
  · rw [State.composeState_shut (by simpa using opened)]
    exact h

theorem Announces.stopFits (h : Announces s t) (ho : s.ownStop = false) (hs : s.link.StopFits n) : t.link.StopFits n := by
  have same (x : State) : x.composeState.ownStop = x.ownStop := x.composeState_moves.ownStop
  have kept : t.ownStop = false ∧ t.link.StopFits n :=
    h.keeps (P := fun x => x.ownStop = false ∧ x.link.StopFits n) (fun x y hl _ _ hy p => ⟨hy.trans p.1, hl ▸ p.2⟩)
      (fun x p => ⟨(same x).trans p.1, State.composeState_stopFits p.1 p.2⟩) ⟨ho, hs⟩
  exact kept.2

theorem State.discarded_state (hf : f.tag = .state) : s.discarded f = s := by
  unfold State.discarded
  rw [hf]

/-- A STOP handed over where it fits is in the queue, and what it displaces is a STATE. -/
theorem State.handStop_enters (ho : s.linkOpen = true) (h : s.link.StopFits n) :
    ∃ l, s.handStop = { s with link := l } ∧ ∃ f ∈ l.queue, f.tag = .stop := by
  unfold State.handStop
  rw [if_pos ho]
  by_cases merged : ∃ g ∈ s.link.waiting, g.tag = .stop
  · rw [Link.pushStop_merged merged]
    obtain ⟨g, hg, tag⟩ := merged
    exact ⟨_, rfl, g, s.link.waiting_subset hg, tag⟩
  · have none : ∀ g ∈ s.link.waiting, g.tag ≠ .stop := fun g hg tag => merged ⟨g, hg, tag⟩
    have entered (q : List TxFrame) : ∃ f ∈ (s.link.enterStop (s.frameNow .stop []) q).numbered.queue, f.tag = .stop :=
      ⟨_, (Link.enterStop_queue q).symm ▸ mem_insertAt_self _ _ _, rfl⟩
    by_cases room : s.link.queue.length < 8
    · rw [Link.pushStop_room none room]
      exact ⟨_, rfl, entered _⟩
    · obtain ⟨-, w, hw, -, later⟩ := (h.room.resolve_left (by omega)).resolve_left fun k => room k.1
      obtain ⟨g, hg, newest⟩ := newestNonStop_newest (fun x hx => by simpa [TxFrame.isStop] using none x hx)
        (List.ne_nil_of_mem hw)
      have tag : g.tag = .state := (h.frames g (s.link.waiting_subset (newestNonStop_mem _ _ hg))).resolve_left
        (not_lt.mpr (le_trans later (newest w hw)))
      have displaced : s.link.pushStop (s.frameNow .stop []) =
          (s.link.enterStop (s.frameNow .stop []) (s.link.queue.filter (·.id != g.id)), some g) := by
        unfold Link.pushStop
        simp only [Link.no_stop_waits none, Bool.false_eq_true, if_false,
          if_neg (show ¬s.link.queue.length < Config.txCapacity from room), hg]
      rw [displaced]
      exact ⟨_, State.discarded_state tag, entered _⟩

/-! ## The arms and the stop set -/

/-- A second fast demand finds nothing to close. -/
theorem Arm.fastClosed_twice {now now' : Nat} {c c' : ArmCfg} {r r' : Reason} {m : Arm} (hc : cutsStepDown r = true) :
    (m.fastClosed now c r).fastClosed now' c' r' = m.fastClosed now c r := by
  cases hf : m.stage.flowing
  · by_cases cut : m.cutsShort r
    · rw [Arm.fastClosed_cut hf cut]
      refine Arm.fastClosed_other hf fun k => ?_
      have phase := k.2.2
      cases hm : m.close <;> simp [Arm.settled, hm] at phase
    · rw [Arm.fastClosed_other hf cut]
      exact Arm.fastClosed_other hf fun k => cut ⟨k.1, hc, k.2.2⟩
  · rw [Arm.fastClosed_flowing hf]
    exact Arm.fastClosed_other rfl fun k => Bool.false_ne_true k.2.2

section
variable {r : Reason} (arms : ∀ b, (t.arm b).sansShares = ((s.arm b).fastClosed s.now (s.armCfg b) r).sansShares)
include arms

theorem State.fastStopped_of (shots : ∀ i, (t.injector i).firing = false) (slots : t.slotsFree) : s.FastStopped t r where
  closes a h := by
    have e := arms a
    rw [Arm.fastClosed_flowing h] at e
    have stage : (t.arm a).stage = .closing := congrArg Arm.stage e
    have close : (t.arm a).close = some ⟨.stop, r, .fast, .settle⟩ := congrArg Arm.close e
    refine ⟨stage, close, congrArg Arm.settle e, congrArg Arm.closeLimit e, congrArg Arm.heldShare e, ?_, ?_⟩
    · unfold State.lowSolenoid
      rw [stage, close]
      exact Bool.and_false _
    · unfold State.mainSolenoid
      rw [stage]
      exact Bool.and_false _
  stays a h := by
    refine (congrArg Arm.stage (arms a)).trans ?_
    by_cases cut : (s.arm a).cutsShort r
    · rw [Arm.fastClosed_cut h cut]
      rfl
    · rw [Arm.fastClosed_other h cut]
      rfl
  shots := shots
  slots := slots
  owner a := by
    have kept : ((s.arm a).fastClosed s.now (s.armCfg a) r).owner = (s.arm a).owner ∧
        ((s.arm a).fastClosed s.now (s.armCfg a) r).live = (s.arm a).live := by
      unfold Arm.fastClosed
      split
      · exact ⟨rfl, rfl⟩
      · split <;> exact ⟨rfl, rfl⟩
    exact ⟨(congrArg Arm.owner (arms a)).trans kept.1, (congrArg Arm.live (arms a)).trans kept.2⟩

theorem State.stepDownCut_of (hc : cutsStepDown r = true) (a : ArmId) : s.StepDownCut t a := by
  intro cl hs hcl hp
  have still : (s.arm a).stage.flowing = false := by rw [hs]; rfl
  have e := arms a
  rw [Arm.fastClosed_cut still ⟨hs, hc, by simp [hcl, hp]⟩] at e
  have stage : (t.arm a).stage = .closing := (congrArg Arm.stage e).trans hs
  have close : (t.arm a).close = some { cl with phase := .settle } := by
    refine (congrArg Arm.close e).trans ?_
    show (s.arm a).close.map _ = _
    rw [hcl]
    rfl
  refine ⟨stage, close, congrArg Arm.stepDown e, congrArg Arm.settle e, congrArg Arm.closeLimit e, ?_, ?_⟩
  · unfold State.lowSolenoid
    rw [stage, close]
    exact Bool.and_false _
  · unfold State.mainSolenoid
    rw [stage]
    exact Bool.and_false _

end

theorem mem_allStations (p : StationId) : p ∈ allStations := by
  revert p
  decide

/-- The own number in the stop set makes it non-empty. -/
theorem State.stopSetNonempty_own (h : s.ownStop = true) : s.stopSetNonempty = true :=
  List.any_eq_true.mpr ⟨s.cfg.station, mem_allStations _, (if_pos rfl).trans h⟩

/-- The STATE that carries the own stop flag has been handed over (R26). -/
def State.stopTold (s : State) : State := State.composeState { s with ownStop := true }

theorem State.stopTold_moves (s : State) : SharesMove { s with ownStop := true } s.stopTold := State.composeState_moves _

theorem State.stopTold_nonempty (s : State) : s.stopTold.stopSetNonempty = true :=
  State.stopSetNonempty_own s.stopTold_moves.ownStop

theorem State.setOwnStop_held (h : s.ownStop = false) (ht : s.monitor.terminal = true) : s.setOwnStop true = s.stopTold := by
  have same : s.stopTold.stopSetNonempty = s.stopTold.monitor.terminal := by
    rw [s.stopTold_nonempty, s.stopTold_moves.monitor]
    exact ht.symm
  exact (if_neg (by simp [h])).trans (if_pos same)

theorem State.setOwnStop_raised (h : s.ownStop = false) (ht : s.monitor.terminal = false) :
    s.setOwnStop true = (s.stopTold.modMonitor fun m => { m with terminal := true }).withdraw .terminalStop := by
  have raised : s.stopTold.followStopSet = (s.stopTold.modMonitor fun m => { m with terminal := true }).withdraw .terminalStop := by
    unfold State.followStopSet
    rw [s.stopTold_nonempty]
    refine (if_neg ?_).trans (if_pos rfl)
    rw [s.stopTold_moves.monitor]
    exact fun e => Bool.false_ne_true (ht.symm.trans e.symm)
  exact (if_neg (by simp [h])).trans raised

theorem State.stopTold_still (hn : s.noFlow) (hs : s.slotsFree) (hm : s.mayClaim = false) :
    s.stopTold.noFlow ∧ s.stopTold.slotsFree := by
  refine ⟨fun a => ?_, fun h => ?_⟩
  · rw [s.stopTold_moves.stage]
    exact hn a
  · by_contra hc
    rcases s.stopTold_moves.slots h hc with held | may
    · exact held (hs h)
    · exact Bool.false_ne_true (hm.symm.trans may)

/-- With no arm flowing and no claim held the own stop flag concerns the monitor, the arms and the injectors beside the STATE that
carries it. -/
theorem State.setOwnStop_still (h : s.ownStop = false) (hr : s.restart = false) (hn : s.noFlow) (hs : s.slotsFree)
    (hm : s.mayClaim = false) : ∃ v w, s.setOwnStop true = { s.stopTold with
      arms := v
      injectors := w
      monitor := { s.monitor with terminal := true } } := by
  have record : s.stopTold.monitor = s.monitor := s.stopTold_moves.monitor
  cases ht : s.monitor.terminal
  · obtain ⟨flow, slots⟩ := State.stopTold_still hn hs hm
    obtain ⟨v, w, e⟩ := State.withdraw_still (s := s.stopTold.modMonitor fun m => { m with terminal := true })
      (r := .terminalStop) (s.stopTold_moves.restart.trans hr) flow slots
    refine ⟨v, w, (State.setOwnStop_raised h ht).trans (e.trans ?_)⟩
    rw [← record]
    rfl
  · refine ⟨s.stopTold.arms, s.stopTold.injectors, (State.setOwnStop_held h ht).trans ?_⟩
    rw [← ht, ← record]

/-! ## The local stop input (R159) -/

/-- The latch and the input as LOCAL_STOP_ACTIVE sets them. -/
def State.latched (s : State) : State := s.modMonitor fun m => { m with
  stopInput := true
  stopLatch := true }

theorem State.latched_withdrawn (s : State) : s.latched.monitor.withdrawn = true :=
  (Monitor.withdrawn_iff _).mpr (.inr (.inr (.inl rfl)))

theorem State.mayClaim_withdrawn (h : s.monitor.withdrawn = true) : s.mayClaim = false := by
  simp [State.mayClaim, h]

theorem exec_localStopActive (hs : s.station ≠ .configFault) (hi : s.monitor.stopInput = false) (h5 : s.stage5Waits = false)
    (h : s.latched.withdrawIf .localStop s.monitor.stopInForce true = t) :
    exec .localStopActive s = .next (if t.restart then t else t.handStop.setOwnStop true) := by
  show Host.Outcome.next (if s.station = .configFault ∨ s.monitor.stopInput = true then s else _) = _
  rw [if_neg (by simp [hs, hi]), h5, ← h]
  rfl

theorem Monitor.stopInForce_of_held {x : Monitor} (h : x.withdrawn = false) : x.stopInForce = false ∧ x.terminal = false := by
  simp only [Monitor.withdrawn, Bool.or_eq_false_iff] at h
  exact ⟨h.1.1.2, h.1.2⟩

theorem Arm.fastClosed_flows {now : Nat} {c : ArmCfg} {r : Reason} {m : Arm} : (m.fastClosed now c r).stage.flowing = false := by
  cases hf : m.stage.flowing
  · unfold Arm.fastClosed
    rw [hf, if_neg Bool.false_ne_true]
    split <;> exact hf
  · rw [Arm.fastClosed_flowing hf]
    rfl

/-- What the withdrawal of LOCAL_STOP leaves, before the STOP. -/
structure State.StopsTo (s w : State) : Prop where
  same : s.latched.SameButFlow w
  arms : ∀ b, (w.arm b).sansShares = ((s.arm b).fastClosed s.now (s.armCfg b) .localStop).sansShares
  slots : w.slotsFree

theorem State.latched_stopsTo (hr : s.restart = false) : s.StopsTo (s.latched.withdraw .localStop) :=
  have may : s.latched.mayClaim = false := State.mayClaim_withdrawn s.latched_withdrawn
  ⟨s.latched.withdraw_sameButFlow _, State.withdraw_arm (s := s.latched) hr .localStop, State.withdraw_slotsFree _ may⟩

section
variable {w : State} (h : s.StopsTo w)
include h

theorem State.StopsTo.mayClaim : w.mayClaim = false := h.same.mayClaim.trans (State.mayClaim_withdrawn s.latched_withdrawn)

theorem State.StopsTo.noFlow : w.noFlow := fun b => by
  have fields := congrArg Arm.stage (h.arms b)
  have stage : (w.arm b).stage = ((s.arm b).fastClosed s.now (s.armCfg b) .localStop).stage := fields
  rw [stage]
  exact Arm.fastClosed_flows

theorem State.StopsTo.linkOpen (hs : s.station ≠ .configFault) (hr : s.restart = false) : w.linkOpen = true :=
  h.same.linkOpen.trans (s.latched.linkOpen_iff.mpr ⟨hs, hr⟩)

/-- The own number in the stop set, and the STATE that says so, after the STOP. -/
theorem State.StopsTo.raised (hr : s.restart = false) (ho : s.ownStop = false) (ht : s.monitor.terminal = false)
    (hu : w.setOwnStop true = t) (hf : f ∈ w.link.queue) (tag : f.tag = .stop) :
    s.SameLoad t ∧ s.FastStopped t .localStop ∧ (∀ a, s.StepDownCut t a) ∧
      t.monitor = { s.monitor with
        stopInput := true
        stopLatch := true
        terminal := true } ∧
      t.ownStop = true ∧ ∃ f ∈ t.link.queue, f.tag = .stop := by
  have line : w.restart = false := h.same.restart.trans hr
  have own : w.ownStop = false := h.same.ownStop.trans ho
  have noted : w.monitor = s.latched.monitor := h.same.monitor
  have ended := hu.symm.trans (State.setOwnStop_raised own ((congrArg Monitor.terminal noted).trans ht))
  obtain ⟨v, i, still⟩ := State.setOwnStop_still own line h.noFlow h.slots h.mayClaim
  have result := hu.symm.trans still
  have told := w.stopTold_moves
  have claims : (w.stopTold.modMonitor fun m => { m with terminal := true }).mayClaim = false := by
    refine State.mayClaim_withdrawn ((Monitor.withdrawn_iff _).mpr (.inr (.inr (.inl ?_))))
    show w.stopTold.monitor.stopInForce = true
    rw [told.monitor, noted]
    rfl
  have arms (b : ArmId) : (t.arm b).sansShares = ((s.arm b).fastClosed s.now (s.armCfg b) .localStop).sansShares := by
    have first : (w.stopTold.arm b).sansShares = ((s.arm b).fastClosed s.now (s.armCfg b) .localStop).sansShares :=
      (told.arm b).trans (h.arms b)
    rw [ended]
    refine (State.withdraw_arm (s := w.stopTold.modMonitor fun m => { m with terminal := true }) (told.restart.trans line) _ b).trans ?_
    exact (Arm.fastClosed_congr first).trans (congrArg Arm.sansShares (Arm.fastClosed_twice rfl))
  refine ⟨?_, State.fastStopped_of arms (fun i => ?_) ?_, State.stepDownCut_of arms rfl, ?_, ?_, f, ?_, tag⟩
  · have loaded := h.same.sameLoad
    rw [result]
    exact ⟨told.cfg.trans loaded.cfg, told.session.trans loaded.session, told.batches.trans loaded.batches,
      told.startQueue.trans loaded.startQueue, told.notes.trans loaded.notes, told.retention.trans loaded.retention,
      told.clock.trans loaded.clock, told.peers.trans loaded.peers, told.revoked.trans loaded.revoked⟩
  · rw [ended]
    exact State.withdraw_shots _ i _
  · rw [ended]
    exact State.withdraw_slotsFree _ claims
  · rw [result]
    exact congrArg (fun m : Monitor => { m with terminal := true }) noted
  · rw [result]
    exact told.ownStop
  · rw [result]
    exact told.sends.keeps (by rw [tag]; decide) hf

end

/-! ## With nothing to close (R8, R9, R26) -/

/-- The part once a STOP has entered a queue with room and its owner's figures are unchanged. -/
theorem State.handStop_room (ho : s.linkOpen = true) (hw : ∀ g ∈ s.link.waiting, g.tag ≠ .stop) (hr : s.link.queue.length < 8) :
    s.handStop = { s with link := (s.link.enterStop (s.frameNow .stop []) s.link.queue).numbered } := by
  unfold State.handStop
  rw [if_pos ho, Link.pushStop_room hw hr]

/-- The transmitter after a STOP on a BUSY line (R4). -/
theorem Link.enterStop_tx (sound : l.Sound) (hi : l.lineIdle = false) :
    (l.enterStop f l.queue).tx = if l.queue = [] then .ready else l.tx := by
  by_cases hq : l.queue = []
  · have empty : l.tx = .empty := sound.empty.mpr hq
    unfold Link.enterStop
    rw [if_pos hq]
    have woken (q : List TxFrame) : ({ l with queue := q } : Link).wake.tx = .ready :=
      congrArg Link.tx (Link.wake_empty_busy (l := { l with queue := q }) empty hi)
    exact woken _
  · have settled : l.Settled := ⟨fun h => hq (sound.empty.mp h), fun _ => hi⟩
    rw [if_neg hq, settled.enterStop]

theorem State.localStopActive_queue {w : State} (h : s.StopsTo w) (hl : w.link = s.link) (hs : s.station ≠ .configFault)
    (hr : s.restart = false) (ho : s.ownStop = false) (hc : s.station ≠ .clash) (sound : s.link.Sound) (hi : s.link.lineIdle = false)
    (room : s.link.queue.length < 8) (hw : ∀ g ∈ s.link.waiting, g.tag ≠ .stop) (hu : w.handStop.setOwnStop true = t) : ∃ q,
    StopEntered s.link.tx ⟨s.link.nextId, .stop, lineImage s.cfg.station 7 []⟩ s.link.queue q ∧
    StateEntered (if s.link.queue = [] then .ready else s.link.tx) false
      ⟨s.link.nextId + 1, .state, lineImage s.cfg.station 1 t.statePayload⟩ q t.link.queue := by
  obtain ⟨m, hm⟩ : ∃ m, m = s.link.enterStop (s.frameNow .stop []) s.link.queue := ⟨_, rfl⟩
  have number : m.nextId = s.link.nextId := by rw [hm]; exact Link.wake_nextId _
  obtain ⟨x, hx⟩ : ∃ x, x = { w with link := m.numbered } := ⟨_, rfl⟩
  have handed : w.handStop = x := by
    rw [State.handStop_room (h.linkOpen hs hr) (hl ▸ hw) (hl ▸ room), hx, hm, ← hl, State.frameNow, State.frameNow, h.same.cfg, hl]
    rfl
  have stops : s.StopsTo x := hx ▸ ⟨h.same.trans rfl, h.arms, h.slots⟩
  have line : x.linkOpen = true := stops.linkOpen hs hr
  have link : x.link = m.numbered := by rw [hx]
  obtain ⟨v, i, still⟩ := State.setOwnStop_still (stops.same.ownStop.trans ho) (stops.same.restart.trans hr) stops.noFlow stops.slots
    stops.mayClaim
  have result := hu.symm.trans ((congrArg (State.setOwnStop true) handed).trans still)
  obtain ⟨y, hy⟩ : ∃ y, y = { x with ownStop := true } := ⟨_, rfl⟩
  have payload : t.statePayload = y.statePayload := by
    rw [result, hy]
    exact x.stopTold_moves.statePayload
  have told : t.link.queue = y.stateTaken.queue := by
    rw [result, hy]
    exact congrArg (fun z : State => z.link.queue) (State.composeState_open (s := { x with ownStop := true }) line)
  have frame : y.frameNow .state y.statePayload = ⟨s.link.nextId + 1, .state, lineImage s.cfg.station 1 t.statePayload⟩ := by
    rw [payload, hy]
    unfold State.frameNow
    rw [link, stops.same.cfg]
    simp only [Link.numbered, number]
    rfl
  refine ⟨m.queue, hm ▸ Link.enterStop_entered _ hw, ?_⟩
  have entered := y.stateTaken_entered (by rw [hy]; exact fun e => hc (stops.same.station.symm.trans e))
  have tx : y.link.tx = if s.link.queue = [] then .ready else s.link.tx := by
    rw [hy]
    show x.link.tx = _
    rw [link, ← Link.enterStop_tx sound hi, ← hm]
    rfl
  have queue : y.link.queue = m.queue := by
    rw [hy]
    show x.link.queue = _
    rw [link]
    rfl
  have clears : (y.link.lastStateStop && !y.ownStop) = false := by
    rw [hy]
    exact Bool.and_false _
  rw [tx, queue, clears, frame] at entered
  rw [told]
  exact entered

/-! ## CLEAR-STOP (R160) -/

theorem State.restoreIf_sameButFlow (was : Bool) (s : State) : s.SameButFlow (s.restoreIf was) :=
  Moves.sameButFlow (s.restoreIf_touch was).mono

theorem State.restoreIf_empty (h : s.startQueue = []) (was : Bool) : s.restoreIf was = s := by
  unfold State.restoreIf
  rw [State.scan_empty h]
  exact ite_self s

/-- The monitor's record of the stop set brought up to date. -/
def State.recorded (s : State) : State := s.modMonitor fun m => { m with terminal := s.stopSetNonempty }

theorem State.followStopSet_recorded (s : State) : s.recorded.SameButFlow s.followStopSet := by
  unfold State.followStopSet
  dsimp only
  split
  · rename_i same
    have kept : s.recorded = s := by
      unfold State.recorded State.modMonitor
      rw [same]
    exact kept.symm ▸ .refl s
  · split
    · exact State.withdraw_sameButFlow _ _
    · exact State.restoreIf_sameButFlow _ _

/-- With no batch waiting the end of the stop set hands over nothing. -/
theorem State.followStopSet_link (ht : s.monitor.terminal = true) (hq : s.startQueue = []) :
    s.followStopSet.link = s.link ∧ s.followStopSet.statePayload = s.statePayload := by
  unfold State.followStopSet
  rw [ht]
  by_cases raised : s.stopSetNonempty = true
  · rw [if_pos raised]
    exact ⟨rfl, rfl⟩
  · rw [if_neg raised, if_neg raised]
    have still : ∀ was, (s.modMonitor fun m => { m with terminal := s.stopSetNonempty }).restoreIf was =
        s.modMonitor fun m => { m with terminal := s.stopSetNonempty } := State.restoreIf_empty hq
    rw [still]
    exact ⟨rfl, rfl⟩

/-- The latch cleared, the stop set not yet followed. -/
def State.unlatched (s : State) : State := s.modMonitor fun m => { m with stopLatch := false }

theorem State.SameButFlow.recorded (h : s.SameButFlow t) : s.recorded.SameButFlow t.recorded := congrArg State.recorded h

/-- The own number out of the stop set: beside the flow side the monitor's record alone follows. -/
theorem State.setOwnStop_cleared (s : State) : ∃ m : Monitor, m.stopLatch = s.monitor.stopLatch ∧
    (s.ownStop = true → m.terminal = State.stopSetNonempty { s with ownStop := false }) ∧
    State.SameButFlow { s with
      ownStop := false
      monitor := m } (s.setOwnStop false) := by
  cases own : s.ownStop
  · have kept : s.setOwnStop false = s := if_pos own
    refine ⟨s.monitor, rfl, nofun, ?_⟩
    rw [kept, ← own]
    exact .refl s
  · have told : s.setOwnStop false = (State.composeState { s with ownStop := false }).followStopSet := if_neg (by simp [own])
    have handed := (State.composeState_moves { s with ownStop := false }).sameButFlow
    refine ⟨(State.recorded { s with ownStop := false }).monitor, rfl, fun _ => rfl, ?_⟩
    rw [told]
    exact handed.recorded.trans (State.followStopSet_recorded _)

theorem State.clearLatch_latched (hi : s.monitor.stopInput = false) (hl : s.monitor.stopLatch = true) : s.clearLatch =
    ((s.unlatched.setOwnStop false).restoreIf s.monitor.withdrawn, .accepted []) := by
  unfold State.clearLatch
  rw [hi, hl]
  rfl

/-- The STATE that clears the stop flag is the last thing handed over, no batch waiting. -/
theorem State.setOwnStop_entered (ho : s.linkOpen = true) (own : s.ownStop = true) (ht : s.monitor.terminal = true)
    (hq : s.startQueue = []) (hc : s.station ≠ .clash) :
    StateEntered s.link.tx s.link.lastStateStop
      ⟨s.link.nextId, .state, lineImage s.cfg.station 1 (s.setOwnStop false).statePayload⟩ s.link.queue
      (s.setOwnStop false).link.queue := by
  obtain ⟨x, hx⟩ : ∃ x : State, x = { s with ownStop := false } := ⟨_, rfl⟩
  have told : s.setOwnStop false = x.composeState.followStopSet := by
    rw [hx]
    exact if_neg (by simp [own])
  have moves := x.composeState_moves
  have noted : x.monitor = s.monitor := by rw [hx]
  have waiting : x.startQueue = s.startQueue := by rw [hx]
  obtain ⟨link, payload⟩ := State.followStopSet_link (s := x.composeState) (by rw [moves.monitor, noted]; exact ht)
    (by rw [moves.startQueue, waiting]; exact hq)
  have entered := x.stateTaken_entered (by rw [hx]; exact hc)
  have opened : x.linkOpen = true := by rw [hx]; exact ho
  rw [told, link, payload, moves.statePayload, State.composeState_open opened]
  rw [hx] at entered ⊢
  rw [Bool.not_false, Bool.and_true] at entered
  exact entered

/-- CLEAR-STOP with the latch set and the input back to normal. -/
theorem State.clearStop_latched (asks : s.Asks) (hi : s.monitor.stopInput = false) (hl : s.monitor.stopLatch = true) :
    ∃ t, exec .clearStop s = .next t ∧
      t.panel = ⟨.answering, some (.accepted []), false⟩ ∧ t.ownStop = false ∧ t.monitor.stopLatch = false ∧
      t.session = s.asked.session ∧ t.batches = s.batches ∧ t.peers = s.peers ∧ t.startQueue = s.startQueue ∧
      (s.ownStop = true → t.monitor.terminal = t.stopSetNonempty) ∧
      (s.ownStop = true → s.monitor.terminal = true → s.startQueue = [] → s.station ≠ .clash →
        StateEntered s.link.tx s.link.lastStateStop ⟨s.link.nextId, .state, lineImage s.cfg.station 1 t.statePayload⟩
          s.link.queue t.link.queue) := by
  obtain ⟨u, hu⟩ : ∃ u, u = s.asked.unlatched := ⟨_, rfl⟩
  obtain ⟨t, ht⟩ : ∃ t, t = (u.setOwnStop false).restoreIf s.monitor.withdrawn := ⟨_, rfl⟩
  have cleared : s.asked.clearLatch = (t, .accepted []) := by
    rw [ht, hu]
    exact State.clearLatch_latched hi hl
  have restored : (u.setOwnStop false).SameButFlow t := ht ▸ State.restoreIf_sameButFlow _ _
  obtain ⟨m, latch, terminal, same⟩ := u.setOwnStop_cleared
  have left := same.trans restored
  have owned : u.ownStop = s.ownStop := by rw [hu]; rfl
  have noted : m.stopLatch = false := by rw [latch, hu]; rfl
  have session : u.session = s.asked.session := by rw [hu]; rfl
  have batches : u.batches = s.batches := by rw [hu]; rfl
  have peers : u.peers = s.peers := by rw [hu]; rfl
  have waiting : u.startQueue = s.startQueue := by rw [hu]; rfl
  have panel : u.panel = s.panel := by rw [hu]; rfl
  have clear : t.panel.discarding = false := by
    rw [left.field State.panel, show (State.panel _) = u.panel from rfl, panel]
    exact asks.clear
  have asked : exec .clearStop s = .next (t.answered (.accepted [])) := by
    refine (congrArg Host.Outcome.next (State.request_asks asks _)).trans ?_
    rw [cleared, State.answer_eq clear]
  refine ⟨_, asked, rfl, left.ownStop, ?_, left.session.trans session, (left.field State.batches).trans batches,
    (left.field State.peers).trans peers, (left.field State.startQueue).trans waiting, fun own => ?_, fun own term hq hc => ?_⟩
  · exact (congrArg Monitor.stopLatch left.monitor).trans noted
  · exact (congrArg Monitor.terminal left.monitor).trans ((terminal (owned.trans own)).trans
      (left.field State.stopSetNonempty).symm)
  · have empty : (u.setOwnStop false).startQueue = [] := (same.field State.startQueue).trans (waiting.trans hq)
    have last : u.setOwnStop false = t := ht ▸ (State.restoreIf_empty empty _).symm
    have entered := State.setOwnStop_entered (s := u) (by rw [hu]; exact s.linkOpen_iff.mpr ⟨asks.station, asks.restart⟩)
      (owned.trans own) (by rw [hu]; exact term) (waiting.trans hq) (by rw [hu]; exact hc)
    rw [last, hu] at entered
    exact entered

/-! ## O43 -/

theorem State.StopsTo.linked {w : State} (h : s.StopsTo w) (l : Link) : s.StopsTo { w with link := l } :=
  ⟨h.same.trans rfl, h.arms, h.slots⟩

/-- The STATEs of a withdrawal of LOCAL_STOP leave its STOP room, or a STATE to displace. -/
theorem State.StopsTo.stopped {w : State} (h : s.StopsTo w) (tells : Announces s.latched w) (hr : s.restart = false)
    (hs : s.station ≠ .configFault) (ho : s.ownStop = false) (ht : s.monitor.terminal = false) (hn : s.link.Numbered)
    (hq : s.link.queue.length < 7 ∨ s.link.queue.length < 8 ∧ (s.link.lineIdle = false ∨ s.link.inProgress = true))
    (hu : w.handStop.setOwnStop true = t) :
    s.SameLoad t ∧ s.FastStopped t .localStop ∧ (∀ a, s.StepDownCut t a) ∧
      t.monitor = { s.monitor with
        stopInput := true
        stopLatch := true
        terminal := true } ∧
      t.ownStop = true ∧ ∃ f ∈ t.link.queue, f.tag = .stop := by
  have fits := tells.stopFits (n := s.link.nextId) ho ⟨le_refl _, fun g hg => .inl (hn g hg), hq.imp_right .inl⟩
  obtain ⟨l, handed, f, hf, tag⟩ := State.handStop_enters (h.linkOpen hs hr) fits
  exact (h.linked l).raised hr ho ht ((congrArg (State.setOwnStop true) handed).symm.trans hu) hf tag

/-- LOCAL_STOP_ACTIVE with every permissive held: the withdrawal, then the STOP and the STATE. -/
theorem State.localStopActive_run (hs : s.station ≠ .configFault) (hi : s.monitor.stopInput = false) (h5 : s.stage5Waits = false)
    (hr : s.restart = false) (was : s.monitor.stopInForce = false) : ∃ w, s.StopsTo w ∧ Announces s.latched w ∧
      s.latched.withdraw .localStop = w ∧ exec .localStopActive s = .next (w.handStop.setOwnStop true) := by
  obtain ⟨w, hw⟩ : ∃ w, s.latched.withdraw .localStop = w := ⟨_, rfl⟩
  have stops : s.StopsTo w := hw ▸ State.latched_stopsTo hr
  have line : w.restart ≠ true := by rw [stops.same.restart]; exact fun e => Bool.false_ne_true (hr.symm.trans e)
  refine ⟨w, stops, hw ▸ State.withdraw_announces .localStop (State.mayClaim_withdrawn s.latched_withdrawn), hw, ?_⟩
  rw [exec_localStopActive hs hi h5 (t := w) (by rw [was]; exact hw), if_neg line]

theorem State.withdrawIf_new (r : Reason) : s.withdrawIf r false true = s.withdraw r := rfl

theorem State.withdrawIf_old (r : Reason) : s.withdrawIf r true true = s := rfl

/-- LOCAL_STOP_ACTIVE under the RESTART line: the latch alone, and what a withdrawal closes then. -/
theorem State.localStopActive_restart (hs : s.station ≠ .configFault) (hi : s.monitor.stopInput = false)
    (h5 : s.stage5Waits = false) (hr : s.restart = true) :
    ∃ w, s.latched.SameButFlow w ∧ w.link = s.link ∧ exec .localStopActive s = .next w := by
  obtain ⟨w, hw⟩ : ∃ w, s.latched.withdrawIf .localStop s.monitor.stopInForce true = w := ⟨_, rfl⟩
  have moved : s.latched.SameButFlow w ∧ w.link = s.link := by
    cases was : s.monitor.stopInForce
    · rw [was, State.withdrawIf_new] at hw
      have tells : Announces s.latched w := hw ▸ State.withdraw_announces .localStop (State.mayClaim_withdrawn s.latched_withdrawn)
      exact ⟨hw ▸ s.latched.withdraw_sameButFlow _, tells.link_restart hr⟩
    · rw [was, State.withdrawIf_old] at hw
      exact hw ▸ ⟨.refl _, rfl⟩
  refine ⟨w, moved.1, moved.2, ?_⟩
  rw [exec_localStopActive hs hi h5 hw, if_pos (moved.1.restart.trans hr)]

/-- Settles O43, LOCAL_STOP_ACTIVE by the withdrawal, the STOP and the STATE in turn. -/
theorem localStop : Obligations.LocalStop := by
  refine ⟨fun s hs => ⟨fun hi => ?_, fun hi h5 hr hw ho hn hq => ?_, fun hi h5 hr hw ho hf hc hx sound hb room none => ?_,
    fun hi h5 hr => ?_, ?_⟩, fun s asks => ?_⟩
  · show Host.Outcome.next (if s.station = .configFault ∨ s.monitor.stopInput = true then s else _) = _
    rw [if_pos (.inr hi)]
  · obtain ⟨was, terminal⟩ := Monitor.stopInForce_of_held hw
    obtain ⟨w, stops, tells, -, run⟩ := State.localStopActive_run hs hi h5 hr was
    exact ⟨_, run, stops.stopped tells hr hs ho terminal hn hq rfl⟩
  · obtain ⟨w, stops, -, hw, run⟩ := State.localStopActive_run hs hi h5 hr (Monitor.stopInForce_of_held hw).1
    obtain ⟨v, i, still⟩ := State.withdraw_still (s := s.latched) (r := .localStop) hr hf hc
    have link : w.link = s.link := by rw [← hw, still]; rfl
    obtain ⟨q, entered⟩ := State.localStopActive_queue stops link hs hr ho hx sound hb room none rfl
    exact ⟨_, q, run, entered⟩
  · obtain ⟨w, same, link, run⟩ := State.localStopActive_restart hs hi h5 hr
    have loaded := same.sameLoad
    exact ⟨_, run, same.monitor, link, same.ownStop, ⟨loaded.cfg, loaded.session, loaded.batches, loaded.startQueue,
      loaded.notes, loaded.retention, loaded.clock, loaded.peers, loaded.revoked⟩⟩
  · show Host.Outcome.next (if s.station = .configFault then s else _) = _
    rw [if_neg hs]
    rfl
  · have asked : exec .clearStop s = .next (s.asked.clearLatch.1.answer s.asked.clearLatch.2) :=
      congrArg Host.Outcome.next (State.request_asks asks _)
    have refused (r : Reason) (h : s.asked.clearLatch = (s.asked, .refused r)) :
        exec .clearStop s = .next (s.asked.answered (.refused r)) := by
      rw [asked, h, State.answer_eq (s := s.asked) asks.clear]
    refine ⟨fun hi => refused _ (if_pos hi), fun hi hl => refused _ ?_, fun hi hl => ?_⟩
    · exact (if_neg (by simp [State.asked, hi])).trans (if_neg (by simp [State.asked, hl]))
    · exact State.clearStop_latched asks hi hl

end Sys2Proof.Machine
end

section
/-! Frames as a receiver takes them (R13, R188, R190; O7). -/

namespace Sys2Proof.Machine

variable {s : State} {frame bs line : List Byte} {n m : Nat}

/-! ## Bytes -/

theorem byte_long (b : Byte) : b.getLsbD 7 = decide (128 ≤ b.toNat) := by
  have small := b.isLt
  rw [BitVec.getLsbD, Nat.testBit_eq_decide_div_mod_eq]
  exact decide_eq_decide.mpr (by omega)

theorem fieldAt_cons (b : Byte) (k w : Nat) : fieldAt (b :: bs) (k + 1) w = fieldAt bs k w := rfl

theorem fieldAt_head (b : Byte) : fieldAt (b :: bs) 0 1 = b.toNat := by
  rw [fieldAt_one]
  rfl

theorem fieldAt_drop (k j w : Nat) : fieldAt (bs.drop k) j w = fieldAt bs (k + j) w := by
  rw [fieldAt, fieldAt, List.drop_drop]

theorem fieldAt_whole (h : bs.length = n) : fieldAt bs 0 n = beValue bs := by
  rw [fieldAt, List.drop_zero, List.take_of_length_le (le_of_eq h)]

theorem asFin_isSome : (asFin m n).isSome ↔ n < m := by
  unfold asFin
  split <;> simp_all

theorem isSome_ite_some {α : Type} {c : Prop} [Decidable c] {x : α} : (if c then some x else none).isSome ↔ c := by
  split <;> simp_all

/-! ## A frame's header, length and check value -/

/-- A frame is taken as its header says, when its length, its CRC and its payload agree (R13, R188). -/
theorem parseFrame_iff (b0 b1 : Byte) (rest : List Byte) (p : StationId) (f : Frame) :
    parseFrame (b0 :: b1 :: rest) = some (p, f) ↔
      (b0 :: b1 :: rest).length = (if 128 ≤ b0.toNat then 3 else 2) +
        (if 128 ≤ b0.toNat then b1.toNat % 2 * 256 + fieldAt rest 0 1 else b1.toNat % 16) + 2 ∧
      (128 ≤ b0.toNat → 16 ≤ if 128 ≤ b0.toNat then b1.toNat % 2 * 256 + fieldAt rest 0 1 else b1.toNat % 16) ∧
      checkAgrees (b0 :: b1 :: rest) = true ∧ p.val = b0.toNat % 32 ∧
      parsePayload (b1.toNat / 16) (((b0 :: b1 :: rest).drop (if 128 ≤ b0.toNat then 3 else 2)).take
        (if 128 ≤ b0.toNat then b1.toNat % 2 * 256 + fieldAt rest 0 1 else b1.toNat % 16)) = some f := by
  unfold parseFrame
  simp only [byte_long, decide_eq_true_eq]
  generalize (if 128 ≤ b0.toNat then b1.toNat % 2 * 256 + fieldAt rest 0 1 else b1.toNat % 16) = len
  generalize (if 128 ≤ b0.toNat then 3 else 2) = header
  split
  · rename_i good
    obtain ⟨length, long, check⟩ := good
    constructor
    · intro h
      obtain ⟨g, hg, he⟩ := Option.map_eq_some_iff.mp h
      cases he
      exact ⟨length, long, check, rfl, hg⟩
    · rintro ⟨-, -, -, source, payload⟩
      exact Option.map_eq_some_iff.mpr ⟨f, payload, Prod.ext (Fin.ext source.symm) rfl⟩
  · rename_i bad
    exact ⟨nofun, fun h => absurd ⟨h.1, h.2.1, h.2.2.1⟩ bad⟩

/-! ## Payloads of fixed form -/

theorem parseShareFrame_isSome {make : HeaderId → Nat → PriorityClass → Frame} :
    (parseShareFrame make bs).isSome ↔ bs.length = 3 ∧ fieldAt bs 0 1 < 8 ∧ fieldAt bs 1 1 < 250 ∧ fieldAt bs 2 1 < 4 := by
  unfold parseShareFrame
  split
  · rename_i h units cls
    have fields : fieldAt [h, units, cls] 0 1 = h.toNat ∧ fieldAt [h, units, cls] 1 1 = units.toNat ∧
        fieldAt [h, units, cls] 2 1 = cls.toNat := ⟨fieldAt_head h, fieldAt_head units, fieldAt_head cls⟩
    rw [fields.1, fields.2.1, fields.2.2]
    by_cases hu : units.toNat < 250
    · rw [if_pos hu]
      unfold asFin
      split_ifs <;> simp_all
    · rw [if_neg hu]
      exact ⟨nofun, fun k => absurd k.2.2.1 hu⟩
  · rename_i other
    refine ⟨nofun, fun k => ?_⟩
    obtain ⟨a, b, c, rfl⟩ := List.length_eq_three.mp k.1
    exact absurd rfl (other a b c)

/-! ## STATE -/

/-- The share bytes are within range exactly when every byte there is. -/
theorem takeShares_all {mask : Byte} {hs : List Nat} (h : bs.length = (hs.filter (mask.getLsbD ·)).length) :
    (takeShares mask hs bs).all (· ≤ 250) = true ↔ ∀ x ∈ bs, x.toNat ≤ 250 := by
  induction hs generalizing bs with
  | nil =>
    rw [List.filter_nil, List.length_nil, List.length_eq_zero_iff] at h
    subst h
    exact ⟨fun _ => nofun, fun _ => rfl⟩
  | cons k hs ih =>
    unfold takeShares
    by_cases present : mask.getLsbD k = true
    · rw [List.filter_cons_of_pos present, List.length_cons] at h
      cases bs with
      | nil => cases h
      | cons b rest =>
        rw [if_pos present, List.all_cons, Bool.and_eq_true, ih (Nat.succ.inj h), decide_eq_true_eq, List.forall_mem_cons]
    · rw [List.filter_cons_of_neg present] at h
      rw [if_neg present, List.all_cons, Bool.and_eq_true, ih h]
      exact and_iff_right rfl

theorem parseState_isSome : (parseState bs).isSome ↔ 2 ≤ bs.length ∧
    bs.length = 2 + (if (fieldAt bs 0 1).testBit 3 then 4 else 0) +
      ((List.range 8).filter fun h => (fieldAt bs 1 1).testBit h).length ∧ fieldAt bs 0 1 < 32 ∧
    ((fieldAt bs 0 1).testBit 3 = true → fieldAt bs 2 4 ≠ 0) ∧
    ∀ x ∈ bs.drop (2 + if (fieldAt bs 0 1).testBit 3 then 4 else 0), x.toNat ≤ 250 := by
  unfold parseState
  split
  · rename_i flags mask rest
    have first : fieldAt (flags :: mask :: rest) 0 1 = flags.toNat := fieldAt_head flags
    have second : fieldAt (flags :: mask :: rest) 1 1 = mask.toNat := fieldAt_head mask
    rw [first, second]
    dsimp only
    rw [isSome_ite_some]
    have permit : flags.getLsbD 3 = flags.toNat.testBit 3 := rfl
    have present : maskCount mask = ((List.range 8).filter fun h => mask.toNat.testBit h).length := rfl
    rw [permit, ← present]
    generalize hp : (if flags.toNat.testBit 3 = true then 4 else 0) = permitLen
    have length : rest.length = permitLen + maskCount mask ↔ (flags :: mask :: rest).length = 2 + permitLen + maskCount mask := by
      simp only [List.length_cons]
      omega
    have named : (flags.toNat.testBit 3 = true → beValue (rest.take permitLen) ≠ 0) ↔
        (flags.toNat.testBit 3 = true → fieldAt (flags :: mask :: rest) 2 4 ≠ 0) := by
      refine forall_congr' fun h => ?_
      rw [if_pos h] at hp
      rw [← hp]
      rfl
    have shares (h : rest.length = permitLen + maskCount mask) :
        (takeShares mask [0, 1, 2, 3, 4, 5, 6, 7] (rest.drop permitLen)).all (fun x => decide (x ≤ 250)) = true ↔
          ∀ x ∈ (flags :: mask :: rest).drop (2 + permitLen), x.toNat ≤ 250 := by
      rw [Nat.add_comm 2, List.drop_succ_cons, List.drop_succ_cons]
      refine takeShares_all ?_
      rw [List.length_drop, h, Nat.add_sub_cancel_left]
      rfl
    constructor
    · rintro ⟨h, small, open_, all⟩
      exact ⟨by simp, length.mp h, small, named.mp open_, (shares h).mp all⟩
    · rintro ⟨-, h, small, open_, all⟩
      exact ⟨length.mpr h, small, named.mpr open_, (shares (length.mpr h)).mpr all⟩
  · rename_i other
    refine ⟨nofun, fun k => ?_⟩
    match bs, k.1 with
    | a :: b :: rest, _ => exact absurd rfl (other a b rest)

/-! ## NOTE (R190) -/

theorem fieldAt_take {k w : Nat} (h : k + w ≤ n) : fieldAt (bs.take n) k w = fieldAt bs k w := by
  rw [fieldAt, fieldAt, List.drop_take, List.take_take, min_eq_left (by omega)]

/-- The optional parts' length as NoteLineInRange gives it, the mask's unused bits clear. -/
theorem optionalLength_of_lt (h : n < 4) : optionalLength n = (if n % 2 = 1 then 2 else 0) + (if 2 ≤ n then 16 else 0) := by
  unfold optionalLength
  interval_cases n <;> rfl

/-- A line cut where its mask says is within its ranges exactly as the walk finds it. -/
theorem noteLineOk_iff (h : line.length = 25 + optionalLength (fieldAt line 24 1)) :
    noteLineOk (line.take 25) (line.drop 25) (fieldAt line 24 1) = true ↔ NoteLineInRange line := by
  have fixed (k w : Nat) (hk : k + w ≤ 25) : fieldAt (line.take 25) k w = fieldAt line k w := fieldAt_take hk
  have temperature : fieldAt (line.drop 25) 0 2 = fieldAt line 25 2 := fieldAt_drop 25 0 2
  have additive : fieldAt (if fieldAt line 24 1 % 2 = 1 then (line.drop 25).drop 2 else line.drop 25) 0 1 =
      fieldAt line (if fieldAt line 24 1 % 2 = 1 then 27 else 25) 1 := by
    split
    · rw [List.drop_drop, fieldAt_drop]
    · rw [fieldAt_drop]
  unfold noteLineOk
  simp only [fixed 0 1 (by omega), fixed 1 1 (by omega), fixed 2 1 (by omega), fixed 3 3 (by omega), fixed 23 1 (by omega),
    temperature, additive, Bool.and_eq_true, Bool.or_eq_true, decide_eq_true_eq, beq_iff_eq, ge_iff_le]
  have odd : fieldAt line 24 1 % 2 = 0 ↔ ¬fieldAt line 24 1 % 2 = 1 := by omega
  constructor
  · rintro ⟨⟨⟨⟨⟨comp1, comp2, grade, arm⟩, preset⟩, flags, mask⟩, warm⟩, adds⟩
    refine ⟨mask, by rw [h, optionalLength_of_lt mask, Nat.add_assoc], ⟨comp1, comp2⟩, grade, arm, preset, flags, fun k => ?_, fun k => ?_⟩
    · exact warm.resolve_left (by omega)
    · exact adds.resolve_left (by omega)
  · intro r
    refine ⟨⟨⟨⟨⟨r.comp.1, r.comp.2, r.grade, r.arm⟩, r.preset⟩, r.flags, r.mask⟩, ?_⟩, ?_⟩
    · exact (em _).imp_right fun k => r.temperature (by omega)
    · exact (em _).imp_right fun k => r.additive (by omega)

theorem NoteLineInRange.cut (h : NoteLineInRange line) : line.length = 25 + optionalLength (fieldAt line 24 1) := by
  rw [h.length, optionalLength_of_lt h.mask, Nat.add_assoc]

/-- One line of the walk, within its ranges. -/
theorem scanNoteLines_succ : scanNoteLines (n + 1) bs = some (true, []) ↔
    ∃ line rest, bs = line ++ rest ∧ NoteLineInRange line ∧ scanNoteLines n rest = some (true, []) := by
  have unfolded : scanNoteLines (n + 1) bs = if 25 + optionalLength (fieldAt bs 24 1) ≤ bs.length then
      match scanNoteLines n (bs.drop (25 + optionalLength (fieldAt bs 24 1))) with
      | some (ok, rest) =>
        some (noteLineOk (bs.take 25) ((bs.drop 25).take (optionalLength (fieldAt bs 24 1))) (fieldAt bs 24 1) && ok, rest)
      | none => none
    else none := by
    have mask : fieldAt (bs.take 25) 24 1 = fieldAt bs 24 1 := fieldAt_take (by omega)
    rw [← mask]
    rfl
  rw [unfolded]
  constructor
  · intro h
    split at h
    · rename_i long
      split at h
      · rename_i ok rest walked
        obtain ⟨both, rfl⟩ := Prod.mk.inj (Option.some.inj h)
        obtain ⟨first, rfl⟩ := Bool.and_eq_true_iff.mp both
        refine ⟨bs.take (25 + optionalLength (fieldAt bs 24 1)), _, (List.take_append_drop _ _).symm, ?_, walked⟩
        have mask : fieldAt (bs.take (25 + optionalLength (fieldAt bs 24 1))) 24 1 = fieldAt bs 24 1 := fieldAt_take (by omega)
        refine (noteLineOk_iff ?_).mp ?_
        · rw [mask, List.length_take, min_eq_left long]
        · rw [mask, List.take_take, min_eq_left (by omega), List.drop_take, Nat.add_sub_cancel_left]
          exact first
      · cases h
    · cases h
  · rintro ⟨line, rest, rfl, good, walked⟩
    have cut := good.cut
    have mask : fieldAt (line ++ rest) 24 1 = fieldAt line 24 1 := by
      rw [← fieldAt_take (n := line.length) (by omega), List.take_left]
    rw [mask, ← cut, if_pos (by simp), List.drop_left, walked, List.take_append_of_le_length (by omega),
      List.drop_append_of_le_length (by omega), List.take_append_of_le_length (by rw [List.length_drop]; omega),
      List.take_of_length_le (l := line.drop 25) (by rw [List.length_drop]; omega), (noteLineOk_iff cut).mpr good]
    rfl

/-- The walk ends with every line within its ranges and nothing left exactly when the bytes are so many such lines. -/
theorem scanNoteLines_iff : scanNoteLines n bs = some (true, []) ↔
    ∃ lines : List (List Byte), lines.length = n ∧ bs = lines.flatten ∧ ∀ line ∈ lines, NoteLineInRange line := by
  induction n generalizing bs with
  | zero =>
    constructor
    · intro h
      exact ⟨[], rfl, (Prod.mk.inj (Option.some.inj h)).2, nofun⟩
    · rintro ⟨lines, none, rfl, -⟩
      rw [List.length_eq_zero_iff] at none
      subst none
      rfl
  | succ n ih =>
    rw [scanNoteLines_succ]
    constructor
    · rintro ⟨line, rest, rfl, good, walked⟩
      obtain ⟨lines, count, rfl, all⟩ := ih.mp walked
      exact ⟨line :: lines, congrArg Nat.succ count, rfl, List.forall_mem_cons.mpr ⟨good, all⟩⟩
    · rintro ⟨lines, count, rfl, all⟩
      obtain ⟨line, rest, rfl⟩ := List.exists_cons_of_length_eq_add_one count
      obtain ⟨good, others⟩ := List.forall_mem_cons.mp all
      exact ⟨line, _, rfl, good, ih.mpr ⟨rest, Nat.succ.inj count, rfl, others⟩⟩

theorem noteHeadOk_iff : noteHeadOk bs = true ↔ NoteHeadInRange bs := by
  unfold noteHeadOk
  simp only [Bool.and_eq_true, decide_eq_true_eq, List.contains_iff_mem]
  constructor
  · rintro ⟨⟨⟨n1, n2, station, permit⟩, s1, s2, lines⟩, reason⟩
    exact ⟨⟨n1, n2⟩, station, permit, ⟨s1, s2⟩, reason, lines⟩
  · intro r
    exact ⟨⟨⟨r.number.1, r.number.2, r.station, r.permit⟩, r.seconds.1, r.seconds.2, r.lines⟩, r.reason⟩

theorem parseNote_isSome : (parseNote bs).isSome ↔ 26 ≤ bs.length ∧ NoteHeadInRange bs ∧ ∃ lines : List (List Byte),
    lines.length = fieldAt bs 25 1 + 1 ∧ bs.drop 26 = lines.flatten ∧ ∀ line ∈ lines, NoteLineInRange line := by
  unfold parseNote
  by_cases long : 26 ≤ bs.length
  · rw [if_pos long, ← scanNoteLines_iff, ← noteHeadOk_iff]
    split
    · rename_i walked
      rw [isSome_ite_some, walked]
      exact ⟨fun h => ⟨long, h, rfl⟩, fun h => h.2.1⟩
    · rename_i other
      exact ⟨nofun, fun h => absurd h.2.2 other⟩
  · rw [if_neg long]
    exact ⟨nofun, fun h => absurd h.1 long⟩

/-! ## O7 -/

/-- A frame that fails a check of R13 is dropped (R12). -/
theorem State.receive_bad (ho : s.linkOpen = true) (hx : s.link.rx ≠ .skip) (ht : s.link.tx ≠ .sending)
    (hf : parseFrame frame = none) (deliver : StationId → Frame → State → State) : s.receive frame deliver = s.dropped frame := by
  unfold State.receive
  rw [if_neg (by simp [ho, hx, ht]), hf]
  rfl

theorem parsePayload_unknown {kind : Nat} (h : kind = 0 ∨ 10 < kind) : parsePayload kind bs = none := by
  rcases h with rfl | h
  · rfl
  · obtain ⟨k, rfl⟩ : ∃ k, kind = k + 11 := ⟨kind - 11, by omega⟩
    rfl

/-- Settles O7, header and payload each by its own form. -/
theorem badFrameIsDropped : Obligations.BadFrameIsDropped := by
  refine ⟨fun s frame ho hx ht hf c hc => ?_, fun frame hf => ?_, fun b0 b1 rest p f => ?_, fun bs => ?_⟩
  · have dropped (deliver : StationId → Frame → State → State) :
        (.next (s.receive frame deliver) : Host.Outcome State Fault Refusal) = .next (s.dropped frame) :=
      congrArg Host.Outcome.next (State.receive_bad ho hx ht hf deliver)
    fin_cases hc <;> exact dropped _
  · match frame, hf with
    | [], _ => rfl
    | [_], _ => rfl
  · intro frame header len
    have check (h : frame.length = header + len + 2) : checkAgrees frame = true ↔
        crc16 (frame.take (header + len)) = fieldAt frame (header + len) 2 := by
      rw [checkAgrees_iff, h, Nat.add_sub_cancel]
      exact and_iff_right (Nat.le_add_left 2 _)
    refine (parseFrame_iff b0 b1 rest p f).trans (and_congr_right fun length => and_congr_right fun _ => and_congr_left fun _ => ?_)
    exact check length
  · refine ⟨parseState_isSome, fun kind hk => ?_, ?_, ?_, ?_, ?_, parseNote_isSome, ?_, ?_, fun kind hk => parsePayload_unknown hk⟩
    · rcases List.mem_pair.mp hk with rfl | rfl
      · exact parseShareFrame_isSome
      · exact parseShareFrame_isSome
    · refine isSome_ite_some.trans (and_congr_right fun length => ?_)
      rw [fieldAt_whole length]
    · exact isSome_ite_some
    · exact isSome_ite_some
    · exact isSome_ite_some
    · show (if bs.length = 1 then (asFin 32 (fieldAt bs 0 1)).map Frame.noteRequest else none).isSome ↔ _
      by_cases length : bs.length = 1
      · rw [if_pos length, Option.isSome_map, asFin_isSome]
        exact (and_iff_right length).symm
      · rw [if_neg length]
        exact ⟨nofun, fun h => absurd h.1 length⟩
    · show (if bs.length = 4 ∧ 1 ≤ fieldAt bs 1 3 ∧ fieldAt bs 1 3 ≤ 999999 then
        (asFin 32 (fieldAt bs 0 1)).map (Frame.noteTaken · (fieldAt bs 1 3)) else none).isSome ↔ _
      by_cases form : bs.length = 4 ∧ 1 ≤ fieldAt bs 1 3 ∧ fieldAt bs 1 3 ≤ 999999
      · rw [if_pos form, Option.isSome_map, asFin_isSome]
        exact ⟨fun h => ⟨form.1, h, form.2⟩, fun h => h.2.1⟩
      · rw [if_neg form]
        exact ⟨nofun, fun h => absurd ⟨h.1, h.2.2⟩ form⟩

end Sys2Proof.Machine
end

section
/-! Frames as this part builds them, read back (R3, R185, R188, R192, R194; O52). -/

namespace Sys2Proof.Machine

variable {s : State} {frame bs body content : List Byte} {n : Nat}

/-! ## The rack link -/

theorem byte_toNat (h : n < 256) : (BitVec.ofNat 8 n).toNat = n := by
  rw [BitVec.toNat_ofNat]
  exact Nat.mod_eq_of_lt h

/-- The payload of a frame, past its header and short of its check value. -/
theorem payload_of_withCheck (header payload : List Byte) :
    ((withCheck (header ++ payload)).drop header.length).take payload.length = payload := by
  rw [withCheck, List.append_assoc, List.drop_left, List.take_left]

/-- A frame whose header gives its kind, source and length is taken as such. -/
theorem parseFrame_withCheck {b0 b1 : Byte} {more payload : List Byte} {kind : Nat} {station : StationId}
    (hh : (b0 :: b1 :: more).length = if 128 ≤ b0.toNat then 3 else 2) (hk : b1.toNat / 16 = kind)
    (hs : b0.toNat % 32 = station.val) (hn : 128 ≤ b0.toNat → 16 ≤ payload.length)
    (hl : (if 128 ≤ b0.toNat then b1.toNat % 2 * 256 + fieldAt (more ++ payload ++ beBytes 2 (crc16 (b0 :: b1 :: more ++ payload))) 0 1
      else b1.toNat % 16) = payload.length) :
    parseFrame (withCheck (b0 :: b1 :: more ++ payload)) = (parsePayload kind payload).map fun f => (station, f) := by
  have image : withCheck (b0 :: b1 :: more ++ payload) =
      b0 :: b1 :: (more ++ payload ++ beBytes 2 (crc16 (b0 :: b1 :: more ++ payload))) := rfl
  refine Option.ext fun x => ?_
  obtain ⟨p, f⟩ := x
  rw [image, parseFrame_iff, hl, ← image, ← hh, payload_of_withCheck (b0 :: b1 :: more) payload, withCheck_length,
    List.length_append, hk, hs, Option.map_eq_some_iff]
  constructor
  · rintro ⟨-, -, -, source, parsed⟩
    exact ⟨f, parsed, Prod.ext (Fin.ext source.symm) rfl⟩
  · rintro ⟨g, parsed, e⟩
    obtain ⟨rfl, rfl⟩ := Prod.mk.inj e
    exact ⟨rfl, hn, checkAgrees_withCheck _, rfl, parsed⟩

theorem frameHeader_length (station : StationId) (kind len : Nat) :
    (frameHeader station kind len).length = if len ≤ 15 then 2 else 3 := by
  unfold frameHeader
  split <;> rfl

theorem lineImage_length (station : StationId) (kind : Nat) (payload : List Byte) :
    (lineImage station kind payload).length = (if payload.length ≤ 15 then 5 else 6) + payload.length := by
  rw [lineImage, List.length_cons, withCheck_length, List.length_append, frameHeader_length]
  split <;> omega

theorem parseFrame_lineImage (station : StationId) {kind : Nat} {payload : List Byte} (hk : kind < 16) (hp : payload.length ≤ 511) :
    parseFrame (lineImage station kind payload).tail = (parsePayload kind payload).map fun f => (station, f) := by
  have source := station.isLt
  show parseFrame (withCheck (frameHeader station kind payload.length ++ payload)) = _
  unfold frameHeader
  split
  · rename_i short
    have first : (BitVec.ofNat 8 station.val).toNat = station.val := byte_toNat (by omega)
    have second : (BitVec.ofNat 8 (kind * 16 + payload.length)).toNat = kind * 16 + payload.length := byte_toNat (by omega)
    have form : ¬128 ≤ (BitVec.ofNat 8 station.val).toNat := by rw [first]; omega
    refine parseFrame_withCheck (by rw [if_neg form]; rfl) (by rw [second]; omega) (by rw [first]; omega)
      (fun h => absurd h form) ?_
    rw [if_neg form, second]
    omega
  · rename_i long
    have first : (BitVec.ofNat 8 (128 + station.val)).toNat = 128 + station.val := byte_toNat (by omega)
    have second : (BitVec.ofNat 8 (kind * 16 + payload.length / 256 % 2)).toNat = kind * 16 + payload.length / 256 % 2 :=
      byte_toNat (by omega)
    have third : (BitVec.ofNat 8 (payload.length % 256)).toNat = payload.length % 256 := byte_toNat (by omega)
    have form : 128 ≤ (BitVec.ofNat 8 (128 + station.val)).toNat := by rw [first]; omega
    refine parseFrame_withCheck (by rw [if_pos form]; rfl) (by rw [second]; omega) (by rw [first]; omega)
      (fun _ => by omega) ?_
    rw [if_pos form, second, List.append_assoc, List.singleton_append, fieldAt_head, third]
    omega

/-! ## The panel line -/

theorem panelFrame_length (content : List Byte) : (panelFrame content).length = content.length + 4 := by
  rw [panelFrame, withCheck_length, List.length_append, beBytes_length]
  omega

/-- A frame of the panel line is read as its kind and body say. -/
theorem requestOf_panelFrame (kind : Byte) (h : body.length < 65535) :
    requestOf (panelFrame (kind :: body)) = (requestBody kind.toNat body).getD .panelFormatError := by
  have image : panelFrame (kind :: body) = beBytes 2 (body.length + 1) ++ (kind :: (body ++
      beBytes 2 (crc16 (beBytes 2 (body.length + 1) ++ kind :: body)))) := by
    rw [panelFrame, withCheck, List.append_assoc]
    rfl
  have length : fieldAt (panelFrame (kind :: body)) 0 2 = body.length + 1 := by
    rw [fieldAt, List.drop_zero, image, List.take_left' (beBytes_length 2 _)]
    exact beValue_beBytes 2 _ (by omega)
  have past : (panelFrame (kind :: body)).drop 2 = kind :: (body ++
      beBytes 2 (crc16 (beBytes 2 (body.length + 1) ++ kind :: body))) := by
    rw [image, List.drop_left' (beBytes_length 2 _)]
  have code : fieldAt (panelFrame (kind :: body)) 2 1 = kind.toNat := by
    have at2 := fieldAt_drop (bs := panelFrame (kind :: body)) 2 0 1
    rw [← at2, past, fieldAt_head]
  have rest : ((panelFrame (kind :: body)).drop 3).take body.length = body := by
    rw [show 3 = 2 + 1 from rfl, ← List.drop_drop, past, List.drop_succ_cons, List.drop_zero, List.take_left]
  unfold requestOf
  rw [length, code]
  dsimp only
  rw [if_pos ⟨Nat.le_add_left 1 _, panelFrame_length _, checkAgrees_withCheck _⟩, Nat.add_sub_cancel, rest]

theorem requestOf_panelFrame_none {kind : Byte} (h : body.length < 65535) (hb : requestBody kind.toNat body = none) :
    requestOf (panelFrame (kind :: body)) = .panelFormatError := by
  rw [requestOf_panelFrame kind h, hb]
  rfl

/-- A number of three bytes, read back. -/
theorem number_beBytes (n : BitVec 24) : BitVec.ofNat 24 (beValue (beBytes 3 n.toNat)) = n := by
  rw [beValue_beBytes 3 _ n.isLt]
  exact BitVec.eq_of_toNat_eq ((BitVec.toNat_ofNat _ _).trans (Nat.mod_eq_of_lt n.isLt))

/-- The request kinds with the lengths of their bodies (R192). -/
def requestForms : List (Byte × Nat) :=
  [((1 : Byte), 12), (2, 6), (3, 4), (4, 1), (5, 1), (6, 1), (7, 1), (8, 0), (9, 2), (10, 3), (11, 0)]

/-- The number of bytes in the body of a request kind. -/
def bodyLength (k : Nat) : Option Nat := (requestForms.find? fun x => x.1.toNat == k).map (·.2)

theorem requestBody_form {k : Nat} {i : Instr} (h : requestBody k body = some i) : bodyLength k = some body.length := by
  match k, body, h with
  | 1, card, h =>
    have length : card.length = 12 := by
      by_contra other
      exact nomatch (if_neg other).symm.trans h
    rw [length]
    rfl
  | 2, [_, _, _, _, _, _], _ => rfl
  | 3, [_, _, _, _], _ => rfl
  | 4, [_], _ => rfl
  | 5, [_], _ => rfl
  | 6, [_], _ => rfl
  | 7, [_], _ => rfl
  | 8, [], _ => rfl
  | 9, [_, _], _ => rfl
  | 10, [_, _, _], _ => rfl
  | 11, [], _ => rfl

theorem requestBody_kind {kind : Byte} (h : kind = 0 ∨ 11 < kind.toNat) : requestBody kind.toNat body = none := by
  rw [Option.eq_none_iff_forall_not_mem]
  intro i hi
  obtain ⟨x, hx, -⟩ := Option.map_eq_some_iff.mp (requestBody_form hi)
  have known : ∀ x ∈ requestForms, 1 ≤ x.1.toNat ∧ x.1.toNat ≤ 11 := by decide
  have range := known x (List.mem_of_find?_eq_some hx)
  have found := List.find?_some hx
  have code : x.1.toNat = kind.toNat := beq_iff_eq.mp found
  rcases h with rfl | h
  · exact absurd range.1 (by rw [code]; decide)
  · omega

theorem requestBody_length {kind : Byte} (h : (kind, body.length) ∉ requestForms) : requestBody kind.toNat body = none := by
  rw [Option.eq_none_iff_forall_not_mem]
  intro i hi
  obtain ⟨x, hx, length⟩ := Option.map_eq_some_iff.mp (requestBody_form hi)
  have found := List.find?_some hx
  have code : x.1 = kind := BitVec.eq_of_toNat_eq (beq_iff_eq.mp found)
  rw [← length, ← code] at h
  exact h (List.mem_of_find?_eq_some hx)

theorem requestBody_status {kind x : Byte} (h : 2 < kind.toNat) : requestBody 9 [kind, x] = none := by
  have other (k : Byte) (hk : k.toNat ≤ 2) : kind ≠ k := fun e => by rw [e] at h; omega
  show (if kind = 0 then _ else _) = none
  rw [if_neg (other 0 (by decide)), if_neg (other 1 (by decide)), if_neg (other 2 (by decide))]

/-- A request's frame is read as the request. -/
theorem requestOf_request {kind : Byte} {i : Instr} (hb : requestBody kind.toNat body = some i) (h : body.length.ble 65534 = true := by rfl) :
    requestOf (panelFrame (kind :: body)) = i := by
  rw [requestOf_panelFrame kind (Nat.lt_succ_of_le (Nat.le_of_ble_eq_true h)), hb]
  rfl

/-! ## The socket line -/

theorem check_beBytes (c : BitVec 16) : BitVec.ofNat 16 (beValue (beBytes 2 c.toNat)) = c := by
  rw [beValue_beBytes 2 _ c.isLt]
  exact BitVec.eq_of_toNat_eq ((BitVec.toNat_ofNat _ _).trans (Nat.mod_eq_of_lt c.isLt))

theorem socketReportOf_unplug (c : BitVec 16) : socketReportOf (2 :: beBytes 2 c.toNat) = some (.unplugReport c) := by
  refine congrArg (fun x => some (Instr.unplugReport x)) ?_
  exact check_beBytes c

theorem socketReportOf_state (h : body.length = 9) (c : BitVec 16) :
    socketReportOf (3 :: body ++ beBytes 2 c.toNat) = some (.socketStateReport body c) := by
  have length : (body ++ beBytes 2 c.toNat).length = 11 := by rw [List.length_append, h, beBytes_length]
  have start : (body ++ beBytes 2 c.toNat).take 9 = body := List.take_left' h
  have check : fieldAt (body ++ beBytes 2 c.toNat) 9 2 = beValue (beBytes 2 c.toNat) := by
    rw [fieldAt, List.drop_left' h, List.take_of_length_le (le_of_eq (beBytes_length 2 _))]
  have report : socketReportOf (3 :: (body ++ beBytes 2 c.toNat)) = some (.socketStateReport ((body ++ beBytes 2 c.toNat).take 9)
      (BitVec.ofNat 16 (fieldAt (body ++ beBytes 2 c.toNat) 9 2))) := if_pos ⟨rfl, length⟩
  rw [List.cons_append, report, start, check, check_beBytes]

theorem socketReportOf_none {kind : Byte} {rest : List Byte} (h : kind = 0 ∨ 3 < kind.toNat ∨ (kind = 2 ∧ rest.length ≠ 2) ∨
    (kind = 3 ∧ rest.length ≠ 11)) : socketReportOf (kind :: rest) = none := by
  rcases h with rfl | h | ⟨rfl, h⟩ | ⟨rfl, h⟩
  · rfl
  · have other (k : Byte) (hk : k.toNat ≤ 3) : kind ≠ k := fun e => by rw [e] at h; omega
    exact (if_neg (other 1 (by decide))).trans ((if_neg fun k => other 2 (by decide) k.1).trans
      (if_neg fun k => other 3 (by decide) k.1))
  · exact if_neg fun k => h k.2
  · exact if_neg fun k => h k.2

/-! ## O52 -/

/-- Settles O52, each line by its own form. -/
theorem framesRoundTrip : Obligations.FramesRoundTrip := by
  refine ⟨fun station kind payload hk hp => ⟨rfl, lineImage_length station kind payload, parseFrame_lineImage station hk hp⟩,
    fun card c g a n hc => ?_, fun kind body h hk => requestOf_panelFrame_none h (requestBody_kind hk),
    fun kind body h hk => requestOf_panelFrame_none h (requestBody_length hk),
    ⟨fun _ => rfl, socketReportOf_unplug, fun body c h => socketReportOf_state h c, fun kind rest h => socketReportOf_none h,
      rfl, rfl⟩, fun frame hf => ?_⟩
  · intro number is
    have named (f : BitVec 24 → Instr) : f (BitVec.ofNat 24 (beValue number)) = f n := congrArg f (number_beBytes n)
    refine ⟨requestOf_request (if_pos hc) (by rw [hc]; rfl), requestOf_request (congrArg some (named (Instr.plan c g · a))),
      requestOf_request (congrArg some (named (Instr.amend c))), requestOf_request rfl, requestOf_request rfl, requestOf_request rfl,
      requestOf_request rfl, requestOf_request rfl, requestOf_request rfl, requestOf_request rfl, requestOf_request rfl,
      requestOf_request (congrArg some (named Instr.noteCopy)), requestOf_request rfl, fun h => ?_, fun h => ?_⟩
    · exact requestOf_panelFrame_none (Nat.le_of_ble_eq_true rfl) (if_neg h)
    · exact requestOf_panelFrame_none (Nat.le_of_ble_eq_true rfl) (requestBody_status h)
  · refine if_neg fun k => ?_
    obtain ⟨filled, length, check⟩ := k
    rcases hf with hf | hf | hf
    · exact hf length
    · omega
    · unfold checkAgrees at check
      exact hf (beq_iff_eq.mp (Bool.and_eq_true_iff.mp check).2)

end Sys2Proof.Machine
end

section
/-! The partial slices at the release of the RESTART line (R102, R112, R139; O51). -/

namespace Sys2Proof.Machine

variable {s t u : State} {a b : ArmId} {f : SliceFigures} {n : Nat}

/-! ## What a partial slice leaves -/

/-- A batch less its preset and its line flags. -/
def Batch.outline (b : Batch) : Batch := { b with
  preset := 0
  pendPreset := none
  flags := ⟨false, false, false, false, false⟩ }

/-- A session less its fault latches. -/
def Session.outline (x : Session) : Session := { x with latches := Vector.replicate 4 false }

/-- What a slice leaves beside the arms: batches but for preset and flags, the session but for its latches, and all but the flow
side. -/
structure State.SliceFrame (s t : State) : Prop where
  batches : ∀ k, (t.batch k).map Batch.outline = (s.batch k).map Batch.outline
  session : t.session.outline = s.session.outline
  rest : t = { s with
    arms := t.arms
    headers := t.headers
    injectors := t.injectors
    batches := t.batches
    session := t.session
    link := t.link
    periodTimer := t.periodTimer
    freeDraws := t.freeDraws }

theorem State.SliceFrame.refl (s : State) : s.SliceFrame s := ⟨fun _ => rfl, rfl, rfl⟩

theorem State.SliceFrame.trans (h : s.SliceFrame t) (k : t.SliceFrame u) : s.SliceFrame u where
  batches c := (k.batches c).trans (h.batches c)
  session := k.session.trans h.session
  rest := k.rest.trans (congrArg (fun x : State => { x with
    arms := u.arms
    headers := u.headers
    injectors := u.injectors
    batches := u.batches
    session := u.session
    link := u.link
    periodTimer := u.periodTimer
    freeDraws := u.freeDraws }) h.rest)

/-- The flow side alone. -/
theorem State.SliceFrame.flow (h : s.SameButFlow t) : s.SliceFrame t where
  batches k := congrArg (Option.map Batch.outline) (congrArg (·[k]) (h.field State.batches))
  session := congrArg Session.outline h.session
  rest := by
    have batches : t.batches = s.batches := h.field State.batches
    have draws : t.freeDraws = s.freeDraws := h.field State.freeDraws
    rw [batches, h.session, draws]
    exact h

theorem State.SliceFrame.modBatch (k : CompId) {g : Batch → Batch} (hg : ∀ b, (g b).outline = b.outline) (s : State) :
    s.SliceFrame (s.modBatch k g) where
  batches j := by
    rw [State.batch_modBatch]
    split
    · rw [Option.map_map]
      exact congrArg (fun f => (s.batch j).map f) (funext hg)
    · rfl
  session := rfl
  rest := rfl

section
variable (h : s.SliceFrame t)
include h

theorem State.SliceFrame.field {β : Type} (g : State → β) : g t = g { s with
    arms := t.arms
    headers := t.headers
    injectors := t.injectors
    batches := t.batches
    session := t.session
    link := t.link
    periodTimer := t.periodTimer
    freeDraws := t.freeDraws } := congrArg g h.rest

theorem State.SliceFrame.restart : t.restart = s.restart := h.field State.restart
theorem State.SliceFrame.cfg : t.cfg = s.cfg := h.field State.cfg
theorem State.SliceFrame.now : t.now = s.now := h.field State.now

end

/-- An arm less what stages 5 to 7 of a slice touch under the RESTART line. -/
def Arm.metered (m : Arm) : Arm := { m with
  reserved := none
  stepUp := .none
  meterCause := false
  live := { m.live with
    owed := 0
    commanded := 0
    pulseErr := 0 } }

/-- What stages 5 to 7 of a partial slice on an arm leave under the RESTART line. -/
structure State.Doses (a : ArmId) (s t : State) : Prop where
  frame : s.SliceFrame t
  others : ∀ b, b ≠ a → (t.arm b).sansShares = (s.arm b).sansShares
  self : (t.arm a).metered = (s.arm a).metered

theorem State.Doses.refl (a : ArmId) (s : State) : State.Doses a s s := ⟨.refl s, fun _ _ => rfl, rfl⟩

theorem State.Doses.trans (h : State.Doses a s t) (k : State.Doses a t u) : State.Doses a s u :=
  ⟨h.frame.trans k.frame, fun b hb => (k.others b hb).trans (h.others b hb), k.self.trans h.self⟩

theorem State.Doses.shares (a : ArmId) (h : SharesMove s t) : State.Doses a s t :=
  ⟨.flow h.sameButFlow, fun b _ => h.arm b, h.armField Arm.metered (fun _ => rfl) a⟩

theorem State.Doses.modArm (a : ArmId) {g : Arm → Arm} (s : State) (hg : ∀ m, (g m).metered = m.metered := by intro _; rfl) :
    State.Doses a s (s.modArm a g) where
  frame := .flow rfl
  others b hb := by rw [State.arm_modArm, if_neg hb]
  self := State.arm_view Arm.metered a g hg s a

theorem State.Doses.modBatch (a : ArmId) (k : CompId) {g : Batch → Batch} (s : State)
    (hg : ∀ b, (g b).outline = b.outline := by intro _; rfl) : State.Doses a s (s.modBatch k g) :=
  ⟨.modBatch k hg s, fun _ _ => rfl, rfl⟩

theorem State.Doses.ite {c : Prop} [Decidable c] (h : c → State.Doses a s t) (k : ¬c → State.Doses a s u) :
    State.Doses a s (if c then t else u) := by
  split
  · exact h ‹_›
  · exact k ‹_›

/-! ## Stages 5 to 7 -/

theorem State.closeDemand_restart {k : CloseKind} {r : Reason} {m : Manner} (hr : s.restart = true) : s.closeDemand a k r m = s :=
  if_pos hr

theorem State.faultEffect_doses (a : ArmId) (j : ArmId) (c : CompId) (hr : s.restart = true) : State.Doses a s (s.faultEffect j c) := by
  have flagged : State.Doses a s (if s.monitor.bypass = true then s.flagLine c LineFlags.setBypassed
      else if (s.arm j).stage.flowing = true then s.closeDemand j .stop .additive .controlled else s) := by
    refine .ite (fun _ => .modBatch a c s) fun _ => .ite (fun _ => ?_) fun _ => .refl a s
    rw [State.closeDemand_restart hr]
    exact .refl a s
  exact flagged.trans (.shares a (State.recheckReservation_moves j _))

theorem State.judgeWindow_doses (a : ArmId) (i : InjectorId) (hr : s.restart = true) : State.Doses a s (s.judgeWindow i) := by
  unfold State.judgeWindow
  split
  · exact .refl a s
  · rename_i w _
    have closed (g : Injector → Injector) : State.Doses a s (s.modInjector i g) := ⟨.flow rfl, fun _ _ => rfl, rfl⟩
    have latched (x : State) : State.Doses a x (x.modSession fun y => { y with latches := y.latches.set i true }) :=
      ⟨⟨fun _ => rfl, rfl, rfl⟩, fun _ _ => rfl, rfl⟩
    refine .ite (fun _ => ?_) fun _ => closed _
    exact (closed _).trans ((latched _).trans (State.faultEffect_doses a _ w.batch hr))

theorem State.shotDue_release (b : Batch) (i : InjectorId) : s.shotDue a b i true = false := Bool.and_false _

theorem State.dose_doses (n : Nat) : State.Doses a s (s.dose a n true) := by
  unfold State.dose
  split
  · exact .refl a s
  · split
    · exact .refl a s
    · dsimp only
      split
      · exact .modArm a s
      · rw [State.shotDue_release, if_neg Bool.false_ne_true]
        exact .modArm a s

theorem State.dualPulse_doses (f : SliceFigures) (hr : s.restart = true) : State.Doses a s (s.dualPulse a f) := by
  have fault (x : State) (hx : x.restart = true) : State.Doses a x (x.meterFault a) := by
    have told := (State.Doses.modArm a (g := fun m => { m with meterCause := true }) x).trans
      (.shares a (State.recheckReservation_moves a _))
    unfold State.meterFault
    refine .ite (fun _ => ?_) fun _ => told
    rw [State.closeDemand_restart (told.frame.restart.trans hx)]
    exact told
  unfold State.dualPulse
  refine .ite (fun _ => ?_) fun _ => .refl a s
  have counted := State.Doses.modArm a (g := fun x => { x with live := { x.live with
    pulseErr := min 4294967295 ((s.arm a).live.pulseErr + mismatch f.pulses f.bCount) } }) s
  exact .ite (fun _ => counted.trans (fault _ hr)) fun _ => counted

theorem State.applyPreset_doses : State.Doses a s (s.applyPreset a true) := by
  unfold State.applyPreset
  split
  · exact .refl a s
  · split
    · exact .refl a s
    · dsimp only
      rw [Bool.not_true, Bool.and_false, Bool.false_and, if_neg Bool.false_ne_true]
      exact .modBatch a _ s

/-- Of the stage tests a partial slice takes the preset alone (R128). -/
theorem State.stageTests_doses : State.Doses a s (s.stageTests a true true) := by
  have preset : s.stageTests a true true = s.applyPreset a true := rfl
  rw [preset]
  exact State.applyPreset_doses

/-! ## Stage 3 -/

theorem State.flagOwner_frame (g : LineFlags → LineFlags) : s.SliceFrame (s.flagOwner a g) := by
  unfold State.flagOwner
  split
  · exact (State.Doses.modBatch a _ s).frame
  · exact .refl s

theorem State.flagOwner_arm (g : LineFlags → LineFlags) : (s.flagOwner a g).arm b = s.arm b := by
  unfold State.flagOwner
  split <;> rfl

theorem State.addSlice_frame : s.SliceFrame (s.addSlice a f) := by
  have flagged (c : Bool) (g : LineFlags → LineFlags) (x : State) : x.SliceFrame (if c = true then x.flagOwner a g else x) := by
    split
    · exact State.flagOwner_frame g
    · exact .refl x
  have added : s.SliceFrame { s.modArm a fun m => { m with
      live := m.live.add s.freeDraws f
      grossTotal := m.grossTotal + BitVec.ofNat 48 f.dG
      stdTotal := m.stdTotal + BitVec.ofNat 48 f.dS } with freeDraws := s.freeDraws + 3 } := ⟨fun _ => rfl, rfl, rfl⟩
  exact (added.trans (flagged _ _ _)).trans (flagged _ _ _)

/-- An arm as a slice's volumes leave it (R118, R122). -/
def Arm.added (draws : Nat) (f : SliceFigures) (m : Arm) : Arm := { m with
  live := m.live.add draws f
  grossTotal := m.grossTotal + BitVec.ofNat 48 f.dG
  stdTotal := m.stdTotal + BitVec.ofNat 48 f.dS }

theorem State.addSlice_arm : (s.addSlice a f).arm b = if b = a then (s.arm b).added s.freeDraws f else s.arm b := by
  have flagged (c : Bool) (g : LineFlags → LineFlags) (x : State) : (if c = true then x.flagOwner a g else x).arm b = x.arm b := by
    split
    · exact State.flagOwner_arm g
    · rfl
  unfold State.addSlice
  dsimp only
  rw [flagged, flagged]
  exact State.arm_modArm a b (Arm.added s.freeDraws f) s

/-! ## The arm at the release -/

/-- An arm less what its release sets. -/
def Arm.figures (m : Arm) : Arm := { m.metered with
  sliceCounter := 0
  bCount := 0
  lastA := none
  sliceTimer := none
  stage := .closed
  heldShare := 0
  close := none
  leak := false
  leakCause := false
  yieldMark := false }

theorem Arm.figures_of_metered {m n : Arm} (h : m.metered = n.metered) : m.figures = n.figures :=
  congrArg (fun x : Arm => { x with
    sliceCounter := 0
    bCount := 0
    lastA := none
    sliceTimer := none
    stage := .closed
    heldShare := 0
    close := none
    leak := false
    leakCause := false
    yieldMark := false }) h

theorem Arm.figures_of_sansShares {m n : Arm} (h : m.sansShares = n.sansShares) : m.figures = n.figures := by
  show m.sansShares.figures = n.sansShares.figures
  rw [h]

theorem Arm.field_of_figures {β : Type} (g : Arm → β) {m n : Arm} (h : m.figures = n.figures)
    (hg : ∀ m : Arm, g m.figures = g m := by intro _; rfl) : g m = g n := by rw [← hg m, h, hg]

theorem Arm.field_of_sansShares {β : Type} (g : Arm → β) {m n : Arm} (h : m.sansShares = n.sansShares)
    (hg : ∀ m : Arm, g m.sansShares = g m := by intro _; rfl) : g m = g n := by rw [← hg m, h, hg]

/-- What one operation on an arm leaves of the part, of the other arms and of the arm's figures. -/
structure State.Releases (a : ArmId) (s t : State) : Prop where
  frame : s.SliceFrame t
  others : ∀ b, b ≠ a → (t.arm b).sansShares = (s.arm b).sansShares
  self : (t.arm a).figures = (s.arm a).figures

theorem State.Releases.refl (a : ArmId) (s : State) : State.Releases a s s := ⟨.refl s, fun _ _ => rfl, rfl⟩

theorem State.Releases.trans (h : State.Releases a s t) (k : State.Releases a t u) : State.Releases a s u :=
  ⟨h.frame.trans k.frame, fun b hb => (k.others b hb).trans (h.others b hb), k.self.trans h.self⟩

theorem State.Doses.releases (h : State.Doses a s t) : State.Releases a s t :=
  ⟨h.frame, h.others, Arm.figures_of_metered h.self⟩

theorem State.Releases.modArm (a : ArmId) {g : Arm → Arm} (s : State) (hg : ∀ m, (g m).figures = m.figures := by intro _; rfl) :
    State.Releases a s (s.modArm a g) where
  frame := .flow rfl
  others b hb := by rw [State.arm_modArm, if_neg hb]
  self := by
    rw [State.arm_modArm_self]
    exact hg _

theorem State.Releases.close (a : ArmId) (s : State) : State.Releases a s (s.moveStage a .closed) where
  frame := .flow rfl
  others b hb := by rw [State.moveStage_arm, if_neg hb]
  self := by
    rw [State.moveStage_arm, if_pos rfl]
    rfl

/-- The partial slice at the release, past the addition of its volumes. -/
theorem State.releaseSlice_releases (hr : s.restart = true) :
    State.Releases a (s.addSlice a (s.sliceFigures a true)) (s.releaseSlice a) := by
  have line : (s.addSlice a (s.sliceFigures a true)).restart = true := State.addSlice_frame.restart.trans hr
  have dosed := State.dose_doses (s := s.addSlice a (s.sliceFigures a true)) (a := a) (s.sliceFigures a true).dG
  have counted := dosed.trans (State.dualPulse_doses (a := a) (s.sliceFigures a true) (dosed.frame.restart.trans line))
  have tested := counted.trans (State.stageTests_doses (a := a))
  have reloaded (x : State) : State.Releases a x (x.reload a true) := by
    unfold State.reload
    exact .modArm a x
  unfold State.releaseSlice
  exact tested.releases.trans (reloaded _)

theorem State.judgeWindows_releases (hr : s.restart = true) :
    State.Releases a s (s.eachInjector fun i x => if (x.injectorCfg i).arm = a then x.judgeWindow i else x) := by
  have one (i : InjectorId) (x : State) (h : State.Doses a s x) : State.Doses a s (if (x.injectorCfg i).arm = a then x.judgeWindow i else x) :=
    h.trans (.ite (fun _ => State.judgeWindow_doses a i (h.frame.restart.trans hr)) fun _ => .refl a x)
  exact (one 3 _ (one 2 _ (one 1 _ (one 0 s (.refl a s))))).releases

theorem State.releaseArm_releases (hr : s.restart = true) :
    State.Releases a (if (s.arm a).stage.isOpen then s.addSlice a (s.sliceFigures a true) else s) (s.releaseArm a) := by
  unfold State.releaseArm
  refine .trans ?_ (.modArm a _)
  by_cases opened : (s.arm a).stage.isOpen = true
  · rw [if_pos opened, if_pos opened]
    have sliced := State.releaseSlice_releases (a := a) hr
    have line : (s.releaseSlice a).restart = true := sliced.frame.restart.trans (State.addSlice_frame.restart.trans hr)
    exact (sliced.trans (State.judgeWindows_releases line)).trans ((State.Releases.close a _).trans (.modArm a _))
  · rw [if_neg opened, if_neg opened]
    exact .refl a s

theorem State.releaseArm_closed : ((s.releaseArm a).arm a).stage = .closed ∧ ((s.releaseArm a).arm a).leakCause = false := by
  have closed (x : State) (g : Arm → Arm) (hg : ∀ m, (g m).stage = m.stage) : (((x.moveStage a .closed).modArm a g).arm a).stage = .closed := by
    rw [State.arm_modArm_self, hg, State.moveStage_arm, if_pos rfl]
  unfold State.releaseArm
  refine ⟨?_, by rw [State.arm_modArm_self]⟩
  rw [State.arm_modArm_self]
  dsimp only
  split
  · exact closed _ _ fun _ => rfl
  · rename_i shut
    cases e : (s.arm a).stage <;> simp_all [Stage.isOpen]

/-! ## All arms at the release -/

/-- What an operation on other arms leaves of the part and of an arm. -/
structure State.Aside (a : ArmId) (s t : State) : Prop where
  frame : s.SliceFrame t
  arm : (t.arm a).sansShares = (s.arm a).sansShares

theorem State.Aside.refl (a : ArmId) (s : State) : State.Aside a s s := ⟨.refl s, rfl⟩

theorem State.Aside.trans (h : State.Aside a s t) (k : State.Aside a t u) : State.Aside a s u :=
  ⟨h.frame.trans k.frame, k.arm.trans h.arm⟩

theorem State.releaseArm_frame (a : ArmId) (hr : s.restart = true) : s.SliceFrame (s.releaseArm a) := by
  refine State.SliceFrame.trans ?_ (State.releaseArm_releases hr).frame
  split
  · exact State.addSlice_frame
  · exact .refl s

theorem State.releaseArm_aside (h : b ≠ a) (hr : s.restart = true) : State.Aside b s (s.releaseArm a) := by
  refine ⟨State.releaseArm_frame a hr, ((State.releaseArm_releases hr).others b h).trans ?_⟩
  split
  · rw [State.addSlice_arm, if_neg h]
  · rfl

/-- Each arm has its own release between those of the others. -/
theorem State.releaseArms_own (hr : s.restart = true) (b : ArmId) :
    ∃ y, State.Aside b s y ∧ State.Aside b (y.releaseArm b) (s.eachArm State.releaseArm) := by
  have line (x : State) (a : ArmId) (hx : x.restart = true) : (x.releaseArm a).restart = true :=
    (State.releaseArm_frame a hx).restart.trans hx
  have h0 := line s 0 hr
  have h1 := line _ 1 h0
  have h2 := line _ 2 h1
  have aside (x : State) (a : ArmId) (hx : x.restart = true) (h : b ≠ a) : State.Aside b x (x.releaseArm a) :=
    State.releaseArm_aside h hx
  match b with
  | 0 =>
    exact ⟨s, .refl 0 s, ((aside _ 1 h0 (by decide)).trans (aside _ 2 h1 (by decide))).trans (aside _ 3 h2 (by decide))⟩
  | 1 => exact ⟨_, aside s 0 hr (by decide), (aside _ 2 h1 (by decide)).trans (aside _ 3 h2 (by decide))⟩
  | 2 => exact ⟨_, (aside s 0 hr (by decide)).trans (aside _ 1 h0 (by decide)), aside _ 3 h2 (by decide)⟩
  | 3 =>
    exact ⟨_, ((aside s 0 hr (by decide)).trans (aside _ 1 h0 (by decide))).trans (aside _ 2 h1 (by decide)), .refl 3 _⟩

theorem toNat_add_ofNat (x : BitVec 48) (k : Nat) : (x + BitVec.ofNat 48 k).toNat = (x.toNat + k) % 2 ^ 48 := by
  rw [BitVec.toNat_add, BitVec.toNat_ofNat, Nat.add_mod_mod]

/-- The volumes that a slice adds, as its arm then shows them (R114 to R118, R122). -/
theorem State.sliceAdded_of (h : (t.arm a).figures = ((s.arm a).added n (s.sliceFigures a true)).figures) :
    s.SliceAdded t a ((s.armCfg a).slice - (s.arm a).sliceCounter) (max 1 ((s.arm a).lastA.getD 1)) := by
  have grossRem := Arm.field_of_figures (fun m => m.live.grossRem) h
  have stdRem := Arm.field_of_figures (fun m => m.live.stdRem) h
  have gross := Arm.field_of_figures (fun m => m.live.gross) h
  have std := Arm.field_of_figures (fun m => m.live.std) h
  have weighted := Arm.field_of_figures (fun m => m.live.weighted) h
  have grossTotal := Arm.field_of_figures Arm.grossTotal h
  have stdTotal := Arm.field_of_figures Arm.stdTotal h
  refine ⟨(s.sliceFigures a true).dG, (s.sliceFigures a true).dS, fun hk => ?_, ?_, ?_, ?_, fun fits => ?_, fun fits => ?_,
    fun low high => ?_, ?_, ?_⟩
  · rw [grossRem]
    exact Nat.mod_lt _ hk
  · rw [grossRem]
    exact Nat.div_add_mod _ _
  · rw [stdRem]
    exact Nat.mod_lt _ (by decide)
  · rw [stdRem]
    exact Nat.div_add_mod _ _
  · rw [gross]
    exact if_pos fits
  · rw [std]
    exact if_pos fits
  · rw [weighted]
    exact if_pos ⟨low, high⟩
  · rw [grossTotal]
    exact toNat_add_ofNat _ _
  · rw [stdTotal]
    exact toNat_add_ofNat _ _

theorem State.SliceAdded.before {p d : Nat} (h : s.SliceAdded u a p d) (hc : t.cfg = s.cfg)
    (ha : (t.arm a).sansShares = (s.arm a).sansShares) : t.SliceAdded u a p d := by
  have live := Arm.field_of_sansShares Arm.live ha
  have lastGood := Arm.field_of_sansShares Arm.lastGood ha
  have grossTotal := Arm.field_of_sansShares Arm.grossTotal ha
  have stdTotal := Arm.field_of_sansShares Arm.stdTotal ha
  unfold State.SliceAdded State.armCfg State.headerCfg at h ⊢
  dsimp only at h ⊢
  rw [live, lastGood, grossTotal, stdTotal, hc]
  exact h

/-- A slice's volumes are seen in the live figures and the totalizers alone. -/
theorem State.SliceAdded.after {p d : Nat} (h : s.SliceAdded t a p d) (live : (u.arm a).live = (t.arm a).live)
    (grossTotal : (u.arm a).grossTotal = (t.arm a).grossTotal) (stdTotal : (u.arm a).stdTotal = (t.arm a).stdTotal) :
    s.SliceAdded u a p d := by
  unfold State.SliceAdded at *
  rw [live, grossTotal, stdTotal]
  exact h

theorem State.releaseArm_self (hr : s.restart = true) : ((s.releaseArm a).arm a).figures =
    (if (s.arm a).stage.isOpen then (s.arm a).added s.freeDraws (s.sliceFigures a true) else s.arm a).figures := by
  rw [(State.releaseArm_releases hr).self]
  split
  · rw [State.addSlice_arm, if_pos rfl]
  · rfl

theorem State.releaseArm_shut (h : (s.arm a).stage = .closed) : s.releaseArm a = s.modArm a fun m => { m with
    leakCause := false
    yieldMark := false } := by
  unfold State.releaseArm
  rw [h]
  rfl

/-- One arm at stage 1 (R112, R153, R139): CLOSED, its partial slice taken where it was open. -/
structure State.ArmSliced (a : ArmId) (s t : State) : Prop where
  closed : (t.arm a).stage = .closed ∧ (t.arm a).leakCause = false
  kept : (t.arm a).owner = (s.arm a).owner ∧ (t.arm a).closeAhead = (s.arm a).closeAhead ∧
    (t.arm a).lastGood = (s.arm a).lastGood ∧ (t.arm a).lastRate = (s.arm a).lastRate
  added : (s.arm a).stage ≠ .closed →
    s.SliceAdded t a ((s.armCfg a).slice - (s.arm a).sliceCounter) (max 1 ((s.arm a).lastA.getD 1))
  idle : (s.arm a).stage = .closed → (t.arm a).live = (s.arm a).live ∧
    (t.arm a).grossTotal = (s.arm a).grossTotal ∧ (t.arm a).stdTotal = (s.arm a).stdTotal

theorem State.releaseArm_sliced (hr : s.restart = true)
    (h : (t.arm a).sansShares = ((s.releaseArm a).arm a).sansShares) : State.ArmSliced a s t := by
  have figures := (Arm.figures_of_sansShares h).trans (State.releaseArm_self hr)
  have kept {β : Type} (g : Arm → β) (ha : ∀ n f m, g (Arm.added n f m) = g m := by intros; rfl)
      (hg : ∀ m : Arm, g m.figures = g m := by intro _; rfl) : g (t.arm a) = g (s.arm a) := by
    refine (Arm.field_of_figures g figures hg).trans ?_
    split
    · exact ha _ _ _
    · rfl
  refine ⟨?_, ⟨kept Arm.owner, kept Arm.closeAhead, kept Arm.lastGood, kept Arm.lastRate⟩, fun opened => ?_, fun shut => ?_⟩
  · exact ⟨(Arm.field_of_sansShares Arm.stage h).trans State.releaseArm_closed.1,
      (Arm.field_of_sansShares Arm.leakCause h).trans State.releaseArm_closed.2⟩
  · have flows : (s.arm a).stage.isOpen = true := by
      cases e : (s.arm a).stage <;> simp_all [Stage.isOpen]
    rw [if_pos flows] at figures
    exact State.sliceAdded_of figures
  · rw [State.releaseArm_shut shut, State.arm_modArm_self] at h
    have live := Arm.field_of_sansShares Arm.live h
    have grossTotal := Arm.field_of_sansShares Arm.grossTotal h
    have stdTotal := Arm.field_of_sansShares Arm.stdTotal h
    exact ⟨live, grossTotal, stdTotal⟩

theorem State.ArmSliced.before (h : State.ArmSliced a s u) (hc : t.cfg = s.cfg) (ha : (t.arm a).sansShares = (s.arm a).sansShares) :
    State.ArmSliced a t u := by
  have field {β : Type} (g : Arm → β) (hg : ∀ m : Arm, g m.sansShares = g m := by intro _; rfl) : g (t.arm a) = g (s.arm a) :=
    Arm.field_of_sansShares g ha hg
  have stage := field Arm.stage
  have cfg : t.armCfg a = s.armCfg a := congrArg (fun c : ConfigImage => c.arms[a]) hc
  refine ⟨h.closed, ?_, fun opened => ?_, fun shut => ?_⟩
  · rw [field Arm.owner, field Arm.closeAhead, field Arm.lastGood, field Arm.lastRate]
    exact h.kept
  · rw [cfg, field Arm.sliceCounter, field Arm.lastA]
    exact (h.added (stage ▸ opened)).before hc ha
  · rw [field Arm.live, field Arm.grossTotal, field Arm.stdTotal]
    exact h.idle (stage ▸ shut)

/-- Stage 1 as a whole. -/
theorem State.releaseArms_sliced (hr : s.restart = true) : s.SliceFrame (s.eachArm State.releaseArm) ∧
    ∀ a, State.ArmSliced a s (s.eachArm State.releaseArm) := by
  refine ⟨?_, fun a => ?_⟩
  · obtain ⟨y, before, after⟩ := State.releaseArms_own hr 0
    exact before.frame.trans ((State.releaseArm_frame 0 (before.frame.restart.trans hr)).trans after.frame)
  · obtain ⟨y, before, after⟩ := State.releaseArms_own hr a
    exact (State.releaseArm_sliced (before.frame.restart.trans hr) after.arm).before before.frame.cfg.symm before.arm.symm

end Sys2Proof.Machine
end

section
/-! The release of the RESTART line (R181, R178; O51): stages 2 to 7, and the release that stage 5 has waited for. -/

namespace Sys2Proof.Machine

variable {s t u : State} {a : ArmId} {f : TxFrame}

/-! ## The totalizer block (R123, R183) -/

theorem State.queueWrite_totals (block : Totals) (s : State) : s.queueWrite (.totals block) = s.modRetention fun r => { r with
    queue := r.queue ++ [.totals block]
    writeTimer := if r.queue.isEmpty then s.after Config.writeMs else r.writeTimer } := if_neg (by simp [Write.needless])

/-- The block is written after what waits, or held where the write queue is full. -/
theorem State.handTotals_eq (s : State) : ∃ r, s.handTotals = { s with retention := r } ∧ r.mem = s.retention.mem ∧
    (s.retention.queue.length < 4 → r.queue = s.retention.queue ++ [.totals s.totalsNow] ∧ r.held = s.retention.held) := by
  unfold State.handTotals
  split
  · rw [State.queueWrite_totals]
    exact ⟨_, rfl, rfl, fun _ => ⟨rfl, rfl⟩⟩
  · rename_i full
    exact ⟨_, rfl, rfl, fun room => absurd (decide_eq_true room) full⟩

/-- A held block follows where the write queue has room. -/
theorem State.offerHeld_eq (s : State) : ∃ r, s.offerHeld = { s with retention := r } ∧
    (s.retention.held = none → r.queue = s.retention.queue) ∧
    (∀ block, s.retention.held = some block → s.retention.queue.length < 4 →
      r.queue = s.retention.queue ++ [.totals block] ∧ r.held = none) := by
  unfold State.offerHeld
  split
  · rename_i block held
    split
    · rw [State.queueWrite_totals]
      exact ⟨_, rfl, fun h => (nomatch held.symm.trans h), fun other h _ => ⟨by cases held.symm.trans h; rfl, rfl⟩⟩
    · rename_i full
      exact ⟨s.retention, rfl, fun _ => rfl, fun _ _ room => absurd (decide_eq_true room) full⟩
  · rename_i none
    exact ⟨s.retention, rfl, fun _ => rfl, fun _ h => nomatch none.symm.trans h⟩

/-! ## The listen period -/

/-- The listen period begun with its STATE as the one frame of the queue, waiting for the line (R4, R28). -/
def State.listening (s : State) : State := { s with
  station := .starting
  listenTimer := some (s.now + 3000)
  periodTimer := some (s.now + 1000)
  link := { s.link with
    tx := .ready
    attempts := 0
    wait := 0
    queue := [⟨s.link.nextId, .state, lineImage s.cfg.station 1 ({ s with station := .starting } : State).statePayload⟩]
    lastStateStop := s.ownStop
    nextId := s.link.nextId + 1 } }

theorem State.beginListen_emptied (hq : s.link.queue = []) (ht : s.link.tx = .empty) (hi : s.link.lineIdle = false)
    (hr : s.restart = false) : s.beginListen = s.listening := by
  obtain ⟨x, hx⟩ : ∃ x : State, x = { s with
    station := .starting
    listenTimer := s.after Config.listenMs } := ⟨_, rfl⟩
  have opened : x.linkOpen = true := x.linkOpen_iff.mpr (by rw [hx]; exact ⟨nofun, hr⟩)
  have clear : x.station ≠ .clash := by rw [hx]; nofun
  have queue : x.link.queue = [] := by rw [hx]; exact hq
  have begun : s.beginListen = x.composeState := by rw [hx]; rfl
  rw [begun, State.composeState_open opened, State.stateTaken_first clear queue, Link.wake_empty_busy (by rw [hx]; exact ht)
    (by rw [hx]; exact hi), hx]
  rfl

/-! ## The release that stage 5 has waited for (log 37) -/

theorem State.releaseStage5_eq (s : State) : ∃ r, s.releaseStage5 = ({ s.sampled with
      link := s.link.released
      retention := r } : State).listening ∧
    (s.retention.queue.length < 4 → s.retention.held = none → r.queue = s.retention.queue ++ [.totals s.totalsNow]) ∧
    ∀ zeros, s.retention.queue.length < 3 → s.retention.held = some zeros →
      r.queue = s.retention.queue ++ [.totals s.totalsNow, .totals zeros] ∧ r.held = none := by
  obtain ⟨r, handed, -, queued⟩ := (s.modLink Link.released).handTotals_eq
  obtain ⟨x, hx⟩ : ∃ x : State, x = { s.modLink Link.released with retention := r } := ⟨_, rfl⟩
  obtain ⟨r', offered, none, some⟩ := x.sampled.offerHeld_eq
  have held : x.sampled.retention = r := by rw [hx]; rfl
  rw [held] at none some
  refine ⟨r', ?_, fun room held => ?_, fun zeros room held => ?_⟩
  · unfold State.releaseStage5
    rw [handed, ← hx, State.stage5_eq, offered, hx]
    exact State.beginListen_emptied rfl rfl rfl rfl
  · obtain ⟨queue, kept⟩ := queued room
    exact (none (kept.trans held)).trans queue
  · obtain ⟨queue, kept⟩ := queued (Nat.lt_succ_of_lt room)
    have length : r.queue.length < 4 := by
      rw [queue, List.length_append]
      exact Nat.succ_lt_succ room
    obtain ⟨both, freed⟩ := some zeros (kept.trans held) length
    refine ⟨both.trans ?_, freed⟩
    rw [queue, List.append_assoc]
    rfl

end Sys2Proof.Machine
end

section
/-! The completion of an ENDING session behind a held front frame (R33, R52, R54; O51). -/

namespace Sys2Proof.Machine

variable {s t u : State} {a : ArmId} {f : TxFrame} {l : Link}

/-! ## Steps 1 and 3 to 5 of the completion -/

theorem State.settleComps_eq (l : List CompId) (s : State) : ∃ b, l.foldl State.settleComp s = { s with batches := b } := by
  induction l generalizing s with
  | nil => exact ⟨s.batches, rfl⟩
  | cons c rest ih => exact ih (s.settleComp c)

theorem State.clearWaits_still (hw : ∀ h, (s.header h).retryWait = false) (l : List HeaderId) :
    l.foldl (fun s h => s.modHeader h fun x => { x with retryWait := false }) s = s := by
  induction l with
  | nil => rfl
  | cons h rest ih =>
    have kept : s.modHeader h (fun x => { x with retryWait := false }) = s := by
      have same : s.headers.set h { s.headers[h] with retryWait := false } = s.headers := by
        rw [← show s.headers[h].retryWait = false from hw h]
        exact Vector.set_getElem_self _
      exact congrArg (fun v => { s with headers := v }) same
    rw [List.foldl_cons, kept]
    exact ih

/-- With no batch queued and no retry awaited the settlement is of the batches alone. -/
theorem State.settleBatches_eq (hq : s.startQueue = []) (hw : ∀ h, (s.header h).retryWait = false) :
    ∃ b, s.settleBatches = { s with batches := b } := by
  obtain ⟨b, settled⟩ := State.settleComps_eq allComps s
  refine ⟨b, ?_⟩
  have waits : ∀ h, (({ s with batches := b } : State).header h).retryWait = false := hw
  unfold State.settleBatches
  dsimp only
  rw [settled, hq, ← hq, State.clearWaits_still (s := { s with batches := b }) waits, hq]
  rfl

/-- An arm at the close of a session. -/
def Arm.disowned (m : Arm) : Arm := { m with
  owner := none
  meterCause := false }

/-- The session closed, its STATE not yet composed. -/
def State.sessionClosed (s : State) : State := { s with
  session := s.session.closed
  batches := Vector.replicate 8 none
  injectors := vec4 fun i => { s.injector i with badRun := 0 }
  arms := vec4 fun a => (s.arm a).disowned }

theorem State.closeSession_eq (s : State) : s.closeSession = s.sessionClosed.composeState := by
  have disown (x : State) (h : x.arms = vec4 fun a => { s.arm a with meterCause := false }) :
      (x.eachArm fun a x => x.modArm a fun m => { m with owner := none }) = { x with arms := vec4 fun a => (s.arm a).disowned } := by
    have each (a : ArmId) : { x.arm a with owner := none } = (s.arm a).disowned := by
      unfold State.arm
      rw [h, vec4_get]
      rfl
    rw [State.eachArm_modArm fun _ m => { m with owner := none }]
    exact congrArg (fun g => { x with arms := vec4 g }) (funext each)
  have marks (x : State) : ((x.eachInjector fun i s => s.modInjector i fun y => { y with badRun := 0 }).eachArm fun a s =>
      s.modArm a fun m => { m with meterCause := false }) = { x with
        injectors := vec4 fun i => { x.injector i with badRun := 0 }
        arms := vec4 fun a => { x.arm a with meterCause := false } } := by
    rw [State.eachInjector_modInjector fun _ x => { x with badRun := 0 },
      State.eachArm_modArm fun _ m => { m with meterCause := false }]
    rfl
  unfold State.closeSession
  dsimp only
  rw [marks]
  exact congrArg State.composeState (disown _ rfl)

/-! ## The held front frame -/

/-- A link whose front frame is held on a BUSY line, with at most a NOTE behind it. -/
structure Link.Held (f : TxFrame) (told : Bool) (l : Link) : Prop where
  sending : l.tx = .sending
  busy : l.lineIdle = false
  skips : l.rx = .skip
  told : l.lastStateStop = told
  queue : l.queue = [f] ∨ ∃ n, n.isState = false ∧ l.queue = [f, n]

theorem Link.Held.settled {b : Bool} (h : l.Held f b) : l.Settled := ⟨by rw [h.sending]; nofun, by rw [h.sending]; nofun⟩

theorem Link.Held.front {b : Bool} (h : l.Held f b) : ∃ more, l.queue = f :: more := by
  obtain queue | ⟨n, -, queue⟩ := h.queue
  · exact ⟨[], queue⟩
  · exact ⟨[n], queue⟩

/-- A STATE handed over waits at the tail. -/
theorem Link.Held.pushStateTail {b : Bool} (h : l.Held f b) (g : TxFrame) : l.pushStateTail g = { l with queue := l.queue ++ [g] } := by
  obtain ⟨rest, queue, short, others⟩ : ∃ rest, l.queue = f :: rest ∧ rest.length < 7 ∧ rest.any TxFrame.isState = false := by
    obtain queue | ⟨n, other, queue⟩ := h.queue
    · exact ⟨_, queue, Nat.zero_lt_succ _, rfl⟩
    · exact ⟨_, queue, Nat.succ_lt_succ (Nat.zero_lt_succ _), by rw [List.any_cons, other]; rfl⟩
  have held : (f.isState && l.tx != .sending) = false := by rw [h.sending]; exact Bool.and_false _
  have room : l.queue.length < 8 := by rw [queue]; exact Nat.succ_lt_succ short
  rw [h.settled.pushStateTail]
  unfold Link.pushStateTail
  rw [queue]
  dsimp only
  rw [others, held, if_neg Bool.false_ne_true, if_neg Bool.false_ne_true, Link.pushTail_queue, if_pos room, queue]

/-- A station just restarted whose front frame is held: nothing queued for the dispatcher, no retry awaited. -/
structure State.Held (f : TxFrame) (s : State) : Prop where
  station : s.station = .starting
  released : s.restart = false
  queued : s.startQueue = []
  waits : ∀ h, (s.header h).retryWait = false
  link : s.link.Held f s.ownStop

theorem State.Held.opened (h : s.Held f) : s.linkOpen = true := s.linkOpen_iff.mpr ⟨by rw [h.station]; nofun, h.released⟩

theorem State.Held.clear (h : s.Held f) : s.station ≠ .clash := by rw [h.station]; nofun

theorem State.queueWrite_retention (w : Write) (s : State) :
    ∃ r, s.queueWrite w = { s with retention := r } ∧ r.mem = s.retention.mem := by
  unfold State.queueWrite
  split
  · exact ⟨s.retention, rfl, rfl⟩
  · exact ⟨_, rfl, rfl⟩

/-- A NOTE handed over waits behind the held frame. -/
theorem State.Held.sendNote (h : s.Held f) (hq : s.link.queue = [f]) (number : Nat) (record : List Byte) :
    ∃ n l, s.sendNote number record = { s with
      notes := n
      link := l } ∧ l.Held f s.ownStop := by
  obtain ⟨x, hx⟩ : ∃ x, x = s.modNotes fun y => { y with
    store := y.store.map fun n => if n.number = number then { n with marker := some s.link.nextId } else n } := ⟨_, rfl⟩
  have link : x.link = s.link := by rw [hx]; rfl
  have opened : x.linkOpen = true := by rw [hx]; exact h.opened
  have clear : x.station ≠ .clash := by rw [hx]; exact h.clear
  have room : x.link.queue.length < 8 := by rw [link, hq]; exact Nat.succ_lt_succ (Nat.zero_lt_succ _)
  have handed := State.handTail_eq opened clear (.note number) record
  have waiting : s.link.queue ++ [x.frameNow (.note number) record] = [f, x.frameNow (.note number) record] := by
    rw [hq]
    rfl
  unfold State.sendNote
  dsimp only
  rw [← hx, handed, Link.pushTail_room room, link, h.link.settled.wake, waiting]
  refine ⟨x.notes, ({ s.link with queue := [f, x.frameNow (.note number) record] } : Link).numbered, ?_,
    ⟨h.link.sending, h.link.busy, h.link.skips, h.link.told, .inr ⟨_, rfl, rfl⟩⟩⟩
  rw [hx]
  rfl

theorem State.Held.issueNote (h : s.Held f) (hq : s.link.queue = [f]) : ∃ n r l, s.issueNote = { s with
    notes := n
    retention := r
    link := l } ∧ r.mem = s.retention.mem ∧ l.Held f s.ownStop := by
  obtain ⟨x, hx⟩ : ∃ x : State, x = s.modNotes fun y => { y with
    store := y.store ++ [⟨s.notes.nextNumber, s.noteRecord s.notes.nextNumber, none⟩]
    nextNumber := advanceNumber s.notes.store s.notes.nextNumber
    issueWaiting := false } := ⟨_, rfl⟩
  obtain ⟨r, written, mem⟩ := x.queueWrite_retention (.note s.notes.nextNumber (s.noteRecord s.notes.nextNumber)
    (advanceNumber s.notes.store s.notes.nextNumber))
  have held : ({ x with retention := r } : State).Held f := by
    rw [hx]
    exact ⟨h.station, h.released, h.queued, h.waits, h.link⟩
  have alone : ({ x with retention := r } : State).link.queue = [f] := by
    rw [hx]
    exact hq
  obtain ⟨n, l, sent, line⟩ := held.sendNote alone s.notes.nextNumber (s.noteRecord s.notes.nextNumber)
  refine ⟨n, r, l, ?_, ?_, ?_⟩
  · unfold State.issueNote
    dsimp only
    rw [← hx, written, sent, hx]
    rfl
  · rw [mem, hx]
    rfl
  · rw [hx] at line
    exact line

/-- The STATE of a session closed waits behind the held frame. -/
theorem State.Held.closeSession (h : s.Held f) : ∃ l, s.closeSession = { s.sessionClosed with
      link := l
      periodTimer := some (s.now + 1000) } ∧
    l.tx = .sending ∧ l.lineIdle = false ∧ l.rx = .skip ∧
    l.queue = s.link.queue ++ [⟨s.link.nextId, .state, lineImage s.cfg.station 1 s.sessionClosed.statePayload⟩] := by
  have opened : s.sessionClosed.linkOpen = true := h.opened
  have clear : s.sessionClosed.station ≠ .clash := h.clear
  have told : (s.sessionClosed.link.lastStateStop && !s.sessionClosed.ownStop) = false := by
    show (s.link.lastStateStop && !s.ownStop) = false
    rw [h.link.told]
    exact Bool.and_not_self _
  have taken : s.sessionClosed.stateTaken = { s.link with
      queue := s.link.queue ++ [s.sessionClosed.frameNow .state s.sessionClosed.statePayload] } := by
    unfold State.stateTaken
    rw [if_neg clear, told]
    exact h.link.pushStateTail _
  rw [State.closeSession_eq, State.composeState_open opened, taken]
  exact ⟨_, rfl, h.link.sending, h.link.busy, h.link.skips, rfl⟩

/-! ## The completion -/

/-- What the completion of an ENDING session leaves behind the held frame. -/
structure State.Completed (f : TxFrame) (s t : State) : Prop where
  rest : t = { s with
    periodTimer := t.periodTimer
    link := t.link
    session := t.session
    batches := t.batches
    arms := t.arms
    injectors := t.injectors
    notes := t.notes
    retention := t.retention }
  period : t.periodTimer = s.periodTimer ∨ t.periodTimer = some (s.now + 1000)
  arms : ∀ a, (t.arm a).disowned = (s.arm a).disowned ∧ ((s.arm a).owner = none → (t.arm a).owner = none)
  mem : t.retention.mem = s.retention.mem
  line : t.link.tx = .sending ∧ t.link.lineIdle = false ∧ t.link.rx = .skip
  queue : ∃ more, t.link.queue = f :: more ∧ (t.session.state = .none →
    ∃ g ∈ more, g.tag = .state ∧ g.image = lineImage s.cfg.station 1 t.statePayload)
  done : t.session.state = .none ∨ (t.session.state = .ending ∧ t.notes.issueWaiting = true)

/-- What settling the batches and issuing the note change. -/
def State.Settles (s t : State) : Prop := t = { s with
  batches := t.batches
  notes := t.notes
  retention := t.retention
  link := t.link }

theorem State.Settles.held (h : s.Settles t) (hs : s.Held f) (hl : t.link.Held f s.ownStop) : t.Held f := by
  rw [h]
  exact ⟨hs.station, hs.released, hs.queued, hs.waits, hl⟩

theorem State.Settles.closeSession (h : s.Settles t) (hs : s.Held f) (hl : t.link.Held f s.ownStop)
    (mem : t.retention.mem = s.retention.mem) : State.Completed f s t.closeSession := by
  obtain ⟨l, closed, tx, idle, rx, queue⟩ := (h.held hs hl).closeSession
  have arm (a : ArmId) : t.closeSession.arm a = (t.arm a).disowned := by
    rw [closed]
    exact vec4_get _ a
  have same (a : ArmId) : t.arm a = s.arm a := by rw [h]; rfl
  refine ⟨?_, .inr ?_, fun a => ?_, ?_, ?_, ?_, .inl ?_⟩
  · rw [closed, h]
    rfl
  · rw [closed, h]
  · rw [arm, same]
    exact ⟨rfl, fun _ => rfl⟩
  · rw [closed]
    exact mem
  · rw [closed]
    exact ⟨tx, idle, rx⟩
  · rw [closed]
    obtain ⟨more, front⟩ := hl.front
    have station : t.cfg = s.cfg := by rw [h]
    refine ⟨more ++ [_], queue.trans (congrArg (· ++ [_]) front), fun _ => ⟨_, List.mem_append_right _ (.head _), rfl, ?_⟩⟩
    rw [station]
    rfl
  · rw [closed]
    rfl

theorem State.completeEnding_completed (hs : s.Held f) (hq : s.link.queue = [f]) (he : s.session.state = .ending)
    (hc : s.allClosed = true) : State.Completed f s s.completeEnding := by
  obtain ⟨b, settled⟩ := State.settleBatches_eq hs.queued hs.waits
  obtain ⟨y, hy⟩ : ∃ y : State, y = { s with batches := b } := ⟨_, rfl⟩
  have step : s.Settles y := by rw [hy]; rfl
  have line : y.link = s.link := by rw [hy]
  have kept : y.retention = s.retention := by rw [hy]
  have held : y.Held f := step.held hs (line ▸ hs.link)
  have session : y.session = s.session := by rw [hy]
  unfold State.completeEnding
  rw [if_pos ⟨he, hc⟩, settled, ← hy]
  dsimp only
  split
  · unfold State.offerIssue
    split
    · obtain ⟨n, r, l, issued, mem, told⟩ := held.issueNote (line ▸ hq)
      rw [issued]
      refine State.Settles.closeSession ?_ hs ?_ (mem.trans (congrArg Retention.mem kept))
      · rw [hy]
        rfl
      · rw [hy] at told
        exact told
    · have waiting : s.session.state = .none ∨ (s.session.state = .ending ∧ true = true) := .inr ⟨he, rfl⟩
      rw [hy]
      refine ⟨rfl, .inl rfl, fun a => ⟨rfl, id⟩, rfl, ⟨hs.link.sending, hs.link.busy, hs.link.skips⟩,
        ⟨[], hq, fun k => ?_⟩, waiting⟩
      exact nomatch he.symm.trans k
  · exact step.closeSession hs (line ▸ hs.link) (congrArg Retention.mem kept)

end Sys2Proof.Machine
end

section
/-! The warm restart to the listen period (R181 stages 2 to 5; O51). -/

namespace Sys2Proof.Machine

variable {s t u : State} {a : ArmId} {f : TxFrame} {l : Link}

/-! ## Figures saved (R70, R75) -/

/-- What of a batch the release of the RESTART line is stated in. -/
def Batch.standing (b : Batch) : GradeId × Bool × BatchState × Option Reason × Nat :=
  (b.grade, b.started, b.state, b.suspReason, b.suspCount)

/-- A compartment's figures are saved in its record or still in an owning arm's context. -/
def State.savedOrOwned (s : State) (k : CompId) : Prop :=
  (∃ a, (s.arm a).owner = some k) ∨ ∀ b, s.batch k = some b → b.saved = true

/-- What saving the owners' figures changes. -/
structure State.Saves (s t : State) : Prop where
  rest : t = { s with
    batches := t.batches
    arms := t.arms }
  arms : ∀ a, { t.arm a with owner := none } = { s.arm a with owner := none }
  freed : ∀ a, (s.arm a).owner = none → (t.arm a).owner = none
  batches : ∀ k, (t.batch k).map Batch.standing = (s.batch k).map Batch.standing
  saved : ∀ k, s.savedOrOwned k → t.savedOrOwned k

theorem State.Saves.refl (s : State) : s.Saves s := ⟨rfl, fun _ => rfl, fun _ => id, fun _ => rfl, fun _ => id⟩

theorem State.Saves.trans (h : s.Saves t) (k : t.Saves u) : s.Saves u where
  rest := k.rest.trans (congrArg (fun x : State => { x with
    batches := u.batches
    arms := u.arms }) h.rest)
  arms a := (k.arms a).trans (h.arms a)
  freed a := k.freed a ∘ h.freed a
  batches c := (k.batches c).trans (h.batches c)
  saved c := k.saved c ∘ h.saved c

theorem State.saveOwner_saves (a : ArmId) (s : State) : s.Saves (s.saveOwner a) := by
  unfold State.saveOwner
  split
  · exact .refl s
  · rename_i c owned
    obtain ⟨y, hy⟩ : ∃ y, y = s.modBatch c fun b => { b with
      saved := true
      savedAcc := (s.arm a).live } := ⟨_, rfl⟩
    have arms (b : ArmId) : y.arm b = s.arm b := by rw [hy]; rfl
    have batch (k : CompId) : ((y.modArm a fun m => { m with owner := none }).batch k) = if k = c then (s.batch k).map fun b => { b with
        saved := true
        savedAcc := (s.arm a).live } else s.batch k := by
      rw [← State.batch_modBatch, ← hy]
      rfl
    rw [← hy]
    refine ⟨?_, fun b => ?_, fun b h => ?_, fun k => ?_, fun k h => ?_⟩
    · rw [hy]
      rfl
    · rw [State.arm_modArm, arms]
      split <;> rfl
    · rw [State.arm_modArm, arms]
      split
      · rfl
      · exact h
    · rw [batch]
      split
      · rw [Option.map_map]
        rfl
      · rfl
    · by_cases e : k = c
      · refine .inr fun b h => ?_
        rw [batch, if_pos e] at h
        obtain ⟨x, -, rfl⟩ := Option.map_eq_some_iff.mp h
        rfl
      · obtain ⟨b, own⟩ | all := h
        · have other : b ≠ a := fun h => e (Option.some.inj (own.symm.trans (h ▸ owned)))
          refine .inl ⟨b, ?_⟩
          rw [State.arm_modArm, if_neg other, arms]
          exact own
        · refine .inr fun b h => all b ?_
          rw [batch, if_neg e] at h
          exact h

theorem State.saveOwner_owner (a : ArmId) (s : State) : ((s.saveOwner a).arm a).owner = none := by
  unfold State.saveOwner
  split
  · assumption
  · rw [State.arm_modArm_self]

/-- With every owner's figures saved no arm has an owner. -/
theorem State.saveOwners (s : State) : s.Saves (s.eachArm State.saveOwner) ∧ ∀ a, ((s.eachArm State.saveOwner).arm a).owner = none := by
  have step (a : ArmId) (x : State) := State.saveOwner_saves a x
  refine ⟨(((step 0 _).trans (step 1 _)).trans (step 2 _)).trans (step 3 _), fun a => ?_⟩
  have freed {a b : ArmId} {x : State} (h : (x.arm a).owner = none) := (step b x).freed a h
  match a with
  | 0 => exact freed (freed (freed (State.saveOwner_owner 0 _)))
  | 1 => exact freed (freed (State.saveOwner_owner 1 _))
  | 2 => exact freed (State.saveOwner_owner 2 _)
  | 3 => exact State.saveOwner_owner 3 _

/-! ## The listen period begun (R181 stages 2 to 5) -/

/-- Batches suspended, reservations and retry waits cleared, figures not yet saved (R75). -/
def State.requeued (s : State) : State := { s with
  batches := vec8 fun c => (s.batch c).map Batch.atRelease
  startQueue := []
  arms := vec4 fun a => { s.arm a with reserved := none }
  headers := vec8 fun h => { s.header h with retryWait := false } }

theorem State.releaseBatches_eq (s : State) : s.releaseBatches = s.requeued.eachArm State.saveOwner := rfl

/-- The station restarted, its listen period not begun. -/
def State.unblocked (s : State) : State := { s.releaseBlocks with
  restart := false
  socketRequests := s.socketRequests + 1 }

/-- What the stages between the partial slices and the completion of ENDING leave. -/
structure State.Restarted (s t : State) : Prop where
  rest : t = { s with
    restart := false
    station := .starting
    listenTimer := some (s.now + 3000)
    periodTimer := some (s.now + 1000)
    ownStop := s.monitor.stopInForce
    socketRequests := s.socketRequests + 1
    peers := Vector.replicate 32 Peer.cold
    startQueue := []
    monitor := { s.monitor.stopDeadman with terminal := s.monitor.stopInForce }
    link := t.link
    batches := t.batches
    headers := t.headers
    arms := t.arms
    injectors := t.injectors
    notes := t.notes
    retention := t.retention }
  arms : ∀ a, { t.arm a with owner := none } = { s.arm a with
    owner := none
    reserved := none }
  freed : ∀ a, (t.arm a).owner = none
  headers : ∀ h, (t.header h).ownShare = 0 ∧ (t.header h).slot = none ∧ (t.header h).retryWait = false
  batches : ∀ k, (t.batch k).map Batch.standing = (s.batch k).map (Batch.standing ∘ Batch.atRelease)
  saved : ∀ k, (∃ a, (s.arm a).owner = some k) → ∀ b, t.batch k = some b → b.saved = true
  mem : t.retention.mem = s.retention.mem
  written : s.retention.queue.length < 4 → t.retention.queue = s.retention.queue ++ [.totals s.totalsNow]
  line : t.link.tx = .ready ∧ t.link.lineIdle = false ∧ t.link.rx = .skip ∧ t.link.lastStateStop = t.ownStop
  queue : ∃ id, t.link.queue = [⟨id, .state, lineImage s.cfg.station 1 t.statePayload⟩]

theorem State.restarted (s : State) : s.Restarted s.handTotals.releaseBatches.unblocked.beginListen := by
  obtain ⟨r, handed, mem, written⟩ := s.handTotals_eq
  obtain ⟨y, hy⟩ : ∃ y : State, y = ({ s with retention := r } : State).requeued := ⟨_, rfl⟩
  obtain ⟨saves, freed⟩ := y.saveOwners
  obtain ⟨z, hz⟩ : ∃ z, z = y.eachArm State.saveOwner := ⟨_, rfl⟩
  rw [← hz] at saves freed
  have listens : z.unblocked.beginListen = z.unblocked.listening := State.beginListen_emptied rfl rfl rfl rfl
  have rest := saves.rest
  have arm (a : ArmId) : y.arm a = { s.arm a with reserved := none } := by
    rw [hy]
    exact vec4_get _ a
  have header (h : HeaderId) : (z.unblocked.listening.header h) = { z.header h with
      ownShare := 0
      slot := none } := vec8_get _ h
  have waits (h : HeaderId) : (z.header h).retryWait = false := by
    rw [rest, hy]
    exact congrArg Header.retryWait (vec8_get _ h)
  have batch (k : CompId) : y.batch k = (s.batch k).map Batch.atRelease := by
    rw [hy]
    exact vec8_get _ k
  have kept : z.unblocked.listening.retention = r := by
    show z.retention = r
    rw [rest, hy]
    rfl
  have cfg : z.cfg = s.cfg := by
    rw [rest, hy]
    rfl
  rw [handed, State.releaseBatches_eq, ← hy, ← hz, listens]
  refine ⟨?_, fun a => ?_, freed, fun h => ?_, fun k => ?_, fun k own b h => ?_, ?_, fun room => ?_, ⟨rfl, rfl, rfl, rfl⟩, ?_⟩
  · rw [rest, hy]
    rfl
  · exact (saves.arms a).trans (arm a ▸ rfl)
  · rw [header]
    exact ⟨rfl, rfl, waits h⟩
  · refine (saves.batches k).trans ?_
    rw [batch, Option.map_map]
  · obtain ⟨a, owned⟩ := own
    have owner : (y.arm a).owner = some k := by
      rw [arm]
      exact owned
    obtain ⟨c, still⟩ | all := saves.saved k (.inl ⟨a, owner⟩)
    · exact nomatch still.symm.trans (freed c)
    · exact all b h
  · rw [kept]
    exact mem
  · rw [kept]
    exact (written room).1
  · rw [← cfg]
    exact ⟨_, rfl⟩

end Sys2Proof.Machine
end

section
/-! O51: the release of the RESTART line. -/

namespace Sys2Proof.Machine

variable {s t u : State} {a : ArmId} {f : TxFrame} {l : Link}

/-! ## The STATE that announces an ENDING session's permit (R30, R33, R188) -/

theorem announcedFlags (c : PriorityClass) (stop : Bool) : let flags := BitVec.ofNat 8 (c.val + 4 * stop.toNat + 8 + 16)
    flags.getLsbD 3 = true ∧ flags.getLsbD 2 = stop ∧ flags.getLsbD 4 = true ∧ flags.toNat < 32 ∧ flags.toNat % 4 = c.val := by
  revert c stop
  decide

theorem beBytes_one (n : Nat) : beBytes 1 n = [BitVec.ofNat 8 n] := congrArg (fun m => [BitVec.ofNat 8 m]) (Nat.div_one n)

theorem parseState_unshared (c : PriorityClass) (stop : Bool) {id : Nat} (hi : 1 ≤ id) (hl : id < 2 ^ 32) :
    parsePayload 1 (beBytes 1 (c.val + 4 * stop.toNat + 8 + 16) ++ beBytes 1 0 ++ beBytes 4 id) =
      some (.state c stop true true (Vector.replicate 8 0) (some id)) := by
  obtain ⟨opened, stopped, starting, small, cls⟩ := announcedFlags c stop
  have length : (beBytes 4 id).length = 4 := beBytes_length 4 id
  have value : beValue (beBytes 4 id) = id := beValue_beBytes 4 id hl
  have permit : (beBytes 4 id).take 4 = beBytes 4 id := List.take_of_length_le (Nat.le_of_eq length)
  have shares : (beBytes 4 id).drop 4 = [] := List.drop_of_length_le (Nat.le_of_eq length)
  rw [beBytes_one, beBytes_one]
  show parseState (BitVec.ofNat 8 (c.val + 4 * stop.toNat + 8 + 16) :: (0 : Byte) :: beBytes 4 id) = _
  unfold parseState
  dsimp only
  rw [opened, stopped, starting, if_pos rfl, permit, shares, value, if_pos ⟨length, small, fun _ => Nat.ne_of_gt hi, rfl⟩, if_pos rfl]
  refine congrArg some ?_
  congr 1
  exact Fin.ext cls

/-- The payload of the first STATE after a restart while a session is ENDING: its permit, and no shares. -/
theorem State.statePayload_ending {p : Permit} (hs : s.station = .starting) (hh : ∀ h, (s.header h).ownShare = 0)
    (he : s.session.state = .ending) (hp : s.session.permit = some p) :
    s.statePayload = beBytes 1 (p.cls.val + 4 * s.ownStop.toNat + 8 + 16) ++ beBytes 1 0 ++ beBytes 4 p.id := by
  have opened : s.sessionOpen = true := by
    unfold State.sessionOpen
    rw [he]
    rfl
  have cls : s.sessionClass = p.cls := by
    unfold State.sessionClass
    rw [he, hp]
  have permit : s.sessionPermit = some p.id := congrArg (Option.map Permit.id) hp
  have shares : s.sharedHeaders = [] := by
    unfold State.sharedHeaders
    simp [hh]
  unfold State.statePayload
  dsimp only
  rw [opened, cls, permit, shares, hs, if_pos rfl, List.map_nil, List.append_nil]
  rfl

theorem State.statePayload_length_ending {p : Permit} (hs : s.station = .starting) (hh : ∀ h, (s.header h).ownShare = 0)
    (he : s.session.state = .ending) (hp : s.session.permit = some p) : s.statePayload.length = 6 := by
  rw [State.statePayload_ending hs hh he hp, List.length_append, List.length_append, beBytes_length, beBytes_length, beBytes_length]

/-! ## The stages together -/

theorem State.releaseRestart_eq (s : State) : s.releaseRestart =
    (s.eachArm State.releaseArm).handTotals.releaseBatches.unblocked.beginListen.endingAtRelease.releaseTimers := by
  unfold State.releaseRestart
  dsimp only
  obtain ⟨x, hx⟩ : ∃ x, x = (s.eachArm State.releaseArm).handTotals.releaseBatches := ⟨_, rfl⟩
  rw [← hx]
  rfl

theorem Link.freeFront_holdFront (h : l.tx = .ready) : l.holdFront.freeFront = l := by
  unfold Link.holdFront
  rw [if_pos h]
  show { l with tx := .ready } = l
  rw [← h]

/-- What stages 6 and 7 leave of the station restarted. -/
structure State.Concluded (s t : State) : Prop where
  rest : t = { s with
    periodTimer := t.periodTimer
    link := t.link
    session := t.session
    batches := t.batches
    arms := t.arms
    injectors := t.injectors
    notes := t.notes
    retention := t.retention }
  period : t.periodTimer = s.periodTimer ∨ t.periodTimer = some (s.now + 1000)
  arms : ∀ a, (t.arm a).disowned = (s.arm a).disowned ∧ ((s.arm a).owner = none → (t.arm a).owner = none)
  mem : t.retention.mem = s.retention.mem
  line : t.link.lineIdle = false ∧ t.link.rx = .skip

/-- Stages 6 and 7 with no session ENDING: the timers of one ADMITTED alone. -/
theorem State.conclude_other (ht : s.link.tx = .ready) (he : s.session.state ≠ .ending) :
    s.endingAtRelease = s := by
  have still : (s.modLink Link.holdFront).completeEnding = s.modLink Link.holdFront := if_neg fun h => he h.1
  unfold State.endingAtRelease
  rw [still]
  exact congrArg (fun l => { s with link := l }) (Link.freeFront_holdFront ht)

theorem State.releaseTimers_other (h : s.session.state ≠ .admitted) : s.releaseTimers = s := if_neg h

theorem State.releaseTimers_admitted (h : s.session.state = .admitted) (hc : s.allClosed = true) : s.releaseTimers =
    s.modSession fun x => { x with
      idle := some (s.now + s.cfg.idleLimit * 1000)
      socketTimer := if s.socketView = none then some (s.now + 30000) else none } := by
  unfold State.releaseTimers
  rw [if_pos h, hc, if_pos rfl]
  rfl

/-- A session whose permit the first STATE announces. -/
theorem State.conclude_ending (hs : s.station = .starting) (hr : s.restart = false) (hq : s.startQueue = [])
    (hw : ∀ h, (s.header h).retryWait = false)
    (hl : s.link.tx = .ready ∧ s.link.lineIdle = false ∧ s.link.rx = .skip ∧ s.link.lastStateStop = s.ownStop)
    (hf : s.link.queue = [f]) (he : s.session.state = .ending) (hc : s.allClosed = true) :
    s.Concluded s.endingAtRelease.releaseTimers ∧ ∃ more, s.endingAtRelease.releaseTimers.link.queue = f :: more ∧
      (s.endingAtRelease.releaseTimers.session.state = .none → ∃ g ∈ more, g.tag = .state ∧
        g.image = lineImage s.cfg.station 1 s.endingAtRelease.releaseTimers.statePayload) ∧
      (s.endingAtRelease.releaseTimers.session.state = .none ∨ (s.endingAtRelease.releaseTimers.session.state = .ending ∧
        s.endingAtRelease.releaseTimers.notes.issueWaiting = true)) := by
  obtain ⟨tx, idle, rx, told⟩ := hl
  have front : s.link.holdFront = { s.link with tx := .sending } := if_pos tx
  have held : (s.modLink Link.holdFront).Held f := by
    refine ⟨hs, hr, hq, hw, ?_⟩
    show s.link.holdFront.Held f s.ownStop
    rw [front]
    exact ⟨rfl, idle, rx, told, .inl hf⟩
  have alone : (s.modLink Link.holdFront).link.queue = [f] := by
    show s.link.holdFront.queue = [f]
    rw [front]
    exact hf
  have done := State.completeEnding_completed held alone he hc
  obtain ⟨w, hw⟩ : ∃ w, w = (s.modLink Link.holdFront).completeEnding := ⟨_, rfl⟩
  rw [← hw] at done
  have free : w.link.freeFront = { w.link with tx := .ready } := if_pos done.line.1
  have concluded : s.endingAtRelease.releaseTimers = { w with link := { w.link with tx := .ready } } := by
    have other : (w.modLink Link.freeFront).session.state ≠ .admitted := by
      show w.session.state ≠ .admitted
      obtain none | ⟨ending, -⟩ := done.done
      · rw [none]; nofun
      · rw [ending]; nofun
    unfold State.endingAtRelease
    rw [← hw, State.releaseTimers_other other]
    exact congrArg (fun l => { w with link := l }) free
  rw [concluded]
  obtain ⟨-, idle', rx'⟩ := done.line
  obtain ⟨more, queue, last⟩ := done.queue
  refine ⟨⟨?_, done.period, done.arms, done.mem, idle', rx'⟩, more, queue, last, done.done⟩
  exact congrArg (fun x : State => { x with link := { w.link with tx := .ready } }) done.rest

/-! ## Batches at stage 3 (R75) -/

/-- A batch that stops is SUSPENDED with its reason and count. -/
def Batch.stopped (b : Batch) : Batch := { b with
  state := .suspended
  suspReason := some .restart
  suspCount := min 255 (b.suspCount + 1) }

/-- A batch that flowed, or waited having flowed. -/
def Batch.Stops (b : Batch) : Prop := b.state = .active ∨ (b.state = .waiting ∧ b.started = true)

theorem Batch.atRelease_stops {b : Batch} (h : b.Stops) : b.atRelease = b.stopped := by
  unfold Batch.atRelease
  obtain active | ⟨waiting, started⟩ := h
  · rw [active]
    rfl
  · rw [waiting]
    exact if_pos started

theorem Batch.atRelease_waiting {b : Batch} (h : b.state = .waiting) (hs : b.started = false) :
    b.atRelease = { b with state := .planned } := by
  unfold Batch.atRelease
  rw [h]
  exact if_neg (Bool.eq_false_iff.mp hs)

theorem Batch.atRelease_other {b : Batch} (h : b.state ∉ [BatchState.active, .waiting]) : b.atRelease = b := by
  unfold Batch.atRelease
  split
  case h_1 active => exact absurd (active ▸ .head _) h
  case h_2 waiting => exact absurd (waiting ▸ .tail _ (.head _)) h
  all_goals rfl

theorem Batch.atRelease_outline (b : Batch) : b.outline.atRelease.standing = b.atRelease.standing := by
  by_cases stops : b.Stops
  · rw [Batch.atRelease_stops stops, Batch.atRelease_stops (b := b.outline) stops]
    rfl
  · by_cases waiting : b.state = .waiting
    · have fresh : b.started = false := by
        cases e : b.started with
        | false => rfl
        | true => exact absurd (.inr ⟨waiting, e⟩) stops
      rw [Batch.atRelease_waiting waiting fresh, Batch.atRelease_waiting (b := b.outline) waiting fresh]
      rfl
    · have other : b.state ∉ [BatchState.active, .waiting] := by
        intro h
        obtain active | waits := List.mem_pair.mp h
        · exact stops (.inl active)
        · exact waiting waits
      rw [Batch.atRelease_other other, Batch.atRelease_other (b := b.outline) other]
      rfl

/-- What the release says of a batch, of the batch it left. -/
theorem Batch.released {b b' : Batch} (h : b'.standing = b.atRelease.standing) :
    (b.Stops → b'.state = .suspended ∧ b'.suspReason = some .restart ∧ b'.suspCount = min 255 (b.suspCount + 1)) ∧
    (b.state = .waiting → b.started = false → b'.state = .planned) ∧
    (b.state ∉ [BatchState.active, .waiting] → b'.state = b.state ∧ b'.suspReason = b.suspReason ∧
      b'.suspCount = b.suspCount) ∧
    b'.started = b.started ∧ b'.grade = b.grade := by
  have kept : b.atRelease.started = b.started ∧ b.atRelease.grade = b.grade := by
    unfold Batch.atRelease
    cases b.state with
    | waiting => dsimp only; split <;> exact ⟨rfl, rfl⟩
    | _ => exact ⟨rfl, rfl⟩
  obtain ⟨grade, started, state, reason, count⟩ : b'.grade = b.atRelease.grade ∧ b'.started = b.atRelease.started ∧
      b'.state = b.atRelease.state ∧ b'.suspReason = b.atRelease.suspReason ∧ b'.suspCount = b.atRelease.suspCount := by
    simpa only [Batch.standing, Prod.mk.injEq] using h
  refine ⟨fun stops => ?_, fun waiting fresh => ?_, fun other => ?_, started.trans kept.1, grade.trans kept.2⟩
  · rw [Batch.atRelease_stops stops] at state reason count
    exact ⟨state, reason, count⟩
  · rw [Batch.atRelease_waiting waiting fresh] at state
    exact state
  · rw [Batch.atRelease_other other] at state reason count
    exact ⟨state, reason, count⟩

/-! ## The whole release -/

/-- What every warm restart leaves. -/
structure State.Released (s t : State) : Prop where
  rest : t = { s with
    restart := false
    station := .starting
    listenTimer := some (s.now + 3000)
    periodTimer := some (s.now + 1000)
    ownStop := s.monitor.stopInForce
    socketRequests := s.socketRequests + 1
    peers := Vector.replicate 32 Peer.cold
    startQueue := []
    monitor := { s.monitor.stopDeadman with terminal := s.monitor.stopInForce }
    link := t.link
    session := t.session
    batches := t.batches
    headers := t.headers
    arms := t.arms
    injectors := t.injectors
    notes := t.notes
    retention := t.retention
    freeDraws := t.freeDraws }
  line : t.link.lineIdle = false ∧ t.link.rx = .skip
  mem : t.retention.mem = s.retention.mem
  headers : ∀ h, (t.header h).ownShare = 0 ∧ (t.header h).slot = none ∧ (t.header h).retryWait = false
  free : ∀ a, (t.arm a).owner = none ∧ (t.arm a).reserved = none
  sliced : ∀ a, ∃ x : State, State.ArmSliced a s x ∧ { (t.arm a).disowned with reserved := none } =
    { (x.arm a).disowned with reserved := none }

theorem State.Concluded.released {x u : State} (hx : s.SliceFrame x) (ha : ∀ a, State.ArmSliced a s x) (hu : x.Restarted u)
    (ht : u.Concluded t) : s.Released t := by
  have period : t.periodTimer = some (s.now + 1000) := by
    have before : u.periodTimer = some (x.now + 1000) := by rw [hu.rest]
    have now : u.now = x.now := by rw [hu.rest]
    rw [← hx.now, ← now]
    obtain same | restarted := ht.period
    · rw [same, before, now]
    · exact restarted
  have headers (h : HeaderId) : t.header h = u.header h := by rw [ht.rest]; rfl
  have reserved (a : ArmId) : (u.arm a).reserved = none := congrArg Arm.reserved (hu.arms a)
  have monitor : x.monitor = s.monitor := hx.field State.monitor
  refine ⟨?_, ht.line, ?_, fun h => ?_, fun a => ⟨(ht.arms a).2 (hu.freed a), ?_⟩, fun a => ⟨x, ha a, ?_⟩⟩
  · have same : t.headers = u.headers := by rw [ht.rest]
    have draws : t.freeDraws = x.freeDraws := by rw [ht.rest, hu.rest]
    refine ht.rest.trans ?_
    rw [same, period, hu.rest, monitor, hx.now, ← draws, hx.rest]
  · rw [ht.mem, hu.mem]
    exact congrArg Retention.mem (hx.field State.retention)
  · rw [headers]
    exact hu.headers h
  · exact (congrArg Arm.reserved (ht.arms a).1).trans (reserved a)
  · rw [(ht.arms a).1]
    have same := congrArg Arm.disowned (hu.arms a)
    exact congrArg (fun m : Arm => { m with reserved := none }) same

theorem State.releaseTimers_concluded (h : s.link.lineIdle = false ∧ s.link.rx = .skip) : s.Concluded s.releaseTimers := by
  unfold State.releaseTimers
  split
  · exact ⟨rfl, .inl rfl, fun a => ⟨rfl, id⟩, rfl, h⟩
  · exact ⟨rfl, .inl rfl, fun a => ⟨rfl, id⟩, rfl, h⟩

section
variable {x : State} (hx : s.SliceFrame x) (hu : x.Restarted u)
include hx hu

theorem State.Restarted.session_eq : u.session.state = s.session.state ∧ u.session.permit = s.session.permit := by
  have state := congrArg Session.state hx.session
  have permit := congrArg Session.permit hx.session
  rw [hu.rest]
  exact ⟨state, permit⟩

/-- Every batch is taken at stage 3 as the state before the slices had it. -/
theorem State.Restarted.batches_eq (k : CompId) : (u.batch k).map Batch.standing = (s.batch k).map fun b => b.atRelease.standing := by
  have outlines (o : Option Batch) :
      o.map (Batch.standing ∘ Batch.atRelease) = (o.map Batch.outline).map fun b => b.atRelease.standing := by
    rw [Option.map_map]
    exact congrArg (fun g => o.map g) (funext fun b => (Batch.atRelease_outline b).symm)
  calc (u.batch k).map Batch.standing = ((x.batch k).map Batch.outline).map fun b => b.atRelease.standing :=
        (hu.batches k).trans (outlines _)
    _ = (s.batch k).map fun b => b.atRelease.standing := by
        rw [hx.batches]
        exact (outlines _).symm

end

theorem State.Restarted.allClosed {x : State} (ha : ∀ a, State.ArmSliced a s x) (hu : x.Restarted u) : u.allClosed = true := by
  refine List.all_eq_true.mpr fun a _ => ?_
  have same := congrArg Arm.stage (hu.arms a)
  have stage : (u.arm a).stage = .closed := same.trans (ha a).closed.1
  rw [stage]
  rfl

/-- An arm after the release, as its partial slice left it. -/
theorem State.Released.armSliced (h : s.Released t) (a : ArmId) :
    ((t.arm a).stage = .closed ∧ (t.arm a).leakCause = false ∧ (t.arm a).closeAhead = (s.arm a).closeAhead ∧
      (t.arm a).lastGood = (s.arm a).lastGood ∧ (t.arm a).lastRate = (s.arm a).lastRate) ∧
    ((s.arm a).stage ≠ .closed →
      s.SliceAdded t a ((s.armCfg a).slice - (s.arm a).sliceCounter) (max 1 ((s.arm a).lastA.getD 1))) ∧
    ((s.arm a).stage = .closed → (t.arm a).live = (s.arm a).live ∧ (t.arm a).grossTotal = (s.arm a).grossTotal ∧
      (t.arm a).stdTotal = (s.arm a).stdTotal) := by
  obtain ⟨x, sliced, same⟩ := h.sliced a
  have field {β : Type} (g : Arm → β) (hg : ∀ m : Arm, g { m.disowned with reserved := none } = g m := by intro _; rfl) :
      g (t.arm a) = g (x.arm a) := (hg _).symm.trans ((congrArg g same).trans (hg _))
  have live := field Arm.live
  have grossTotal := field Arm.grossTotal
  have stdTotal := field Arm.stdTotal
  obtain ⟨closed, leak⟩ := sliced.closed
  obtain ⟨-, ahead, good, rate⟩ := sliced.kept
  refine ⟨⟨(field Arm.stage).trans closed, (field Arm.leakCause).trans leak, (field Arm.closeAhead).trans ahead,
    (field Arm.lastGood).trans good, (field Arm.lastRate).trans rate⟩, fun opened => ?_, fun shut => ?_⟩
  · exact (sliced.added opened).after live grossTotal stdTotal
  · rw [live, grossTotal, stdTotal]
    exact sliced.idle shut

section
variable {x : State} (hx : s.SliceFrame x) (ha : ∀ a, State.ArmSliced a s x) (hu : x.Restarted u)
include hx ha hu

/-- The release while a session is ENDING: its permit announced, then withdrawn (R33, R54; log 44). -/
theorem State.Restarted.ending (he : s.session.state = .ending) : s.Released u.endingAtRelease.releaseTimers ∧
    (∃ f more, u.endingAtRelease.releaseTimers.link.queue = f :: more ∧ f.tag = .state ∧
      (∀ p, s.session.permit = some p → 1 ≤ p.id → p.id < 2 ^ 32 →
        parseFrame f.image.tail = some (s.cfg.station, .state p.cls s.monitor.stopInForce true true
          (Vector.replicate 8 0) (some p.id))) ∧
      (u.endingAtRelease.releaseTimers.session.state = .none → ∃ g ∈ more, g.tag = .state ∧
        g.image = lineImage s.cfg.station 1 u.endingAtRelease.releaseTimers.statePayload)) ∧
    (u.endingAtRelease.releaseTimers.session.state = .none ∨ (u.endingAtRelease.releaseTimers.session.state = .ending ∧
      u.endingAtRelease.releaseTimers.notes.issueWaiting = true)) := by
  have ending : u.session.state = .ending := (hu.session_eq hx).1.trans he
  have station : u.station = .starting := by rw [hu.rest]
  have released : u.restart = false := by rw [hu.rest]
  have queued : u.startQueue = [] := by rw [hu.rest]
  have ownStop : u.ownStop = x.monitor.stopInForce := by rw [hu.rest]
  have cfg : u.cfg = x.cfg := by rw [hu.rest]
  have monitor : x.monitor = s.monitor := hx.field State.monitor
  have shares (h : HeaderId) := (hu.headers h).1
  have waits (h : HeaderId) := (hu.headers h).2.2
  obtain ⟨id, front⟩ := hu.queue
  obtain ⟨concluded, more, queue, last, done⟩ := State.conclude_ending station released queued waits hu.line front ending
    (State.Restarted.allClosed ha hu)
  refine ⟨concluded.released hx ha hu, ⟨_, more, queue, rfl, fun p hp low high => ?_, fun h => ?_⟩, done⟩
  · have permit : u.session.permit = some p := (hu.session_eq hx).2.trans hp
    have short : u.statePayload.length ≤ 511 := by
      rw [State.statePayload_length_ending station shares ending permit]
      decide
    rw [parseFrame_lineImage _ (by decide) short, State.statePayload_ending station shares ending permit,
      parseState_unshared _ _ low high, ownStop, monitor, hx.cfg]
    rfl
  · rw [← hx.cfg, ← cfg]
    exact last h

/-- The release with no session ENDING: the STATE alone in the queue, batches and session kept. -/
theorem State.Restarted.other (he : s.session.state ≠ .ending) : s.Released u.endingAtRelease.releaseTimers ∧
    (∃ id, u.endingAtRelease.releaseTimers.link.queue =
      [⟨id, .state, lineImage s.cfg.station 1 u.endingAtRelease.releaseTimers.statePayload⟩]) ∧
    (u.endingAtRelease.releaseTimers.session.state = s.session.state ∧
      u.endingAtRelease.releaseTimers.session.permit = s.session.permit) ∧
    (s.session.state = .admitted →
      u.endingAtRelease.releaseTimers.session.idle = some (s.now + s.cfg.idleLimit * 1000) ∧
      u.endingAtRelease.releaseTimers.session.socketTimer = (if s.socketView = none then some (s.now + 30000) else none)) ∧
    u.endingAtRelease.releaseTimers.retention = u.retention ∧ u.endingAtRelease.releaseTimers.arms = u.arms ∧
    u.endingAtRelease.releaseTimers.batches = u.batches := by
  obtain ⟨state, permit⟩ := hu.session_eq hx
  have now : u.now = s.now := by rw [hu.rest, hx.now]
  have cfg : u.cfg = s.cfg := by rw [hu.rest, hx.cfg]
  have view : u.socketView = s.socketView := by
    rw [hu.rest]
    exact hx.field State.socketView
  obtain ⟨tx, idle, rx, -⟩ := hu.line
  obtain ⟨id, queue⟩ := hu.queue
  rw [State.conclude_other tx (state ▸ he)]
  refine ⟨(State.releaseTimers_concluded ⟨idle, rx⟩).released hx ha hu, ?_⟩
  by_cases admitted : u.session.state = .admitted
  · rw [State.releaseTimers_admitted admitted (State.Restarted.allClosed ha hu), now, cfg, view]
    exact ⟨⟨id, hx.cfg ▸ queue⟩, ⟨state, permit⟩, fun _ => ⟨rfl, rfl⟩, rfl, rfl, rfl⟩
  · rw [State.releaseTimers_other admitted, ← hx.cfg]
    exact ⟨⟨id, queue⟩, ⟨state, permit⟩, fun h => absurd (state.trans h) admitted, rfl, rfl, rfl⟩

end

/-- The totalizer block handed over is that of the arms after the release (R123). -/
theorem State.Restarted.totals_eq {x : State} (hu : x.Restarted u) (h : t.arms = u.arms) :
    x.totalsNow = ⟨vec4 fun i => (t.arm i).grossTotal, vec4 fun i => (t.arm i).stdTotal⟩ := by
  have arm (a : ArmId) : t.arm a = u.arm a := congrArg (fun v => v[a]) h
  have gross (a : ArmId) : (t.arm a).grossTotal = (x.arm a).grossTotal := by
    have same := congrArg Arm.grossTotal (hu.arms a)
    rw [arm]
    exact same
  have std (a : ArmId) : (t.arm a).stdTotal = (x.arm a).stdTotal := by
    have same := congrArg Arm.stdTotal (hu.arms a)
    rw [arm]
    exact same
  simp only [gross, std]
  rfl

/-- Every batch of a session that is not ENDING has its successor. -/
theorem State.Restarted.batch_of {x : State} {k : CompId} {b : Batch} (hx : s.SliceFrame x) (hu : x.Restarted u)
    (hb : s.batch k = some b) : ∃ b', u.batch k = some b' ∧ b'.standing = b.atRelease.standing ∧
      ((∃ a, (s.arm a).owner = some k) → (∀ a, (x.arm a).owner = (s.arm a).owner) → b'.saved = true) := by
  have standing := hu.batches_eq hx k
  rw [hb] at standing
  obtain ⟨b', after, same⟩ := Option.map_eq_some_iff.mp standing
  refine ⟨b', after, same, fun ⟨a, owned⟩ owners => hu.saved k ⟨a, (owners a).trans owned⟩ b' after⟩

/-- Settles O51, stage by stage: the partial slices (`releaseArms_sliced`), the blocks up to the listen period's STATE
(`restarted`), then the completion of an ENDING session behind that STATE (`Restarted.ending`) or none (`Restarted.other`). -/
theorem restartReleased : Obligations.RestartReleased := by
  refine ⟨fun s hr => ?_, fun s hr hs => ?_, fun s hr hs hw => ?_, fun s hr hs hw => ?_⟩
  · exact congrArg Host.Outcome.next (if_pos hr)
  · have asserted : ¬ s.restart = false := by rw [hr]; nofun
    exact congrArg Host.Outcome.next ((if_neg asserted).trans (if_pos hs))
  · have asserted : ¬ s.restart = false := by rw [hr]; nofun
    have result : exec .restartReleased s = .next s.releaseStage5 :=
      congrArg Host.Outcome.next ((if_neg asserted).trans ((if_neg hs).trans (if_pos hw)))
    obtain ⟨r, listens, block, held⟩ := s.releaseStage5_eq
    rw [listens] at result
    exact ⟨_, result, rfl, rfl, rfl, rfl, rfl, rfl, rfl, ⟨_, rfl⟩, rfl, rfl, rfl, rfl, rfl, rfl, rfl, block, held⟩
  · have asserted : ¬ s.restart = false := by rw [hr]; nofun
    have waits : ¬ s.stage5Waits = true := by rw [hw]; nofun
    have result : exec .restartReleased s = .next s.releaseRestart :=
      congrArg Host.Outcome.next ((if_neg asserted).trans ((if_neg hs).trans (if_neg waits)))
    obtain ⟨hx, ha⟩ := State.releaseArms_sliced hr
    obtain ⟨x, x_def⟩ : ∃ x, x = s.eachArm State.releaseArm := ⟨_, rfl⟩
    rw [State.releaseRestart_eq] at result
    rw [← x_def] at hx ha result
    have hu := x.restarted
    obtain ⟨u, u_def⟩ : ∃ u, u = x.handTotals.releaseBatches.unblocked.beginListen := ⟨_, rfl⟩
    rw [← u_def] at hu result
    have ending := hu.ending hx ha
    have other := hu.other hx ha
    obtain ⟨t, t_def⟩ : ∃ t, t = u.endingAtRelease.releaseTimers := ⟨_, rfl⟩
    rw [← t_def] at result ending other
    have released : s.Released t := by
      by_cases he : s.session.state = .ending
      · exact (ending he).1
      · exact (other he).1
    have rest := released.rest
    have headers := released.headers
    have arms := released.armSliced
    refine ⟨t, result, by rw [rest], by rw [rest], by rw [rest], by rw [rest], fun a => ?_, headers, by rw [rest], by rw [rest],
      by rw [rest], by rw [rest], by rw [rest]; rfl, by rw [rest]; rfl, by rw [rest]; rfl, by rw [rest]; rfl, by rw [rest]; rfl,
      released.line.1, released.line.2, by rw [rest], by rw [rest], by rw [rest], by rw [rest], released.mem, by rw [rest], ?_,
      fun a => (arms a).2, fun he => ?_, fun he => (ending he).2.2⟩
    · obtain ⟨closed, leak, ahead, good, rate⟩ := (arms a).1
      obtain ⟨owner, reserved⟩ := released.free a
      exact ⟨closed, owner, reserved, leak, ahead, good, rate⟩
    · by_cases he : s.session.state = .ending
      · obtain ⟨-, ⟨f, more, queue, tag, image, last⟩, -⟩ := ending he
        exact ⟨f, more, queue, tag, fun _ p hp low high => ⟨image p hp low high, last⟩⟩
      · obtain ⟨-, ⟨id, queue⟩, -⟩ := other he
        exact ⟨_, [], queue, rfl, fun h => absurd h he⟩
    · obtain ⟨-, queue, ⟨state, permit⟩, timers, retention, same, batches⟩ := other he
      have before : x.retention = s.retention := hx.field State.retention
      refine ⟨queue, state, permit, timers, fun room => ?_, fun k hk => ?_, fun k b hb => ?_⟩
      · rw [retention, hu.written (before ▸ room), before, hu.totals_eq same]
      · have absent : s.batch k = none := hk
        have standing := hu.batches_eq hx k
        rw [absent] at standing
        rw [batches]
        exact Option.map_eq_none_iff.mp standing
      · obtain ⟨b', after, standing, saved⟩ := hu.batch_of hx hb
        obtain ⟨stops, waits, still, started, grade⟩ := Batch.released standing
        rw [batches]
        exact ⟨b', after, stops, waits, still, started, grade, fun owned => saved owned fun a => (ha a).kept.1⟩

end Sys2Proof.Machine
end

section
/-! The laws of flow (O55) and of the stop set (O57), each kept by every step: by every kind of change, and by the cold start and
the two edges of the RESTART line. -/

namespace Sys2Proof.Machine

variable {s t u : State}

/-! ## Every step -/

/-- What every kind of change, the three commands on the whole part, the clock of the machine and its queue of commands keep,
every step keeps. -/
theorem step_keeps {P : State → Prop} (kinds : ∀ l s t, Prim l s t → P s → P t)
    (whole : ∀ c s t, wholePart c = true → exec c s = .next t → P s → P t)
    (machine : ∀ (s : State) now pending, P s → P { s with now := now, pending := pending })
    (h : step s = .next t) (hs : P s) : P t := by
  have command (c : Instr) (s t : State) (h : exec c s = .next t) (hs : P s) : P t := by
    cases hc : wholePart c with
    | true => exact whole c s t hc h hs
    | false =>
      obtain ⟨u, e, moves⟩ := exec_touches c hc s
      cases e.symm.trans h
      exact moves.keeps (fun l _ => kinds l) hs
  unfold step at h
  split at h
  · exact command _ _ _ h (machine s s.now _ hs)
  · split at h
    · exact command _ _ _ h hs
    · cases h
      exact machine s (s.now + 1) s.pending hs

/-- The warm restart with no stage 5 waiting. -/
theorem State.releaseRestart_released (hr : s.restart = true) : s.Released s.releaseRestart := by
  obtain ⟨hx, ha⟩ := State.releaseArms_sliced hr
  rw [State.releaseRestart_eq]
  generalize s.eachArm State.releaseArm = x at hx ha
  by_cases he : s.session.state = .ending
  · exact (x.restarted.ending hx ha he).1
  · exact (x.restarted.other hx ha he).1

/-- RESTART_ASSERTED leaves the part alone, follows the line alone, or is taken by every block. -/
theorem exec_restartAsserted_cases (h : exec .restartAsserted s = .next t) :
    t = s ∨ (s.restart = false ∧ s.station = .configFault ∧ t = { s with restart := true }) ∨
      (s.restart = false ∧ s.station ≠ .configFault ∧ t = s.assertRestart) := by
  have e : t = if s.restart then s else if s.station = .configFault then { s with restart := true } else s.assertRestart := by
    cases h
    rfl
  rw [e]
  split
  · exact .inl rfl
  · rename_i hr
    have released : s.restart = false := by simpa using hr
    split
    · exact .inr (.inl ⟨released, ‹_›, rfl⟩)
    · exact .inr (.inr ⟨released, ‹_›, rfl⟩)

/-- RESTART_RELEASED leaves the part alone, follows the line alone, or is one of the two releases. -/
theorem exec_restartReleased_cases (h : exec .restartReleased s = .next t) : t = s ∨
    (s.station = .configFault ∧ t = { s with
      restart := false
      socketRequests := s.socketRequests + 1 }) ∨
    (s.stage5Waits = true ∧ t = s.releaseStage5) ∨
    (s.stage5Waits = false ∧ s.Released t) := by
  have e : t = if s.restart = false then s
      else if s.station = .configFault then { s with restart := false, socketRequests := s.socketRequests + 1 }
      else if s.stage5Waits then s.releaseStage5
      else s.releaseRestart := by
    cases h
    rfl
  rw [e]
  split
  · exact .inl rfl
  · rename_i hr
    split
    · exact .inr (.inl ⟨‹_›, rfl⟩)
    · split
      · exact .inr (.inr (.inl ⟨‹_›, rfl⟩))
      · rename_i hw
        exact .inr (.inr (.inr ⟨by simpa using hw, State.releaseRestart_released (by simpa using hr)⟩))

/-! ## States in which nothing flows and no claim is held -/

/-- No arm flows and no claim is held. -/
def State.Still (s : State) : Prop := s.noFlow ∧ s.slotsFree

theorem State.Still.of_eq (h : s.Still) (arms : t.arms = s.arms) (headers : t.headers = s.headers) : t.Still := by
  unfold State.Still State.noFlow State.slotsFree State.arm State.header
  rw [arms, headers]
  exact h

theorem State.Still.modArm {a : ArmId} {f : Arm → Arm} (h : s.Still) (hf : ∀ m, (f m).stage = m.stage) :
    (s.modArm a f).Still :=
  ⟨fun b => by rw [State.arm_view Arm.stage a f hf s b]; exact h.1 b, h.2⟩

theorem State.Still.moveStage {st : Stage} (h : s.Still) (a : ArmId) (hst : st.flowing = false) : (s.moveStage a st).Still := by
  refine ⟨fun b => ?_, fun k => (s.moveStage_slot a k st).trans (h.2 k)⟩
  rw [State.moveStage_arm]
  split
  · exact hst
  · exact h.1 b

theorem State.Still.modHeader {k : HeaderId} {f : Header → Header} (h : s.Still)
    (hf : ∀ x, (f x).slot = none ∨ x.slot ≠ none) : (s.modHeader k f).Still := by
  refine ⟨h.1, fun j => ?_⟩
  rw [State.header_modHeader]
  split
  · exact (hf _).resolve_right fun held => held (h.2 _)
  · exact h.2 j

/-- A share move fills no slot while no claim may be taken. -/
theorem State.Still.shares (h : s.Still) (hm : s.mayClaim = false) (moves : SharesMove s t) : t.Still := by
  refine ⟨fun a => (congrArg Stage.flowing (moves.stage a)).trans (h.1 a), fun k => ?_⟩
  by_contra held
  rcases moves.slots k held with before | may
  · exact before (h.2 k)
  · exact Bool.false_ne_true (hm.symm.trans may)

/-- No change starts a flow or takes a claim while no claim is held and none may be taken (R80, R87). -/
theorem Prim.still {l : Touch} (p : Prim l s t) (hl : l ∉ composite) (hm : s.mayClaim = false) (h : s.Still) : t.Still := by
  cases p with
  | shares moves => exact h.shares hm moves
  | arm a f s hf => exact h.modArm fun m => congrArg Prod.fst (hf m)
  | totals a f s hf => exact h.modArm fun m => (hf m).1
  | learned | coupled => exact h.modArm fun _ => rfl
  | stage a st s hg => exact h.moveStage a (hg.resolve_left (Bool.eq_false_iff.mp (h.1 a)))
  | shut a s => exact (h.moveStage a (st := .closed) rfl).modArm fun _ => rfl
  | opening a st s held =>
    obtain ⟨k, hk⟩ := held
    exact absurd (h.2 k) hk
  | header k f s hf => exact h.modHeader fun x => (hf x).2
  | alarm | stops | newDay | revoke => simp [composite] at hl
  | _ => exact h.of_eq rfl rfl

/-! ## The law of flow (R29, R87, R139, R158, R180) -/

/-- A permissive is withdrawn, or the part is down. -/
def State.Barred (s : State) : Prop := s.monitor.withdrawn = true ∨ s.down

theorem FlowLaw.still (h : FlowLaw s) (hb : s.Barred) : s.Still := by
  rcases hb with withdrawn | down
  · exact h.withdrawn withdrawn
  · obtain ⟨-, -, flow, slots⟩ := h.down down
    exact ⟨flow, slots⟩

theorem FlowLaw.mayClaim (h : FlowLaw s) (hb : s.Barred) : s.mayClaim = false := by
  rcases hb with withdrawn | down
  · exact State.mayClaim_withdrawn withdrawn
  · simp [State.mayClaim, (h.down down).1]

/-- What the law names beside the arms and the claim slots. -/
def State.barriers (s : State) : Monitor × StationState × Bool × Timer × Bool :=
  (s.monitor, s.station, s.restart, s.listenTimer, s.stage5Waits)

theorem State.SameButFlow.barriers (h : s.SameButFlow t) : t.barriers = s.barriers := h.field State.barriers

theorem FlowLaw.of_barriers (h : FlowLaw s) (e : t.barriers = s.barriers) (still : s.Barred → t.Still) : FlowLaw t := by
  obtain ⟨monitor, station, restart, listens, waits⟩ : t.monitor = s.monitor ∧ t.station = s.station ∧
    t.restart = s.restart ∧ t.listenTimer = s.listenTimer ∧ t.stage5Waits = s.stage5Waits := by
      simpa only [State.barriers, Prod.mk.injEq] using e
  have down : t.down = s.down := by unfold State.down; rw [restart, station]
  refine ⟨fun hw => still (.inl (monitor ▸ hw)), fun hd => ?_, fun hw => ?_⟩
  · obtain ⟨stands, silent, -⟩ := h.down (down ▸ hd)
    exact ⟨station ▸ stands, listens ▸ silent, still (.inr (down ▸ hd))⟩
  · rw [restart, station]
    exact h.waits (waits ▸ hw)

/-- The monitor changed, no permissive withdrawn that was held unless nothing flows. -/
theorem FlowLaw.monitor {m : Monitor} (h : FlowLaw s) (hm : m.withdrawn = true → s.Barred) : FlowLaw { s with monitor := m } :=
  ⟨fun hw => h.still (hm hw), h.down, h.waits⟩

theorem FlowLaw.simple {l : Touch} (p : Prim l s t) (hl : l ∉ composite) (h : FlowLaw s) : FlowLaw t := by
  have still (hb : s.Barred) : t.Still := p.still hl (h.mayClaim hb) (h.still hb)
  cases p with
  | shares moves => exact h.of_barriers moves.sameButFlow.barriers still
  | monitor m s hw _ => exact h.monitor fun hm => (hw hm).imp id fun waits => .inl (h.waits waits).1
  | clash s opened =>
    obtain ⟨-, released⟩ := s.linkOpen_iff.mp opened
    refine ⟨h.withdrawn, fun hd => ?_, fun hw => ⟨(h.waits hw).1, nofun⟩⟩
    rcases hd with asserted | fault
    · exact absurd (asserted.symm.trans released) nofun
    · cases fault
  | listened x s runs hx =>
    have up : ¬ s.down := fun hd => runs (h.down hd).2.1
    have released : s.restart = false := Bool.eq_false_iff.mpr fun hr => up (.inl hr)
    refine ⟨h.withdrawn, fun hd => ?_, fun hw => absurd ((h.waits hw).1.symm.trans released) nofun⟩
    rcases hd with asserted | fault
    · exact absurd (asserted.symm.trans released) nofun
    · exact absurd fault (hx.resolve_right fun e => up (.inr e))
  | alarm | stops | newDay | revoke => simp [composite] at hl
  | _ => exact h.of_barriers rfl still

theorem FlowLaw.run {L : List Touch} (moves : Moves L s t) (h : FlowLaw s) (hL : ∀ l ∈ L, l ∉ composite := by decide) :
    FlowLaw t := moves.keeps (fun l hl _ _ p => FlowLaw.simple p (hL l hl)) h

/-- A withdrawal leaves no arm flowing (R158). -/
theorem State.withdraw_noFlow (hr : s.restart = false) (r : Reason) : (s.withdraw r).noFlow := fun b => by
  have field (m : Arm) : m.sansShares.stage = m.stage := rfl
  rw [← field, State.withdraw_arm hr r b, field]
  exact Arm.fastClosed_flows

/-- Nothing flows and no claim is held after a change of the monitor and of the flow side. -/
theorem FlowLaw.stopped {m : Monitor} (h : FlowLaw s) (same : State.SameButFlow { s with monitor := m } t) (still : t.Still) :
    FlowLaw t := by
  obtain ⟨flow, slots⟩ := still
  refine ⟨fun _ => ⟨flow, slots⟩, fun hd => ?_, fun hw => ?_⟩
  · unfold State.down at hd
    rw [same.restart, same.station] at hd
    obtain ⟨stands, silent, -⟩ := h.down hd
    exact ⟨by rw [same.station]; exact stands, (same.field State.listenTimer).trans silent, flow, slots⟩
  · rw [same.restart, same.station]
    exact h.waits ((same.field State.stage5Waits).symm.trans hw)

/-- A withdrawal stops every flow and abandons every claim (R158); while the RESTART line is asserted none are left. -/
theorem FlowLaw.alarm {m : Monitor} {r : Reason} (h : FlowLaw s) (hm : m.withdrawn = true) :
    FlowLaw (({ s with monitor := m } : State).withdraw r) := by
  have moves := State.withdraw_touch r { s with monitor := m }
  rcases Bool.eq_false_or_eq_true s.restart with hr | hr
  · have asserted : FlowLaw { s with monitor := m } := h.monitor fun _ => .inr (.inl hr)
    exact FlowLaw.run moves asserted
  · have flow := State.withdraw_noFlow (s := { s with monitor := m }) hr r
    have slots := State.withdraw_slotsFree (s := { s with monitor := m }) r (State.mayClaim_withdrawn hm)
    exact h.stopped moves.sameButFlow ⟨flow, slots⟩

/-- The stop set followed: TERMINAL_STOP is withdrawn, restored or left. -/
theorem FlowLaw.followStopSet (h : FlowLaw s) : FlowLaw s.followStopSet := by
  unfold State.followStopSet
  dsimp only
  split
  · exact h
  · split
    · rename_i raised
      exact h.alarm ((Monitor.withdrawn_iff _).mpr (.inr (.inr (.inr (.inl raised)))))
    · rename_i still
      refine FlowLaw.run (State.restoreIf_touch _ _) (h.monitor fun hw => .inl ?_)
      have ended : s.stopSetNonempty = false := by simpa using still
      rw [ended] at hw
      simp only [Monitor.withdrawn, Bool.or_eq_true, Bool.false_eq_true, or_false] at hw ⊢
      exact hw.imp .inl id

theorem FlowLaw.prim (l : Touch) (s t : State) (p : Prim l s t) (h : FlowLaw s) : FlowLaw t := by
  by_cases hl : l ∈ composite
  · cases p with
    | alarm m r s hm _ => exact h.alarm hm
    | stops v b l p s _ _ =>
      have told : FlowLaw { s with peers := v, ownStop := b, link := l, periodTimer := p } := ⟨h.withdrawn, h.down, h.waits⟩
      exact told.followStopSet
    | newDay c s _ =>
      obtain ⟨r, moves⟩ := State.dayChange_touch ({ s with clock := c } : State)
      exact FlowLaw.run moves ⟨h.withdrawn, h.down, h.waits⟩
    | revoke permit endDay s =>
      obtain ⟨r, moves⟩ := State.deliverRevoke_touch permit endDay s
      exact FlowLaw.run moves ⟨h.withdrawn, h.down, h.waits⟩
    | _ => simp [composite] at hl
  · exact h.simple p hl

/-! ## The three commands on the whole part -/

/-- How the station stands after a cold start: refused, waiting for the RESTART line, or listening. -/
theorem State.coldStart_stands (s : State) (preload : List Byte) (reads : ColdReads) (inputs : FieldInputs)
    (ht : t = s.coldStart preload reads inputs) :
    (t.station = .configFault ∧ t.stage5Waits = false ∧ t.listenTimer = none ∧ t.monitor.terminal = t.ownStop) ∨
    (t.station = .starting ∧ t.restart = true ∧ t.listenTimer = none ∧ t.monitor.terminal = false ∧ t.ownStop = false) ∨
    (t.station = .starting ∧ t.restart = false ∧ t.stage5Waits = false ∧ t.monitor.terminal = t.ownStop) := by
  cases h : stage1Fault reads.config (s.preloaded preload) with
  | some kind =>
    rw [State.coldStart_refused s preload reads inputs h] at ht
    subst ht
    exact .inl ⟨rfl, rfl, rfl, rfl⟩
  | none =>
    rw [State.coldStart_accepted s preload reads inputs h] at ht
    rcases Bool.eq_false_or_eq_true inputs.restart with hr | hr
    · rw [if_pos hr] at ht
      subst ht
      exact .inr (.inl ⟨rfl, hr, rfl, rfl, rfl⟩)
    · obtain ⟨l, r, e, -⟩ := State.stage5_first (u := s.begun preload reads inputs) rfl rfl
      rw [if_neg (Bool.eq_false_iff.mp hr), e] at ht
      subst ht
      exact .inr (.inr ⟨rfl, rfl, rfl, rfl⟩)

theorem State.Cold.still {mem : List Host.Cell} (h : s.Cold mem t) : t.Still := by
  refine ⟨fun a => ?_, fun k => ?_⟩
  · obtain ⟨ahead, slice, gross, std, coupled, arm⟩ := h.arms a
    rw [arm]
    rfl
  · rw [h.headers k]
    rfl

theorem FlowLaw.coldStart (s : State) (preload : List Byte) (reads : ColdReads) (inputs : FieldInputs) :
    FlowLaw (s.coldStart preload reads inputs) := by
  have still := (State.coldStart_cold s preload reads inputs).still
  have stands := State.coldStart_stands s preload reads inputs rfl
  generalize s.coldStart preload reads inputs = t at still stands
  obtain ⟨flow, slots⟩ := still
  rcases stands with ⟨station, runs, silent, -⟩ | ⟨station, asserted, silent, -⟩ | ⟨station, released, runs, -⟩
  · exact ⟨fun _ => ⟨flow, slots⟩, fun _ => ⟨by rw [station]; nofun, silent, flow, slots⟩, by rw [runs]; nofun⟩
  · exact ⟨fun _ => ⟨flow, slots⟩, fun _ => ⟨by rw [station]; nofun, silent, flow, slots⟩,
      fun _ => ⟨asserted, by rw [station]; nofun⟩⟩
  · refine ⟨fun _ => ⟨flow, slots⟩, fun down => ?_, by rw [runs]; nofun⟩
    unfold State.down at down
    rw [station, released] at down
    simp at down

theorem State.assertRestart_still (s : State) : s.assertRestart.Still := by
  rw [State.assertRestart_eq]
  refine ⟨fun a => ?_, fun k => ?_⟩
  · rw [State.arm, vec4_get]
    rcases Bool.eq_false_or_eq_true (s.arm a).stage.flowing with flowing | still
    · rw [Arm.stopped_flowing flowing]
      rfl
    · rw [Arm.stopped_still still]
      exact still
  · rw [State.header, vec8_get]
    rfl

theorem FlowLaw.assertRestart (hs : s.station ≠ .configFault) : FlowLaw s.assertRestart := by
  obtain ⟨flow, slots⟩ := s.assertRestart_still
  have stands : s.assertRestart.station ≠ .running ∧ s.assertRestart.station ≠ .configFault := by
    rw [State.assertRestart_eq]
    show s.station.atAssertion ≠ _ ∧ s.station.atAssertion ≠ _
    cases hst : s.station
    case configFault => exact absurd hst hs
    all_goals exact ⟨nofun, nofun⟩
  have asserted : s.assertRestart.restart = true ∧ s.assertRestart.listenTimer = none := by
    rw [State.assertRestart_eq]
    exact ⟨rfl, rfl⟩
  exact ⟨fun _ => ⟨flow, slots⟩, fun _ => ⟨stands.1, asserted.2, flow, slots⟩, fun _ => ⟨asserted.1, stands.2⟩⟩

/-- The part out of the RESTART line, listening, with nothing flowing. -/
theorem FlowLaw.listens (station : t.station = .starting) (released : t.restart = false) (runs : t.stage5Waits = false)
    (still : t.monitor.withdrawn = true → t.Still) : FlowLaw t := by
  refine ⟨still, fun down => ?_, by rw [runs]; nofun⟩
  unfold State.down at down
  rw [station, released] at down
  simp at down

theorem FlowLaw.restartReleased (h : FlowLaw s) (ht : exec .restartReleased s = .next t) : FlowLaw t := by
  rcases exec_restartReleased_cases ht with rfl | ⟨hs, rfl⟩ | ⟨hw, rfl⟩ | ⟨hw, released⟩
  · exact h
  · refine ⟨h.withdrawn, fun _ => h.down (.inr hs), fun hw => absurd hs (h.waits hw).2⟩
  · obtain ⟨r, e, -⟩ := s.releaseStage5_eq
    rw [e]
    obtain ⟨-, -, flow, slots⟩ := h.down (.inl (h.waits hw).1)
    exact .listens rfl rfl rfl fun _ => ⟨flow, slots⟩
  · have rest := released.rest
    exact .listens (congrArg State.station rest) (congrArg State.restart rest) ((congrArg State.stage5Waits rest).trans hw)
      fun _ => ⟨fun a => (congrArg Stage.flowing (released.armSliced a).1.1), fun k => (released.headers k).2.1⟩

theorem FlowLaw.wholePart (c : Instr) (s t : State) (hc : wholePart c = true) (ht : exec c s = .next t) (h : FlowLaw s) :
    FlowLaw t := by
  cases c with
  | coldStart preload reads inputs =>
    cases ht
    exact .coldStart s preload reads inputs
  | restartAsserted =>
    rcases exec_restartAsserted_cases ht with rfl | ⟨-, hs, rfl⟩ | ⟨-, hs, rfl⟩
    · exact h
    · exact ⟨h.withdrawn, fun _ => h.down (.inr hs), fun hw => ⟨rfl, (h.waits hw).2⟩⟩
    · exact .assertRestart hs
  | restartReleased => exact h.restartReleased ht
  | _ => cases hc

/-- Settles O55: every kind of change keeps the law, a withdrawal by what it stops (`FlowLaw.alarm`); the cold start and the
edges of the RESTART line leave nothing flowing. -/
theorem flowLawKept : Obligations.FlowLawKept := fun _ _ h ht =>
  step_keeps FlowLaw.prim FlowLaw.wholePart (fun _ _ _ h => ⟨h.withdrawn, h.down, h.waits⟩) ht h

/-! ## The law of the stop set (R27, R161) -/

/-- A stop set no peer is in is the own number or nothing. -/
theorem State.stopSetNonempty_alone (h : ∀ p, p ≠ s.cfg.station → (s.peer p).stop = false) :
    s.stopSetNonempty = s.ownStop := by
  rcases Bool.eq_false_or_eq_true s.ownStop with own | own
  · rw [own]
    exact State.stopSetNonempty_own own
  · rw [own]
    refine List.any_eq_false.mpr fun p _ => ?_
    unfold State.inStopSet
    split
    · simp [own]
    · rename_i other
      simp [h p other]

theorem State.peer_stop_of_empty (h : s.stopSetNonempty = false) {p : StationId} (other : p ≠ s.cfg.station) :
    (s.peer p).stop = false := by
  have out := List.any_eq_false.mp h p (mem_allStations p)
  unfold State.inStopSet at out
  rw [if_neg other] at out
  exact Bool.eq_false_iff.mpr out

theorem State.stopSetNonempty_cold (h : s.peers = Vector.replicate 32 Peer.cold) : s.stopSetNonempty = s.ownStop :=
  State.stopSetNonempty_alone fun p _ => by
    unfold State.peer
    rw [h]
    exact congrArg Peer.stop (Vector.getElem_replicate _)

/-- The stop set is a matter of the own number, the own flag and the peers' flags. -/
theorem State.stopSetNonempty_congr (cfg : t.cfg.station = s.cfg.station) (own : t.ownStop = s.ownStop)
    (peers : ∀ p : StationId, (t.peer p).stop = (s.peer p).stop) : t.stopSetNonempty = s.stopSetNonempty := by
  have members : t.inStopSet = s.inStopSet := funext fun p => by
    unfold State.inStopSet
    rw [cfg, own, peers]
  exact congrArg allStations.any members

/-- What the law names. -/
def State.stopView (s : State) : Bool × Bool × Bool × Bool × StationState :=
  (s.monitor.terminal, s.stopSetNonempty, s.stage5Waits, s.restart, s.station)

theorem StopLaw.of_view (h : StopLaw s) (e : t.stopView = s.stopView) : StopLaw t := by
  obtain ⟨terminal, set, waits, restart, station⟩ : t.monitor.terminal = s.monitor.terminal ∧
    t.stopSetNonempty = s.stopSetNonempty ∧ t.stage5Waits = s.stage5Waits ∧ t.restart = s.restart ∧
    t.station = s.station := by
      simpa only [State.stopView, Prod.mk.injEq] using e
  refine ⟨by rw [terminal, set]; exact h.terminal, fun hw => ?_⟩
  rw [restart, station, set]
  exact h.waits (waits ▸ hw)

/-- Another station state, with stage 5 not waiting or a station state that may wait. -/
theorem StopLaw.station {x : StationState} {d : Timer} {l : Link} (h : StopLaw s)
    (hx : s.stage5Waits = true → s.station ≠ .configFault → x ≠ .configFault) :
    StopLaw { s with station := x, listenTimer := d, link := l } := by
  refine ⟨h.terminal, fun hw => ?_⟩
  obtain ⟨asserted, stands, empty⟩ := h.waits hw
  exact ⟨asserted, hx hw stands, empty⟩

theorem StopLaw.simple {l : Touch} (p : Prim l s t) (hl : l ∉ composite) (h : StopLaw s) : StopLaw t := by
  cases p with
  | shares moves => exact h.of_view (moves.sameButFlow.field State.stopView)
  | monitor m s _ terminal =>
    have same : m.terminal = s.monitor.terminal := terminal
    exact ⟨same.trans h.terminal, h.waits⟩
  | peers v s stops =>
    have same : ({ s with peers := v } : State).stopSetNonempty = s.stopSetNonempty :=
      State.stopSetNonempty_congr rfl rfl stops
    exact h.of_view (by unfold State.stopView; rw [same])
  | clash s _ => exact h.station (d := s.listenTimer) fun _ _ => nofun
  | listened x s _ hx => exact h.station (l := s.link) fun _ stands => hx.resolve_right stands
  | alarm | stops | newDay | revoke => simp [composite] at hl
  | _ => exact h.of_view rfl

theorem StopLaw.run {L : List Touch} (moves : Moves L s t) (h : StopLaw s) (hL : ∀ l ∈ L, l ∉ composite := by decide) :
    StopLaw t := moves.keeps (fun l hl _ _ p => StopLaw.simple p (hL l hl)) h

theorem StopLaw.prim (l : Touch) (s t : State) (p : Prim l s t) (h : StopLaw s) : StopLaw t := by
  by_cases hl : l ∈ composite
  · cases p with
    | alarm m r s _ terminal =>
      have same : StopLaw { s with monitor := m } := ⟨terminal.trans h.terminal, h.waits⟩
      exact StopLaw.run (State.withdraw_touch r _) same
    | stops v b l p s _ released =>
      have runs : s.stage5Waits ≠ true := fun hw => Bool.false_ne_true (released.symm.trans (h.waits hw).1)
      have followed := State.followStopSet_recorded { s with peers := v, ownStop := b, link := l, periodTimer := p }
      have recorded : StopLaw (State.recorded { s with peers := v, ownStop := b, link := l, periodTimer := p }) :=
        ⟨rfl, fun hw => absurd hw runs⟩
      exact recorded.of_view (followed.field State.stopView)
    | newDay c s _ =>
      obtain ⟨r, moves⟩ := State.dayChange_touch ({ s with clock := c } : State)
      exact StopLaw.run moves ⟨h.terminal, h.waits⟩
    | revoke permit endDay s =>
      obtain ⟨r, moves⟩ := State.deliverRevoke_touch permit endDay s
      exact StopLaw.run moves ⟨h.terminal, h.waits⟩
    | _ => simp [composite] at hl
  · exact h.simple p hl

theorem StopLaw.coldStart (s : State) (preload : List Byte) (reads : ColdReads) (inputs : FieldInputs) :
    StopLaw (s.coldStart preload reads inputs) := by
  have set := State.stopSetNonempty_cold (State.coldStart_cold s preload reads inputs).peers
  have stands := State.coldStart_stands s preload reads inputs rfl
  generalize s.coldStart preload reads inputs = t at set stands
  rcases stands with ⟨-, runs, -, terminal⟩ | ⟨station, asserted, -, terminal, own⟩ | ⟨-, -, runs, terminal⟩
  · exact ⟨terminal.trans set.symm, by rw [runs]; nofun⟩
  · exact ⟨terminal.trans (set.trans own).symm, fun _ => ⟨asserted, by rw [station]; nofun, set.trans own⟩⟩
  · exact ⟨terminal.trans set.symm, by rw [runs]; nofun⟩

theorem StopLaw.assertRestart (h : StopLaw s) : StopLaw s.assertRestart := by
  rw [State.assertRestart_eq]
  refine ⟨h.terminal, fun hw => ?_⟩
  obtain ⟨-, stands, empty⟩ := h.waits hw
  refine ⟨rfl, ?_, empty⟩
  show s.station.atAssertion ≠ _
  cases hst : s.station
  case configFault => exact absurd hst stands
  all_goals nofun

theorem StopLaw.restartReleased (h : StopLaw s) (ht : exec .restartReleased s = .next t) : StopLaw t := by
  rcases exec_restartReleased_cases ht with rfl | ⟨hs, rfl⟩ | ⟨hw, rfl⟩ | ⟨hw, released⟩
  · exact h
  · exact ⟨h.terminal, fun hw => absurd hs (h.waits hw).2.1⟩
  · obtain ⟨-, -, empty⟩ := h.waits hw
    obtain ⟨r, e, -⟩ := s.releaseStage5_eq
    rw [e]
    refine ⟨Eq.symm (State.stopSetNonempty_alone fun p other => ?_), nofun⟩
    exact State.peer_stop_of_empty empty other
  · have rest := released.rest
    refine ⟨?_, fun waits => ?_⟩
    · rw [State.stopSetNonempty_cold (by rw [rest])]
      rw [rest]
    · rw [rest] at waits
      exact absurd (hw.symm.trans waits) nofun

theorem StopLaw.wholePart (c : Instr) (s t : State) (hc : wholePart c = true) (ht : exec c s = .next t) (h : StopLaw s) :
    StopLaw t := by
  cases c with
  | coldStart preload reads inputs =>
    cases ht
    exact .coldStart s preload reads inputs
  | restartAsserted =>
    rcases exec_restartAsserted_cases ht with rfl | ⟨-, -, rfl⟩ | ⟨-, -, rfl⟩
    · exact h
    · exact ⟨h.terminal, fun hw => ⟨rfl, (h.waits hw).2⟩⟩
    · exact h.assertRestart
  | restartReleased => exact h.restartReleased ht
  | _ => cases hc

/-- Settles O57: TERMINAL_STOP is recorded wherever the stop set changes (`followStopSet_recorded`), and every other change keeps
both. -/
theorem stopLawKept : Obligations.StopLawKept := fun _ _ h ht =>
  step_keeps StopLaw.prim StopLaw.wholePart (fun _ _ _ h => ⟨h.terminal, h.waits⟩) ht h

end Sys2Proof.Machine
end

section
/-! The stop set followed after a peer's frame, and the STOP from a peer (O11). -/

namespace Sys2Proof.Machine

variable {s t u : State} {frame : List Byte} {p : StationId}

/-! ## The stop set followed (R27, R161) -/

/-- A peer in the stop set makes it non-empty. -/
theorem State.stopSetNonempty_peer (other : p ≠ s.cfg.station) (h : (s.peer p).stop = true) : s.stopSetNonempty = true :=
  List.any_eq_true.mpr ⟨p, mem_allStations p, (if_neg other).trans h⟩

theorem State.followStopSet_same (h : s.stopSetNonempty = s.monitor.terminal) : s.followStopSet = s := if_pos h

/-- The first member's entry withdraws TERMINAL_STOP. -/
theorem State.followStopSet_raised (set : s.stopSetNonempty = true) (ht : s.monitor.terminal = false) :
    s.followStopSet = s.recorded.withdraw .terminalStop := by
  unfold State.followStopSet State.recorded
  dsimp only
  rw [set, ht]
  rfl

/-- The last member's leaving restores TERMINAL_STOP. -/
theorem State.followStopSet_ended (set : s.stopSetNonempty = false) (ht : s.monitor.terminal = true) :
    s.followStopSet = s.recorded.restoreIf true := by
  have withdrawn : s.monitor.withdrawn = true := s.monitor.withdrawn_iff.mpr (.inr (.inr (.inr (.inl ht))))
  unfold State.followStopSet State.recorded
  dsimp only
  rw [set, ht, withdrawn]
  rfl

/-- TERMINAL_STOP has been withdrawn: the flow side as the withdrawal leaves it, share moves apart. -/
structure State.TerminalStopped (s t : State) : Prop where
  same : s.recorded.SameButFlow t
  barred : t.mayClaim = false
  arms : ∀ b, (t.arm b).sansShares = ((s.arm b).fastClosed s.now (s.armCfg b) .terminalStop).sansShares
  shots : ∀ i, (t.injector i).firing = false
  slots : t.slotsFree

theorem State.recorded_terminalStopped (set : s.stopSetNonempty = true) (hr : s.restart = false) :
    s.TerminalStopped (s.recorded.withdraw .terminalStop) := by
  have withdrawn : s.recorded.monitor.withdrawn = true := (Monitor.withdrawn_iff _).mpr (.inr (.inr (.inr (.inl set))))
  have barred := State.mayClaim_withdrawn withdrawn
  have same := s.recorded.withdraw_sameButFlow .terminalStop
  exact ⟨same, same.mayClaim.trans barred, State.withdraw_arm (s := s.recorded) hr .terminalStop,
    fun i => State.withdraw_shots _ i _, State.withdraw_slotsFree _ barred⟩

/-- No claim being open to take, a share move leaves it so. -/
theorem State.TerminalStopped.shares (h : s.TerminalStopped t) (moves : SharesMove t u) : s.TerminalStopped u where
  same := h.same.trans moves.sameButFlow
  barred := moves.mayClaim.trans h.barred
  arms b := (moves.arm b).trans (h.arms b)
  shots i := by
    unfold State.injector
    rw [moves.injectors]
    exact h.shots i
  slots k := by
    by_contra held
    rcases moves.slots k held with before | may
    · exact before (h.slots k)
    · exact Bool.false_ne_true (h.barred.symm.trans may)

/-- The closes begun and the step-downs cut, told of any state with these arms at this time. -/
theorem State.TerminalStopped.closes (h : s.TerminalStopped t) (arms : u.arms = s.arms) (cfg : u.cfg = s.cfg)
    (now : u.now = s.now) :
    u.FastStopped t .terminalStop ∧ ∀ a, u.StepDownCut t a := by
  have closed (b : ArmId) : (t.arm b).sansShares = ((u.arm b).fastClosed u.now (u.armCfg b) .terminalStop).sansShares := by
    unfold State.armCfg State.arm
    rw [arms, cfg, now]
    exact h.arms b
  exact ⟨State.fastStopped_of closed h.shots h.slots, State.stepDownCut_of closed rfl⟩

theorem State.TerminalStopped.noFlow (h : s.TerminalStopped t) : t.noFlow := fun b => by
  have field (m : Arm) : m.sansShares.stage = m.stage := rfl
  rw [← field, h.arms b, field]
  exact Arm.fastClosed_flows

/-! ## STOP (R25) -/

/-- The part as a peer's STOP leaves it before the stop set is followed: the sender heard, its stop flag set. -/
def State.stopHeard (s : State) (frame : List Byte) (p : StationId) : State :=
  { s.heardFrom frame p with peers := s.peers.set p { s.peers[p] with
      fresh := .fresh
      heard := some s.now
      stop := true } }

theorem exec_stopReceived (h : s.Takes frame p .stop) :
    exec (.stopReceived frame) s = .next (s.stopHeard frame p).followStopSet := by
  have entered : (State.hear p (s.dropped frame)).modPeer p (fun x => { x with stop := true }) = s.stopHeard frame p := by
    simp [State.hear, State.modPeer, State.dropped, State.stopHeard, State.heardFrom]
  refine congrArg Host.Outcome.next ((State.receive_takes h _).trans ?_)
  exact congrArg State.followStopSet entered

theorem State.stopHeard_peer (s : State) (frame : List Byte) (p : StationId) : ((s.stopHeard frame p).peer p).stop = true := by
  simp [State.stopHeard, State.peer]

/-- Settles O11: the sender is in the stop set, so TERMINAL_STOP either stands already or is withdrawn. -/
theorem stopFrame : Obligations.StopFrame := by
  intro s frame p h
  have member := s.stopHeard_peer frame p
  have set : (s.stopHeard frame p).stopSetNonempty = true := State.stopSetNonempty_peer h.other member
  rw [exec_stopReceived h]
  refine ⟨fun ht => ?_, fun ht => ?_⟩
  · rw [State.followStopSet_same (set.trans ht.symm)]
    rfl
  · have released : s.restart = false := (s.linkOpen_iff.mp h.opened).2
    have stopped := State.recorded_terminalStopped set released
    rw [State.followStopSet_raised set ht]
    generalize (s.stopHeard frame p).recorded.withdraw .terminalStop = t at stopped
    have load := stopped.same.sameLoad
    refine ⟨t, rfl, ?_, ?_, stopped.noFlow, stopped.slots, load.cfg, load.session, load.batches, load.startQueue,
      stopped.closes rfl rfl rfl⟩
    · rw [stopped.same.monitor]
      exact set
    · unfold State.peer
      rw [load.peers]
      exact member

end Sys2Proof.Machine
end

section
/-! What a retry trigger does with no batch queued (R81, R90, R91; O12, O17): it concerns its own header and the arms there, stops
the retry timer and wakes the arms that wait, and the lowest of them takes a FREE slot. -/

namespace Sys2Proof.Machine

variable {s t u : State} {h k : HeaderId} {a : ArmId} {on : HeaderId → Bool}

/-! ## What a trigger on one header leaves of the others -/

/-- The arms of other headers and the other headers are as they were. -/
structure State.OthersSame (h : HeaderId) (s t : State) : Prop where
  cfg : t.cfg = s.cfg
  arms : ∀ a, (s.armCfg a).header ≠ h → t.arm a = s.arm a
  headers : ∀ k, k ≠ h → t.header k = s.header k

theorem State.OthersSame.refl (h : HeaderId) (s : State) : s.OthersSame h s := ⟨rfl, fun _ _ => rfl, fun _ _ => rfl⟩

theorem State.OthersSame.trans (i : s.OthersSame h t) (j : t.OthersSame h u) : s.OthersSame h u where
  cfg := j.cfg.trans i.cfg
  arms a ha := (j.arms a (by unfold State.armCfg; rw [i.cfg]; exact ha)).trans (i.arms a ha)
  headers k hk := (j.headers k hk).trans (i.headers k hk)

theorem State.OthersSame.armCfg (i : s.OthersSame h t) (a : ArmId) : t.armCfg a = s.armCfg a := by
  unfold State.armCfg
  rw [i.cfg]

theorem State.OthersSame.modHeader (i : s.OthersSame h t) (f : Header → Header) : s.OthersSame h (t.modHeader h f) :=
  i.trans ⟨rfl, fun _ _ => rfl, fun k hk => by rw [State.header_modHeader, if_neg hk]⟩

theorem State.OthersSame.modArm (i : s.OthersSame h t) (ha : (s.armCfg a).header = h) (f : Arm → Arm) :
    s.OthersSame h (t.modArm a f) := by
  refine i.trans ⟨rfl, fun b hb => ?_, fun _ _ => rfl⟩
  rw [State.arm_modArm, if_neg]
  rintro rfl
  exact hb ((i.armCfg b).symm ▸ ha)

theorem State.OthersSame.composeState (i : s.OthersSame h t) : s.OthersSame h t.composeState := by
  obtain ⟨l, p, e, -⟩ := t.composeState_eq
  rw [e]
  exact ⟨i.cfg, i.arms, i.headers⟩

theorem State.OthersSame.handTail (i : s.OthersSame h t) (tag : FrameTag) (payload : List Byte) :
    s.OthersSame h (t.handTail tag payload).1 := by
  unfold State.handTail
  split
  · exact ⟨i.cfg, i.arms, i.headers⟩
  · split <;> exact ⟨i.cfg, i.arms, i.headers⟩

theorem State.OthersSame.withdrawClaim (i : s.OthersSame h t) (ha : (s.armCfg a).header = h) (kind : ClaimKind)
    (announce : Bool) : s.OthersSame h (t.withdrawClaim h a kind announce) := by
  have told : s.OthersSame h (if announce then t.composeState else t) := by
    split
    · exact i.composeState
    · exact i
  unfold State.withdrawClaim
  cases kind with
  | low => exact ((told.modArm ha _).modHeader _).modHeader _
  | stepUp => exact (told.modArm ha _).modHeader _

theorem State.takeSlot_othersSame (a : ArmId) (kind : ClaimKind) (s : State) :
    s.OthersSame (s.armCfg a).header (s.takeSlot a kind) := by
  have start := State.OthersSame.refl (s.armCfg a).header s
  unfold State.takeSlot
  dsimp only
  split
  · exact start.withdrawClaim rfl _ _
  · have held (c : Claim) := start.modHeader fun x => { x with slot := some c }
    cases kind with
    | low =>
      have handed (c : Claim) := (held c).handTail (.claim (s.armCfg a).header)
      split
      · exact (handed _ _).withdrawClaim rfl _ _
      · exact handed _ _
    | stepUp =>
      have handed (c : Claim) :=
        ((held c).modArm (a := a) rfl fun m => { m with stepUp := .inClaim }).handTail (.claim (s.armCfg a).header)
      split
      · exact (handed _ _).withdrawClaim rfl _ _
      · exact handed _ _

theorem State.OthersSame.foldl {α : Type} {f : State → α → State} (hf : ∀ (x : State) b, x.OthersSame h (f x b))
    (l : List α) (s : State) : s.OthersSame h (l.foldl f s) := by
  induction l generalizing s with
  | nil => exact .refl h s
  | cons b l ih => exact (hf s b).trans (ih _)

theorem State.passArms_othersSame (h : HeaderId) (s : State) : s.OthersSame h (s.passArms h) := by
  refine .foldl (fun x a => ?_) _ s
  unfold State.offerSlot
  split
  · rename_i offered
    obtain ⟨-, rfl, -⟩ := offered
    exact x.takeSlot_othersSame a _
  · exact .refl h x

theorem State.passOn_othersSame (h : HeaderId) (hq : s.startQueue = []) : s.OthersSame h (s.passOn h) := by
  unfold State.passOn
  split
  · rename_i may
    have passed := s.passArms_othersSame h
    have queue : (s.passArms h).startQueue = [] := (s.passArms_moves h may).startQueue.trans hq
    dsimp only
    rw [State.scan_empty queue, ite_self]
    exact passed
  · exact .refl h s

/-! ## The trigger, step by step -/

/-- An arm that a trigger wakes (R90). -/
def Arm.woken (on : Bool) (m : Arm) : Arm := if on = true ∧ m.stepUp = .retryWait then { m with stepUp := .waiting } else m

/-- The retry timer stopped, RETRY WAIT arms WAITING (R90, R91). -/
def State.awake (s : State) (h : HeaderId) : State :=
  { s.modHeader h fun x => { x with retryTimer := none } with
    arms := vec4 fun a => (s.arm a).woken (decide ((s.armCfg a).header = h)) }

theorem State.awake_arm (s : State) (h : HeaderId) (a : ArmId) :
    (s.awake h).arm a = (s.arm a).woken (decide ((s.armCfg a).header = h)) := vec4_get _ a

theorem State.awake_header (s : State) (h k : HeaderId) : (s.awake h).header k =
    if k = h then { s.header k with retryTimer := none } else s.header k :=
  State.header_modHeader h k (fun x => { x with retryTimer := none }) s

theorem State.wakeArm_eq (h : HeaderId) (a : ArmId) (s : State) :
    s.wakeArm h a = s.modArm a (Arm.woken (decide ((s.armCfg a).header = h))) := by
  unfold State.wakeArm
  split
  · rename_i wakes
    refine State.modArm_congr (f := fun m => { m with stepUp := .waiting }) ?_
    simp [Arm.woken, wakes]
  · rename_i sleeps
    refine (State.modArm_id a s).symm.trans (State.modArm_congr (f := fun m => m) ?_)
    simp only [Arm.woken, decide_eq_true_eq]
    rw [if_neg sleeps]

theorem State.eachArm_wakeArm (h : HeaderId) (s : State) : s.eachArm (State.wakeArm h) =
    { s with arms := vec4 fun a => (s.arm a).woken (decide ((s.armCfg a).header = h)) } := by
  rw [← State.eachArm_modArm]
  simp only [State.eachArm, State.wakeArm_eq]
  rfl

/-- With no batch queued a trigger wakes the arms, passes a FREE slot on and clears the retry wait flag. -/
theorem State.retryTrigger_unqueued (hq : s.startQueue = []) : s.retryTrigger h =
    (if (s.header h).slot = none then (s.awake h).passOn h else s.awake h).modHeader h
      fun x => { x with retryWait := false } := by
  have slot : ((s.awake h).header h).slot = (s.header h).slot := by
    rw [State.awake_header, if_pos rfl]
  have queue : (if (s.header h).slot = none then (s.awake h).passOn h else s.awake h).startQueue = [] := by
    split
    · exact ((s.awake h).passOn_moves h).startQueue.trans hq
    · exact hq
  have woken : (s.modHeader h fun x => { x with retryTimer := none }).eachArm (State.wakeArm h) = s.awake h :=
    State.eachArm_wakeArm h _
  unfold State.retryTrigger
  dsimp only
  rw [woken, slot]
  exact State.scan_empty queue

theorem State.retryTrigger_othersSame (hq : s.startQueue = []) : s.OthersSame h (s.retryTrigger h) := by
  have woken : s.OthersSame h (s.awake h) := by
    refine ⟨rfl, fun a ha => ?_, fun k hk => ?_⟩
    · rw [State.awake_arm, Arm.woken, if_neg (by simp [ha])]
    · rw [State.awake_header, if_neg hk]
  rw [State.retryTrigger_unqueued hq]
  split
  · exact (woken.trans (State.passOn_othersSame h hq)).modHeader _
  · exact woken.modHeader _

/-- Behind a slot that is held the arms of the header wait. -/
theorem State.retryTrigger_held (hq : s.startQueue = []) (hs : (s.header h).slot ≠ none) :
    s.retryTrigger h = (s.awake h).modHeader h fun x => { x with retryWait := false } := by
  rw [State.retryTrigger_unqueued hq, if_neg hs]

theorem State.awake_waits (hw : s.Waits h a) : ((s.awake h).arm a).stepUp = .waiting := by
  obtain ⟨header, waits | waits⟩ := hw
  · rw [State.awake_arm, Arm.woken, if_neg (by simp [waits])]
    exact waits
  · rw [State.awake_arm, Arm.woken, if_pos (by simp [header, waits])]

/-- An arm that a trigger leaves WAITING was waiting before. -/
theorem State.waits_of_awake (header : (s.armCfg a).header = h) (hw : ((s.awake h).arm a).stepUp = .waiting) : s.Waits h a := by
  refine ⟨header, ?_⟩
  rw [State.awake_arm, Arm.woken] at hw
  split at hw
  · rename_i wakes
    exact .inr wakes.2
  · exact .inl hw

/-- A header whose retry timer a trigger has stopped and whose retry wait flag it has cleared (R90, R91). -/
def Header.retried (x : Header) : Header := { x with
  retryTimer := none
  retryWait := false }

/-- With no arm waiting a trigger stops the timer and clears the flag. -/
theorem State.retryTrigger_quiet (hq : s.startQueue = []) (hn : ∀ a, ¬ s.Waits h a) :
    s.retryTrigger h = s.modHeader h Header.retried := by
  have asleep : s.awake h = s.modHeader h fun x => { x with retryTimer := none } := by
    refine congrArg (fun v => { s.modHeader h fun x => { x with retryTimer := none } with arms := v })
      (vector_ext_fin fun a => (vec4_get _ a).trans ?_)
    rw [Arm.woken, if_neg]
    · rfl
    · rintro ⟨header, waits⟩
      exact hn a ⟨of_decide_eq_true header, .inr waits⟩
  have none : State.NoTaker (s.awake h) h := by
    refine ⟨fun a header waits => hn a (State.waits_of_awake header waits), fun k hk => ?_⟩
    have queue : (s.awake h).startQueue = [] := hq
    rw [queue] at hk
    cases hk
  rw [State.retryTrigger_unqueued hq, none.passOn, ite_self, asleep]
  unfold State.modHeader
  simp [Header.retried]

/-! ## A slot taken -/

/-- The claim an arm takes with its header's FREE slot (R79, R82). -/
def State.newClaim (s : State) (a : ArmId) (kind : ClaimKind) : Claim :=
  let inc := claimIncrease (s.armCfg a) kind
  ⟨a, kind, inc, (s.header (s.armCfg a).header).ownShare + inc, .queued, s.link.nextId⟩

theorem State.newClaim_stepUp (s : State) (a : ArmId) : s.newClaim a .stepUp =
    s.stepUpClaim a (s.header (s.armCfg a).header).ownShare s.link.nextId := rfl

theorem State.awake_newClaim (s : State) (h : HeaderId) (a : ArmId) (kind : ClaimKind) :
    (s.awake h).newClaim a kind = s.newClaim a kind := by
  unfold State.newClaim
  rw [State.awake_header]
  split <;> rfl

/-- The claim in its slot, its CLAIM not yet handed over. -/
def State.claiming (s : State) (a : ArmId) (kind : ClaimKind) : State :=
  let x := s.modHeader (s.armCfg a).header fun x => { x with slot := some (s.newClaim a kind) }
  match kind with
  | .low => x
  | .stepUp => x.modArm a fun m => { m with stepUp := .inClaim }

theorem State.claiming_header (s : State) (a : ArmId) (kind : ClaimKind) : (s.claiming a kind).header (s.armCfg a).header =
    { s.header (s.armCfg a).header with slot := some (s.newClaim a kind) } := by
  cases kind <;> simp [State.claiming]

theorem State.claiming_slot (s : State) (a : ArmId) (kind : ClaimKind) :
    ((s.claiming a kind).header (s.armCfg a).header).slot = some (s.newClaim a kind) := by
  rw [State.claiming_header]

theorem State.takeSlot_eq (s : State) (a : ArmId) (kind : ClaimKind) : s.takeSlot a kind =
    let h := (s.armCfg a).header
    let total := (s.newClaim a kind).total
    if (s.headerCfg h).capacity < total then s.withdrawClaim h a kind false
    else
      let r := (s.claiming a kind).handTail (.claim h) (claimPayload h total (s.claiming a kind).sessionClass)
      match r.2 with
      | .full => r.1.withdrawClaim h a kind true
      | _ => r.1 := by
  cases kind <;> rfl

/-- A claim that fits and finds room is in its slot, with its CLAIM at the tail (R82). -/
theorem State.takeSlot_fits {kind : ClaimKind} (hs : s.Sends)
    (fits : (s.newClaim a kind).total ≤ (s.headerCfg (s.armCfg a).header).capacity) :
    ∃ l : Link, l.queue = s.link.queue ++ [s.claimFrame (s.newClaim a kind)] ∧
      s.takeSlot a kind = { s.claiming a kind with link := l } := by
  have same : (s.claiming a kind).link = s.link ∧ (s.claiming a kind).linkOpen = s.linkOpen ∧
      (s.claiming a kind).station = s.station ∧ (s.claiming a kind).cfg = s.cfg ∧
      (s.claiming a kind).sessionClass = s.sessionClass := by
    cases kind <;> exact ⟨rfl, rfl, rfl, rfl, rfl⟩
  rw [State.takeSlot_eq]
  generalize s.claiming a kind = x at same
  obtain ⟨link, opened, station, cfg, cls⟩ := same
  dsimp only
  rw [if_neg (Nat.not_lt.mpr fits), State.handTail_eq (opened.trans hs.opened) (station ▸ hs.clear),
    Link.pushTail_room (link ▸ hs.room)]
  refine ⟨_, ?_, rfl⟩
  show (Link.wake _).queue = _
  rw [Link.wake_queue]
  show x.link.queue ++ [x.frameNow _ _] = _
  rw [link, State.frameNow, link, cfg, cls]
  rfl

/-- An arm that does not wait, and an arm of a header whose slot is held, is not offered the slot. -/
theorem State.offerSlot_skips (hn : (s.header h).slot ≠ none ∨ (s.armCfg a).header ≠ h ∨ (s.arm a).stepUp ≠ .waiting) :
    s.offerSlot h a = s := by
  refine if_neg ?_
  rintro ⟨free, header, waits⟩
  rcases hn with held | other | still
  · exact held free
  · exact other header
  · exact still waits

theorem foldl_fixed_of_mem {α β : Type} {f : β → α → β} {b : β} {l : List α} (hf : ∀ x ∈ l, f b x = b) :
    l.foldl f b = b := by
  induction l with
  | nil => rfl
  | cons x l ih =>
    rw [List.foldl_cons, hf x (List.mem_cons_self ..)]
    exact ih fun y hy => hf y (List.mem_cons_of_mem _ hy)

/-- The arms in the order they are offered a slot. -/
theorem allArms_split (a : ArmId) : ∃ before after, allArms = before ++ a :: after ∧ ∀ b ∈ before, b < a := by
  match a with
  | 0 => exact ⟨[], [1, 2, 3], rfl, nofun⟩
  | 1 => exact ⟨[0], [2, 3], rfl, by decide⟩
  | 2 => exact ⟨[0, 1], [3], rfl, by decide⟩
  | 3 => exact ⟨[0, 1, 2], [], rfl, by decide⟩

/-- The lowest arm that waits takes the slot, and none after it. -/
theorem State.passArms_takes (header : (s.armCfg a).header = h) (waits : (s.arm a).stepUp = .waiting)
    (lowest : ∀ b, (s.armCfg b).header = h → (s.arm b).stepUp = .waiting → a ≤ b) (free : (s.header h).slot = none)
    (held : ((s.takeSlot a .stepUp).header h).slot ≠ none) : s.passArms h = s.takeSlot a .stepUp := by
  obtain ⟨before, after, split, lower⟩ := allArms_split a
  have passed : before.foldl (State.offerSlot h) s = s := foldl_fixed_of_mem fun b hb => State.offerSlot_skips (by
    by_contra hc
    push Not at hc
    exact absurd (lowest b hc.2.1 hc.2.2) (not_le_of_gt (lower b hb)))
  have taken : s.offerSlot h a = s.takeSlot a .stepUp := if_pos ⟨free, header, waits⟩
  unfold State.passArms
  rw [split, List.foldl_append, passed, List.foldl_cons, taken]
  exact foldl_fixed_of_mem fun b _ => State.offerSlot_skips (.inl held)

/-- The lowest arm that waits takes a FREE slot at the trigger (R81, R90). -/
theorem State.retryTrigger_passes (hq : s.startQueue = []) (waits : s.Waits h a) (lowest : ∀ b, s.Waits h b → a ≤ b)
    (free : (s.header h).slot = none) (may : s.mayClaim = true) (hs : s.Sends)
    (fits : (s.newClaim a .stepUp).total ≤ (s.headerCfg h).capacity) :
    ∃ l : Link, l.queue = s.link.queue ++ [s.claimFrame (s.newClaim a .stepUp)] ∧ s.retryTrigger h =
      ({ (s.awake h).claiming a .stepUp with link := l } : State).modHeader h fun x => { x with retryWait := false } := by
  have header := waits.1
  have slot : ((s.awake h).header h).slot = none := by
    rw [State.awake_header, if_pos rfl]
    exact free
  have claim := s.awake_newClaim h a .stepUp
  have fits : ((s.awake h).newClaim a .stepUp).total ≤ ((s.awake h).headerCfg ((s.awake h).armCfg a).header).capacity := by
    rw [claim]
    show _ ≤ (s.headerCfg (s.armCfg a).header).capacity
    rw [header]
    exact fits
  obtain ⟨l, queue, taken⟩ := State.takeSlot_fits (s := s.awake h) ⟨hs.opened, hs.clear, hs.room⟩ fits
  have held : (((s.awake h).takeSlot a .stepUp).header h).slot ≠ none := by
    have slot := State.claiming_slot (s.awake h) a .stepUp
    rw [show (s.awake h).armCfg a = s.armCfg a from rfl, header] at slot
    have same : ({ (s.awake h).claiming a .stepUp with link := l } : State).header h =
      ((s.awake h).claiming a .stepUp).header h := rfl
    rw [taken, same, slot]
    exact Option.some_ne_none _
  have passed := State.passArms_takes (s := s.awake h) header (State.awake_waits waits)
    (fun b hb hw => lowest b (State.waits_of_awake hb hw)) slot held
  have on : (s.awake h).passOn h = (s.awake h).takeSlot a .stepUp := by
    have may : (s.awake h).mayClaim = true := may
    unfold State.passOn
    dsimp only
    rw [if_pos may, passed, if_neg held]
  rw [claim] at queue
  exact ⟨l, queue, by rw [State.retryTrigger_unqueued hq, if_pos free, on, taken]⟩

theorem State.claiming_stepUp_arm (s : State) (a b : ArmId) : (s.claiming a .stepUp).arm b =
    if b = a then { s.arm b with stepUp := .inClaim } else s.arm b :=
  State.arm_modArm a b (fun m => { m with stepUp := .inClaim }) _

/-! ## Triggers on several headers -/

/-- A trigger on one of the headers `on`. -/
def State.trigger (on : HeaderId → Bool) (s : State) (h : HeaderId) : State := if on h then s.retryTrigger h else s

/-- Triggers on the headers `on`, by number. -/
def State.retry (s : State) (on : HeaderId → Bool) : State := allHeaders.foldl (State.trigger on) s

theorem State.trigger_on (ho : on h = true) : s.trigger on h = s.retryTrigger h := if_pos ho

theorem State.trigger_off (ho : on h = false) : s.trigger on h = s := if_neg (Bool.eq_false_iff.mp ho)

theorem State.trigger_moves (on : HeaderId → Bool) (s : State) (h : HeaderId) : SharesMove s (s.trigger on h) := by
  unfold State.trigger
  split
  · exact s.retryTrigger_moves h
  · exact .refl s

theorem State.retry_moves (s : State) (on : HeaderId → Bool) : SharesMove s (s.retry on) :=
  .foldl _ (State.trigger_moves on) _ s

theorem State.trigger_othersSame (hq : s.startQueue = []) (on : HeaderId → Bool) (h : HeaderId) :
    s.OthersSame h (s.trigger on h) := by
  unfold State.trigger
  split
  · exact State.retryTrigger_othersSame hq
  · exact .refl h s

theorem State.retry_none (hn : ∀ h, on h = false) : s.retry on = s :=
  foldl_fixed_of_mem fun h _ => State.trigger_off (hn h)

/-- Triggers on one header alone. -/
theorem State.retry_single (ho : on h = true) (only : ∀ k, on k = true → k = h) : s.retry on = s.retryTrigger h := by
  obtain ⟨before, after, split⟩ := List.mem_iff_append.mp (mem_allHeaders h)
  have distinct : (before ++ h :: after).Nodup := split ▸ by decide
  have fresh : h ∉ before ++ after := (List.nodup_cons.mp (List.nodup_middle.mp distinct)).1
  have off (x : State) (k : HeaderId) (hk : k ∈ before ++ after) : x.trigger on k = x :=
    State.trigger_off (Bool.eq_false_iff.mpr fun hon => fresh (only k hon ▸ hk))
  have first : before.foldl (State.trigger on) s = s := foldl_fixed_of_mem fun k hk => off _ k (List.mem_append_left _ hk)
  unfold State.retry
  rw [split, List.foldl_append, first, List.foldl_cons, State.trigger_on ho]
  exact foldl_fixed_of_mem fun k hk => off _ k (List.mem_append_right _ hk)

/-- Eight entries changed one by one are each changed on its own. -/
theorem foldl_set_allHeaders {α : Type} (f : Fin 8 → α → α) (g : Vector α 8 → Fin 8 → Vector α 8)
    (hg : ∀ v i, g v i = v.set i (f i v[i])) (v : Vector α 8) : allHeaders.foldl g v = vec8 fun i => f i v[i] := by
  simp only [allHeaders, List.foldl_cons, List.foldl_nil, hg]
  refine vector_ext_fin fun i => ?_
  rw [vec8_get]
  fin_cases i <;> simp

theorem State.foldl_modHeader (f : HeaderId → Header → Header) (s : State) :
    allHeaders.foldl (fun x h => x.modHeader h (f h)) s = { s with headers := vec8 fun h => f h (s.header h) } := by
  have fields (l : List HeaderId) (s : State) : l.foldl (fun x h => x.modHeader h (f h)) s =
      { s with headers := l.foldl (fun v (h : HeaderId) => v.set h (f h v[h])) s.headers } := by
    induction l generalizing s with
    | nil => rfl
    | cons h l ih => exact ih _
  have each := foldl_set_allHeaders f (fun v (h : HeaderId) => v.set h (f h v[h])) (fun _ _ => rfl) s.headers
  rw [fields, each]
  rfl

/-- With no arm waiting on them triggers stop the timers and clear the flags. -/
theorem State.retry_quiet (hq : s.startQueue = []) (hn : ∀ a h, on h = true → ¬ s.Waits h a) :
    s.retry on = s.triggered on := by
  have one (x : State) (h : HeaderId) (arms : x.arms = s.arms) (cfg : x.cfg = s.cfg) (queue : x.startQueue = []) :
      x.trigger on h = x.modHeader h fun y => if on h then y.retried else y := by
    rcases Bool.eq_false_or_eq_true (on h) with ho | ho
    · have quiet (a : ArmId) : ¬ x.Waits h a := by
        unfold State.Waits State.armCfg State.arm
        rw [arms, cfg]
        exact hn a h ho
      rw [State.trigger_on ho, State.retryTrigger_quiet queue quiet]
      simp only [ho, if_true]
    · rw [State.trigger_off ho]
      have same : x.headers.set h x.headers[h] = x.headers := Vector.set_getElem_self _
      unfold State.modHeader
      simp only [ho, Bool.false_eq_true, if_false, same]
  have all (l : List HeaderId) (x : State) (arms : x.arms = s.arms) (cfg : x.cfg = s.cfg) (queue : x.startQueue = []) :
      l.foldl (State.trigger on) x = l.foldl (fun x h => x.modHeader h fun y => if on h then y.retried else y) x := by
    induction l generalizing x with
    | nil => rfl
    | cons h l ih =>
      rw [List.foldl_cons, List.foldl_cons, one x h arms cfg queue]
      exact ih _ arms cfg queue
  exact (all allHeaders s rfl rfl hq).trans (State.foldl_modHeader (fun h y => if on h then y.retried else y) s)

/-- An arm waiting behind a slot that is held. -/
structure State.WaitsBehind (s : State) (h : HeaderId) (a : ArmId) : Prop where
  queue : s.startQueue = []
  waits : s.Waits h a
  held : (s.header h).slot ≠ none

theorem State.WaitsBehind.retryTrigger (w : s.WaitsBehind h a) :
    (s.retryTrigger h).WaitsBehind h a ∧ ((s.retryTrigger h).arm a).stepUp = .waiting := by
  have waiting : ((s.retryTrigger h).arm a).stepUp = .waiting := by
    rw [State.retryTrigger_held w.queue w.held]
    exact State.awake_waits w.waits
  have moves := s.retryTrigger_moves h
  refine ⟨⟨moves.startQueue.trans w.queue, ⟨?_, .inl waiting⟩, ?_⟩, waiting⟩
  · unfold State.armCfg
    rw [moves.cfg]
    exact w.waits.1
  · rw [State.retryTrigger_held w.queue w.held, State.header_modHeader_self, State.awake_header, if_pos rfl]
    exact w.held

theorem State.WaitsBehind.othersSame (w : s.WaitsBehind h a) (i : s.OthersSame k t) (hk : h ≠ k) (queue : t.startQueue = []) :
    t.WaitsBehind h a ∧ t.arm a = s.arm a := by
  have arm : t.arm a = s.arm a := i.arms a (by rw [w.waits.1]; exact hk)
  refine ⟨⟨queue, ⟨(congrArg ArmCfg.header (i.armCfg a)).trans w.waits.1, ?_⟩, ?_⟩, arm⟩
  · rw [arm]
    exact w.waits.2
  · rw [i.headers h hk]
    exact w.held

/-- Behind a slot that is held a trigger on its header makes the arm WAITING. -/
theorem State.retry_wakes (hq : s.startQueue = []) (ho : on h = true) (hw : s.Waits h a) (held : (s.header h).slot ≠ none) :
    ((s.retry on).arm a).stepUp = .waiting := by
  have step (x : State) (k : HeaderId) (w : x.WaitsBehind h a) : (x.trigger on k).WaitsBehind h a ∧
      ((x.arm a).stepUp = .waiting ∨ k = h → ((x.trigger on k).arm a).stepUp = .waiting) := by
    by_cases hk : k = h
    · subst hk
      rw [State.trigger_on ho]
      exact ⟨w.retryTrigger.1, fun _ => w.retryTrigger.2⟩
    · have queue := (x.trigger_moves on k).startQueue.trans w.queue
      obtain ⟨behind, arm⟩ := w.othersSame (State.trigger_othersSame w.queue on k) (Ne.symm hk) queue
      refine ⟨behind, fun waiting => ?_⟩
      rw [arm]
      exact waiting.resolve_right hk
  exact foldl_reaches (State.trigger on) (P := fun x => x.WaitsBehind h a)
    (Q := fun k x => k = h → (x.arm a).stepUp = .waiting) (fun x k w => (step x k w).1)
    (fun x k w hk => (step x k w).2 (.inr hk)) (fun x k j w hj e => (step x k w).2 (.inl (hj e))) _ s ⟨hq, hw, held⟩ h
    (mem_allHeaders h) rfl

/-- What triggers on several headers do with no batch queued. -/
theorem State.retry_retried (hq : s.startQueue = []) (on : HeaderId → Bool) : s.Retried (s.retry on) on where
  quiet := State.retry_quiet hq
  wakes _ _ ho hw held := State.retry_wakes hq ho hw held
  passes a h ho only hw lowest free may hs fits := by
    have header := hw.1
    have claim : s.newClaim a .stepUp = s.stepUpClaim a s.headers[h].ownShare s.link.nextId := by
      rw [State.newClaim_stepUp, header]
      rfl
    obtain ⟨l, queue, e⟩ := State.retryTrigger_passes hq hw lowest free may hs (claim ▸ fits)
    have slot := State.claiming_header (s.awake h) a .stepUp
    rw [show (s.awake h).armCfg a = s.armCfg a from rfl, header, State.awake_newClaim, claim] at slot
    rw [claim] at queue
    rw [State.retry_single ho only, e]
    refine ⟨?_, ?_, queue, fun b hb hw => ?_⟩
    · refine (State.header_modHeader_self h _ _).trans ?_
      have same : ({ (s.awake h).claiming a .stepUp with link := l } : State).header h =
        ((s.awake h).claiming a .stepUp).header h := rfl
      rw [same, slot, State.awake_header, if_pos rfl]
      rfl
    · refine (congrArg Arm.stepUp (State.claiming_stepUp_arm (s.awake h) a a)).trans ?_
      rw [if_pos rfl]
    · refine (congrArg Arm.stepUp (State.claiming_stepUp_arm (s.awake h) a b)).trans ?_
      rw [if_neg hb]
      exact State.awake_waits hw

end Sys2Proof.Machine
end

section
/-! The peer view: its ageing (O17) and the STATE from a peer (O12). -/

namespace Sys2Proof.Machine

variable {s t u : State} {frame : List Byte} {p : StationId} {cls : PriorityClass} {stop isOpen starting : Bool}
  {shares : Vector Nat 8} {permit : Option Nat}

/-! ## Ageing (R21, R24) -/

theorem State.peerLeft_eq (old : Vector Nat 8) : State.peerLeft old = State.trigger fun h => decide (0 < old[h]) := by
  funext s h
  simp [State.peerLeft, State.trigger]

/-- An entry that goes GONE is a trigger on each header its peer had a share of. -/
theorem exec_peerGone (h : s.peers[p].fresh = .stale) : exec (.peerGone p) s =
    .next ((s.modPeer p Peer.gone).retry fun h => decide (0 < s.peers[p].shares[h])) := by
  refine congrArg Host.Outcome.next ((if_pos h).trans ?_)
  exact congrArg (fun f => allHeaders.foldl f (s.modPeer p Peer.gone)) (State.peerLeft_eq _)

/-- Settles O17: the entry alone changes, but for the triggers of the shares that a GONE peer had (`retry_retried`). -/
theorem peerAgeing : Obligations.PeerAgeing := by
  intro s p
  refine ⟨fun fresh => congrArg Host.Outcome.next (if_pos fresh), fun t e stale => ?_, fun _ => rfl⟩
  have gone : s.modPeer p Peer.gone = t := e.symm
  have same : t.monitor = s.monitor ∧ t.station = s.station ∧ t.startQueue = s.startQueue := by
    rw [e]
    exact ⟨rfl, rfl, rfl⟩
  obtain ⟨monitor, station, queue⟩ := same
  rw [exec_peerGone stale, gone]
  refine ⟨fun none => ?_, _, rfl, (t.retry_moves _).sameButFlow.sameLoad, (t.retry_moves _).monitor.trans monitor,
    (t.retry_moves _).station.trans station, fun empty => State.retry_retried (queue.trans empty) _⟩
  rw [State.retry_none fun h => decide_eq_false (by rw [none h]; exact Nat.lt_irrefl 0)]

/-! ## STATE (R22) -/

/-- The part as a peer's STATE leaves it before the stop set is followed: the sender's entry replaced whole. -/
def State.stateHeard (s : State) (frame : List Byte) (p : StationId) (cls : PriorityClass) (stop isOpen : Bool)
    (shares : Vector Nat 8) (permit : Option Nat) : State :=
  { s.heardFrom frame p with
    peers := s.peers.set p ⟨.fresh, some s.now, shares, if isOpen then permit else none, cls, stop, Vector.replicate 8 none⟩ }

/-- The headers on which a STATE lowers the sender's share. -/
def State.falls (s : State) (p : StationId) (shares : Vector Nat 8) (h : HeaderId) : Bool :=
  decide (shares[h] < s.peers[p].shares[h])

theorem State.shareFell_eq (old new : Vector Nat 8) :
    State.shareFell old new = State.trigger fun h => decide (new[h] < old[h]) := by
  funext s h
  simp [State.shareFell, State.trigger]

/-- A STATE: the entry, the stop set, the falls, the permit offer. -/
theorem exec_stateReceived (h : s.Takes frame p (.state cls stop isOpen starting shares permit)) :
    exec (.stateReceived frame) s = .next
      (((s.stateHeard frame p cls stop isOpen shares permit).followStopSet.retry (s.falls p shares)).permitOffer p
        (if isOpen then permit else none)) := by
  have old : ((State.hear p (s.dropped frame)).peer p).shares = s.peers[p].shares := by
    simp [State.hear, State.modPeer, State.dropped, State.peer]
  have entered : (State.hear p (s.dropped frame)).modPeer p (stateEntry cls stop isOpen shares permit) =
      s.stateHeard frame p cls stop isOpen shares permit := by
    simp [State.hear, State.modPeer, State.dropped, State.stateHeard, State.heardFrom, stateEntry]
  refine congrArg Host.Outcome.next ((State.receive_takes h _).trans ?_)
  show State.deliverState p cls stop isOpen shares permit (State.hear p (s.dropped frame)) = _
  unfold State.deliverState
  dsimp only
  rw [old, entered, State.shareFell_eq]
  rfl

/-- An offer of another permit, or of none, concerns no session. -/
theorem State.permitOffer_other {offer : Option Nat} (h : offer = none ∨ offer ≠ s.sessionPermit) :
    s.permitOffer p offer = s := by
  refine if_neg ?_
  rcases h with rfl | other
  · nofun
  · simp [other]

/-- A frame that names no permit of this session leaves the session out. -/
theorem exec_stateReceived_unoffered (h : s.Takes frame p (.state cls stop isOpen starting shares permit))
    (other : isOpen = false ∨ permit ≠ s.sessionPermit) : exec (.stateReceived frame) s = .next
      ((s.stateHeard frame p cls stop isOpen shares permit).followStopSet.retry (s.falls p shares)) := by
  have followed := (s.stateHeard frame p cls stop isOpen shares permit).followStopSet_recorded
  rw [exec_stateReceived h]
  generalize (s.stateHeard frame p cls stop isOpen shares permit).followStopSet = x at followed
  have session : (x.retry (s.falls p shares)).sessionPermit = s.sessionPermit := by
    unfold State.sessionPermit
    rw [(x.retry_moves _).session, followed.session]
    rfl
  rw [State.permitOffer_other]
  rw [session]
  cases isOpen with
  | false => exact .inl rfl
  | true => exact .inr (other.resolve_left nofun)

theorem State.restoreIf_withdrawn (h : s.monitor.withdrawn = true) (was : Bool) : s.restoreIf was = s := by
  unfold State.restoreIf
  rw [h]
  exact if_neg (by simp)

/-! ## The arm a scan gives (R64, R65) -/

theorem State.additiveTest_iff (s : State) (b : Batch) (a : ArmId) : s.additiveTest b a = true ↔
    (s.gradeCfg b.grade).additive = none ∨ ∃ j, s.gradeInjector a b.grade = some j ∧
      (s.session.latches[j] = false ∨ s.monitor.bypass = true) := by
  have code : s.gradeCode b.grade = (s.gradeCfg b.grade).additive := rfl
  unfold State.additiveTest State.gradeInjector
  rw [code]
  cases (s.gradeCfg b.grade).additive with
  | none => simp
  | some c =>
    rw [Option.bind_some]
    dsimp only
    cases s.servingInjector a c with
    | none => simp
    | some j => simp [State.isFault]

/-- The tests of R65, for a batch that has not started. -/
theorem State.armPasses_iff {b : Batch} (hb : b.started = false) (a : ArmId) : s.armPasses b a = true ↔ s.PassesTests b a := by
  have additive := s.additiveTest_iff b a
  have k : s.kTest b a = true := by
    unfold State.kTest
    rw [hb]
    rfl
  unfold State.armPasses
  rw [k]
  simp only [Bool.and_eq_true, Bool.or_eq_true, decide_eq_true_eq, beq_iff_eq, and_true]
  constructor
  · rintro ⟨⟨⟨⟨⟨⟨⟨enabled, header⟩, named⟩, coupled⟩, service⟩, closed⟩, free⟩, test⟩
    exact ⟨enabled, header, named, coupled, service, closed, free, additive.mp test⟩
  · rintro ⟨enabled, header, named, coupled, service, closed, free, test⟩
    exact ⟨⟨⟨⟨⟨⟨⟨enabled, header⟩, named⟩, coupled⟩, service⟩, closed⟩, free⟩, additive.mpr test⟩

/-- The lowest arm that passes is chosen for a batch that has not started. -/
theorem State.chooseArm_lowest {b : Batch} {a : ArmId} (hb : b.started = false) (passes : s.PassesTests b a)
    (lowest : ∀ i, s.PassesTests b i → a ≤ i) : s.chooseArm b = some a := by
  have first : allArms.find? (s.armPasses b) = some a := by
    obtain ⟨before, after, split, lower⟩ := allArms_split a
    refine List.find?_eq_some_iff_append.mpr ⟨(State.armPasses_iff hb a).mpr passes, before, after, split, fun i hi => ?_⟩
    rw [Bool.not_eq_true', Bool.eq_false_iff]
    exact fun test => absurd (lowest i ((State.armPasses_iff hb i).mp test)) (not_le_of_gt (lower i hi))
  unfold State.chooseArm
  rw [hb]
  split
  · rename_i started _
    cases started
  · exact first

/-- The one batch of the queue is given its arm and its LOW CLAIM (R64, R65, R82). -/
theorem State.ScanGives.scan {k : CompId} {b : Batch} {a : ArmId} (g : s.ScanGives k b a) (opened : s.linkOpen = true) :
    ∃ l : Link, l.queue = s.link.queue ++ [s.claimFrame (s.lowClaim a)] ∧ s.scan =
      { (s.modArm a fun m => { m with reserved := some k }).claiming a .low with link := l } := by
  obtain ⟨queued, batch, started⟩ := g.queued
  have header : (s.armCfg a).header = s.gradeHeader b.grade := g.passes.header
  have station : s.station = .running := by
    have may := g.may
    unfold State.mayClaim at may
    simp only [Bool.and_eq_true, beq_iff_eq] at may
    exact may.1.1
  have unreserved : s.reservedArm k = none := List.find?_eq_none.mpr fun i _ => by simpa using g.unreserved i
  have eligible : s.eligible k b = true := by
    unfold State.eligible
    rw [unreserved, ← header]
    obtain ⟨free, clear⟩ := g.slot
    have free : (s.header (s.armCfg a).header).slot = none := free
    have clear : (s.header (s.armCfg a).header).retryWait = false := clear
    rw [free, clear]
    rfl
  have one : s.scanOne k =
      ((s.modArm a fun m => { m with reserved := some k }).takeSlot a .low).passArms (s.armCfg a).header := by
    have batch : s.batch k = some b := batch
    unfold State.scanOne
    rw [batch]
    dsimp only
    rw [if_pos eligible, State.chooseArm_lowest started g.passes g.lowest, header]
  have clear : s.station ≠ .clash := by
    rw [station]
    nofun
  obtain ⟨l, queue, taken⟩ := State.takeSlot_fits (s := s.modArm a fun m => { m with reserved := some k }) (kind := .low)
    ⟨opened, clear, g.room⟩ g.fits
  refine ⟨l, queue, ?_⟩
  have slot := State.claiming_slot (s.modArm a fun m => { m with reserved := some k }) a .low
  unfold State.scan
  rw [if_pos g.may, queued, List.foldl_cons, List.foldl_nil, one, taken]
  generalize (s.modArm a fun m => { m with reserved := some k }).claiming a .low = x at slot
  refine foldl_fixed_of_mem fun i _ => State.offerSlot_skips (.inl ?_)
  show (x.header (s.armCfg a).header).slot ≠ none
  have slot : (x.header (s.armCfg a).header).slot = some _ := slot
  rw [slot]
  exact Option.some_ne_none _

/-! ## STATE, by what it does to the stop set -/

/-- The last member of the stop set gone, TERMINAL_STOP held again. -/
def State.terminalOver (s : State) : State := s.modMonitor fun m => { m with terminal := false }

section
variable (h : s.Takes frame p (.state cls stop isOpen starting shares permit))
  (other : isOpen = false ∨ permit ≠ s.sessionPermit)
include h other

theorem exec_stateReceived_unmoved
    (set : (s.stateHeard frame p cls stop isOpen shares permit).stopSetNonempty = s.monitor.terminal) :
    exec (.stateReceived frame) s = .next ((s.stateHeard frame p cls stop isOpen shares permit).retry (s.falls p shares)) := by
  rw [exec_stateReceived_unoffered h other, State.followStopSet_same set]

/-- The first member's STATE: TERMINAL_STOP withdrawn, and the falls find no claim to give. -/
theorem exec_stateReceived_raised (set : (s.stateHeard frame p cls stop isOpen shares permit).stopSetNonempty = true)
    (ht : s.monitor.terminal = false) : ∃ u, exec (.stateReceived frame) s = .next u ∧
      (s.stateHeard frame p cls stop isOpen shares permit).TerminalStopped u := by
  have released : s.restart = false := (s.linkOpen_iff.mp h.opened).2
  rw [exec_stateReceived_unoffered h other, State.followStopSet_raised set ht]
  exact ⟨_, rfl, (State.recorded_terminalStopped set released).shares (State.retry_moves _ _)⟩

/-- The last member's STATE: TERMINAL_STOP restored, then the falls. -/
theorem exec_stateReceived_over (set : (s.stateHeard frame p cls stop isOpen shares permit).stopSetNonempty = false)
    (ht : s.monitor.terminal = true) : exec (.stateReceived frame) s = .next
      (((s.stateHeard frame p cls stop isOpen shares permit).terminalOver.restoreIf true).retry (s.falls p shares)) := by
  have ended : (s.stateHeard frame p cls stop isOpen shares permit).recorded =
      (s.stateHeard frame p cls stop isOpen shares permit).terminalOver := by
    unfold State.recorded State.terminalOver
    rw [set]
  rw [exec_stateReceived_unoffered h other, State.followStopSet_ended set ht, ended]

section
variable (set : (s.stateHeard frame p cls stop isOpen shares permit).stopSetNonempty = false) (ht : s.monitor.terminal = true)
  {v : State} (hv : v = (s.stateHeard frame p cls stop isOpen shares permit).terminalOver)
include set ht hv

theorem exec_stateReceived_over_load : ∃ u, exec (.stateReceived frame) s = .next u ∧ v.SameLoad u ∧
    u.monitor = v.monitor ∧ (v.startQueue = [] → v.Retried u (s.falls p shares)) := by
  have same := (v.restoreIf_sameButFlow true).trans (State.retry_moves _ (s.falls p shares)).sameButFlow
  rw [exec_stateReceived_over h other set ht, ← hv]
  refine ⟨_, rfl, same.sameLoad, same.monitor, fun queue => ?_⟩
  rw [State.restoreIf_empty queue]
  exact State.retry_retried queue _

theorem exec_stateReceived_over_quiet (none : ∀ k, s.falls p shares k = false)
    (held : v.monitor.withdrawn = true ∨ v.startQueue = []) : exec (.stateReceived frame) s = .next v := by
  rw [exec_stateReceived_over h other set ht, ← hv, State.retry_none none]
  rcases held with withdrawn | queue
  · rw [State.restoreIf_withdrawn withdrawn]
  · rw [State.restoreIf_empty queue]

theorem exec_stateReceived_over_scan {k : CompId} {b : Batch} {a : ArmId} (none : ∀ k, s.falls p shares k = false)
    (gives : v.ScanGives k b a) : exec (.stateReceived frame) s = .next v.scan := by
  have held : v.monitor.withdrawn = false := by
    have may := gives.may
    unfold State.mayClaim at may
    simp only [Bool.and_eq_true, Bool.not_eq_true'] at may
    exact may.2
  have scans : v.restoreIf true = v.scan := by
    unfold State.restoreIf
    rw [held]
    rfl
  rw [exec_stateReceived_over h other set ht, ← hv, State.retry_none none, scans]

end

end

/-! ## STATE, by the permit it offers (R39, R46) -/

/-- The session and its station are as they were when the permit is offered. -/
theorem exec_stateReceived_offered {n : Nat} (h : s.Takes frame p (.state cls stop true starting shares (some n))) :
    ∃ x : State, x.session = s.session ∧ x.cfg = s.cfg ∧
      exec (.stateReceived frame) s = .next (x.permitOffer p (some n)) := by
  have followed := (s.stateHeard frame p cls stop true shares (some n)).followStopSet_recorded
  rw [exec_stateReceived h]
  generalize (s.stateHeard frame p cls stop true shares (some n)).followStopSet = x at followed
  have moves := x.retry_moves (s.falls p shares)
  exact ⟨_, moves.session.trans followed.session, moves.cfg.trans followed.cfg, rfl⟩

theorem State.permitOffer_checking {n : Nat} (h : s.sessionPermit = some n) (hs : s.session.state = .checking) :
    s.permitOffer p (some n) = s.checkFail .inUse := by
  unfold State.permitOffer
  rw [if_pos (by simp [h]), hs]

theorem State.permitOffer_admitted {n : Nat} (h : s.sessionPermit = some n) (hs : s.session.state = .admitted) :
    s.permitOffer p (some n) = if p < s.cfg.station then s.enterEnding .duplicate else s := by
  unfold State.permitOffer
  rw [if_pos (by simp [h]), hs]

/-- Settles O12: by what the frame does to the stop set (`exec_stateReceived_unmoved`, `_raised`, `_over`), with the falls as
retry triggers (`retry_retried`), and by the permit it offers. -/
theorem stateFrame : Obligations.StateFrame := by
  refine ⟨fun s frame p cls stop isOpen starting shares permit h rises other => ?_,
    fun s frame p cls stop isOpen starting shares permit h other queue => ?_,
    fun s frame p cls stop isOpen starting shares permit h other => ⟨fun ht set => ?_, fun ht set => ?_⟩,
    fun s frame p cls stop starting shares permit h own => ?_⟩
  · intro x t set
    have none (k : HeaderId) : s.falls p shares k = false := decide_eq_false (Nat.not_lt.mpr (rises k))
    rw [exec_stateReceived_unmoved h other set, State.retry_none none]
    rfl
  · intro x t set
    have empty : (s.stateHeard frame p cls stop isOpen shares permit).startQueue = [] := queue
    rw [exec_stateReceived_unmoved h other set]
    exact ⟨_, rfl, (State.retry_moves _ _).sameButFlow.sameLoad, State.retry_retried empty _⟩
  · obtain ⟨u, runs, stopped⟩ := exec_stateReceived_raised h other set ht
    have load := stopped.same.sameLoad
    refine ⟨u, runs, ⟨load.cfg, load.session, load.batches, load.startQueue, load.notes, load.retention, load.clock,
      load.peers, load.revoked⟩, ?_, stopped.closes rfl rfl rfl⟩
    rw [stopped.same.monitor]
    show { s.monitor with terminal := (s.stateHeard frame p cls stop isOpen shares permit).stopSetNonempty } = _
    rw [show (s.stateHeard frame p cls stop isOpen shares permit).stopSetNonempty = true from set]
  · intro v
    have hv : v = (s.stateHeard frame p cls stop isOpen shares permit).terminalOver := rfl
    refine ⟨exec_stateReceived_over_load h other set ht hv, exec_stateReceived_over_quiet h other set ht hv,
      fun k b a none gives => ?_⟩
    obtain ⟨l, queue, scan⟩ := gives.scan h.opened
    exact ⟨l, queue, (exec_stateReceived_over_scan h other set ht hv none gives).trans (congrArg Host.Outcome.next scan)⟩
  · obtain ⟨x, session, cfg, runs⟩ := exec_stateReceived_offered h
    have offered : x.sessionPermit = some permit := by
      unfold State.sessionPermit
      rw [session]
      exact own
    refine ⟨_, runs, fun checking => ?_, fun admitted lower => ?_, fun admitted higher => ?_⟩
    · have state : x.session.state = .checking := session ▸ checking
      rw [State.permitOffer_checking offered state, State.checkFail_checking _ state]
      exact ⟨rfl, rfl, rfl⟩
    · have state : x.session.state = .admitted := session ▸ admitted
      rw [State.permitOffer_admitted offered state, cfg, if_pos lower]
      rcases State.enterEnding_session .duplicate state with ending | closed
      · rw [ending]
        exact ⟨.inl rfl, rfl⟩
      · rw [closed]
        exact ⟨.inr rfl, rfl⟩
    · have state : x.session.state = .admitted := session ▸ admitted
      rw [State.permitOffer_admitted offered state, cfg, if_neg (not_lt_of_gt higher), session]
      exact ⟨admitted, rfl⟩

end Sys2Proof.Machine
end

section
/-! The payloads this part composes and those it only receives, read back (O53). -/

namespace Sys2Proof.Machine

variable {on : HeaderId → Bool} {own : HeaderId → Nat}

/-! ## The fields of a STATE (R30, R188) -/

/-- The flags byte of a STATE. -/
theorem stateFlags (c : PriorityClass) (stop isOpen starting : Bool) :
    let flags := BitVec.ofNat 8 (c.val + 4 * stop.toNat + 8 * isOpen.toNat + 16 * starting.toNat)
    flags.getLsbD 3 = isOpen ∧ flags.getLsbD 2 = stop ∧ flags.getLsbD 4 = starting ∧ flags.toNat < 32 ∧
      flags.toNat % 4 = c.val := by
  revert c stop isOpen starting
  decide

/-- The mask byte of the headers `on`. -/
def headerMask (on : HeaderId → Bool) : Byte := BitVec.ofNat 8 ((allHeaders.filter on).foldl (fun m h => m + 2 ^ h.val) 0)

/-- Eight bits added up by their weights are the byte of those bits. -/
theorem ofNat_weights (b0 b1 b2 b3 b4 b5 b6 b7 : Bool) : BitVec.ofNat 8 (b0.toNat + 2 * b1.toNat + 4 * b2.toNat + 8 * b3.toNat +
    16 * b4.toNat + 32 * b5.toNat + 64 * b6.toNat + 128 * b7.toNat) = BitVec.ofBoolListLE [b0, b1, b2, b3, b4, b5, b6, b7] := by
  revert b0 b1 b2 b3 b4 b5 b6 b7
  decide

theorem headerMask_bit (on : HeaderId → Bool) (h : HeaderId) : (headerMask on).getLsbD h.val = on h := by
  have add (b : Bool) (m w : Nat) : (if b = true then m + w else m) = m + w * b.toNat := by
    cases b <;> simp
  have mask : headerMask on = BitVec.ofBoolListLE [on 0, on 1, on 2, on 3, on 4, on 5, on 6, on 7] := by
    rw [← ofNat_weights]
    unfold headerMask
    simp [List.foldl_filter, allHeaders, add]
  rw [mask, BitVec.getLsbD_ofBoolListLE]
  match h with
  | 0 | 1 | 2 | 3 | 4 | 5 | 6 | 7 => rfl

theorem allHeaders_val : allHeaders.map Fin.val = [0, 1, 2, 3, 4, 5, 6, 7] := rfl

theorem headerMask_count (on : HeaderId → Bool) : maskCount (headerMask on) = (allHeaders.filter on).length := by
  have same : (fun h : HeaderId => (headerMask on).getLsbD h.val) = on := funext (headerMask_bit on)
  unfold maskCount
  rw [← allHeaders_val, List.filter_map, List.length_map]
  exact congrArg (fun f => (allHeaders.filter f).length) same

theorem takeShares_present {mask b : Byte} {h : Nat} {hs : List Nat} {bs : List Byte} (hb : mask.getLsbD h = true) :
    takeShares mask (h :: hs) (b :: bs) = b.toNat :: takeShares mask hs bs := by
  simp [takeShares, hb]

theorem takeShares_absent {mask : Byte} {h : Nat} {hs : List Nat} {bs : List Byte} (hb : mask.getLsbD h = false) :
    takeShares mask (h :: hs) bs = 0 :: takeShares mask hs bs := by
  cases bs <;> simp [takeShares, hb]

/-- The share bytes of the headers `on` give each header its share, the others 0. -/
theorem takeShares_shares (share : HeaderId → Nat) (hs : ∀ h, share h < 256) (on : HeaderId → Bool) (l : List HeaderId) :
    takeShares (headerMask on) (l.map Fin.val) ((l.filter on).map fun h => BitVec.ofNat 8 (share h)) =
      l.map fun h => if on h then share h else 0 := by
  induction l with
  | nil => rfl
  | cons h l ih =>
    have bit := headerMask_bit on h
    rw [List.map_cons, List.map_cons]
    rcases Bool.eq_false_or_eq_true (on h) with ho | ho
    · rw [List.filter_cons_of_pos ho, List.map_cons, takeShares_present (bit.trans ho), byte_toNat (hs h), ih, if_pos ho]
    · rw [List.filter_cons_of_neg (Bool.eq_false_iff.mp ho), takeShares_absent (bit.trans ho), ih, ho, if_neg Bool.false_ne_true]

/-- A STATE payload of given figures is read back with them. -/
theorem parseState_composed (c : PriorityClass) (stop isOpen starting : Bool) (id : Nat) (small : ∀ h, own h ≤ 250)
    (hid : isOpen = true → 1 ≤ id ∧ id < 2 ^ 32) :
    parseState (beBytes 1 (c.val + 4 * stop.toNat + 8 * isOpen.toNat + 16 * starting.toNat) ++
        [headerMask fun h => decide (0 < own h)] ++ (if isOpen then beBytes 4 id else []) ++
        ((allHeaders.filter fun h => decide (0 < own h)).map fun h => BitVec.ofNat 8 (own h))) =
      some (.state c stop isOpen starting (vec8 own) (if isOpen then some id else none)) := by
  obtain ⟨opened, stopped, started, flags, cls⟩ := stateFlags c stop isOpen starting
  have count := headerMask_count fun h => decide (0 < own h)
  have byte (h : HeaderId) : own h < 256 := Nat.lt_of_le_of_lt (small h) (by decide)
  have shares := takeShares_shares own byte (fun h => decide (0 < own h)) allHeaders
  have figures : (allHeaders.map fun h => if decide (0 < own h) = true then own h else 0) = allHeaders.map own := by
    refine List.map_congr_left fun h _ => ?_
    simp only [decide_eq_true_eq]
    split <;> omega
  rw [allHeaders_val, figures] at shares
  obtain ⟨mask, mask_def⟩ : ∃ m, m = headerMask fun h => decide (0 < own h) := ⟨_, rfl⟩
  obtain ⟨bytes, bytes_def⟩ : ∃ b, b = (allHeaders.filter fun h => decide (0 < own h)).map fun h => BitVec.ofNat 8 (own h) :=
    ⟨_, rfl⟩
  have length : bytes.length = maskCount mask := by rw [bytes_def, mask_def, count, List.length_map]
  rw [← mask_def, ← bytes_def] at shares ⊢
  have all : (allHeaders.map own).all (fun n => decide (n ≤ 250)) = true := by
    simp [small]
  have each : (vec8 fun h => (allHeaders.map own).getD h.val 0) = vec8 own := vec8_congr fun h => by
    match h with
    | 0 | 1 | 2 | 3 | 4 | 5 | 6 | 7 => rfl
  rw [beBytes_one]
  show parseState (_ :: mask :: ((if isOpen = true then beBytes 4 id else []) ++ bytes)) = _
  unfold parseState
  dsimp only
  rw [opened, stopped, started]
  cases isOpen with
  | false =>
    simp only [Bool.false_eq_true, if_false, List.nil_append, List.drop_zero, shares, all, each]
    rw [if_pos ⟨by rw [length]; omega, flags, nofun, trivial⟩]
    refine congrArg some ?_
    congr 1
    exact Fin.ext cls
  | true =>
    obtain ⟨low, high⟩ := hid rfl
    have four : (beBytes 4 id).length = 4 := beBytes_length 4 id
    have value : beValue (beBytes 4 id) = id := beValue_beBytes 4 id high
    simp only [if_true, List.take_left' four, List.drop_left' four, value, shares, all, each, List.length_append, four]
    rw [if_pos ⟨by rw [length], flags, fun _ => Nat.ne_of_gt low, trivial⟩]
    refine congrArg some ?_
    congr 1
    exact Fin.ext cls

/-- The STATE of this moment. -/
theorem parsePayload_statePayload (s : State) (small : ∀ h, (s.header h).ownShare ≤ 250)
    (ids : ∀ p, s.session.permit = some p → 1 ≤ p.id ∧ p.id < 2 ^ 32)
    (held : s.sessionOpen = true → s.session.permit ≠ none) :
    parsePayload 1 s.statePayload = some (.state s.sessionClass s.ownStop s.sessionOpen (decide (s.station = .starting))
      (vec8 fun h => (s.header h).ownShare) (if s.sessionOpen then s.sessionPermit else none)) := by
  have starting : (s.station == .starting) = decide (s.station = .starting) := by
    cases s.station <;> rfl
  have id : s.sessionOpen = true → s.sessionPermit = some (s.sessionPermit.getD 0) ∧
      1 ≤ s.sessionPermit.getD 0 ∧ s.sessionPermit.getD 0 < 2 ^ 32 := fun opened => by
    obtain ⟨p, hp⟩ := Option.ne_none_iff_exists'.mp (held opened)
    have permit : s.sessionPermit = some p.id := congrArg (Option.map Permit.id) hp
    rw [permit]
    exact ⟨rfl, ids p hp⟩
  have offered : (if s.sessionOpen then s.sessionPermit else none) =
      if s.sessionOpen then some (s.sessionPermit.getD 0) else none := by
    split
    · exact (id ‹_›).1
    · rfl
  have composed := parseState_composed s.sessionClass s.ownStop s.sessionOpen (decide (s.station = .starting))
    (s.sessionPermit.getD 0) small fun opened => (id opened).2
  rw [offered, ← composed, ← starting]
  show parseState s.statePayload = _
  unfold State.statePayload
  dsimp only
  rw [beBytes_one (List.foldl _ _ _)]
  rfl

/-! ## The other payloads (R188) -/

theorem asFin_val {m : Nat} (x : Fin m) : asFin m x.val = some x := asFin_eq_some.mpr rfl

/-- CLAIM and YIELD. -/
theorem parseShareFrame_composed (make : HeaderId → Nat → PriorityClass → Frame) (h : HeaderId) (cls : PriorityClass)
    {n : Nat} (low : 1 ≤ n) (high : n ≤ 250) :
    parseShareFrame make (beBytes 1 h.val ++ beBytes 1 (n - 1) ++ beBytes 1 cls.val) = some (make h n cls) := by
  have header : (BitVec.ofNat 8 h.val).toNat = h.val := byte_toNat (by omega)
  have units : (BitVec.ofNat 8 (n - 1)).toNat = n - 1 := byte_toNat (by omega)
  have cl : (BitVec.ofNat 8 cls.val).toNat = cls.val := byte_toNat (by omega)
  rw [beBytes_one, beBytes_one, beBytes_one]
  show parseShareFrame make [_, _, _] = _
  unfold parseShareFrame
  dsimp only
  rw [units, header, cl, if_pos (by omega), asFin_val, asFin_val]
  show some (make h (n - 1 + 1) cls) = _
  rw [Nat.sub_add_cancel low]

/-- A figure at the head of a payload. -/
theorem fieldAt_first {w n : Nat} (rest : List Byte) (h : n < 256 ^ w) : fieldAt (beBytes w n ++ rest) 0 w = n := by
  unfold fieldAt
  rw [List.drop_zero, List.take_left' (beBytes_length w n)]
  exact beValue_beBytes w n h

/-- A figure that follows another and ends the payload. -/
theorem fieldAt_second {v w m n : Nat} (h : n < 256 ^ w) : fieldAt (beBytes v m ++ beBytes w n) v w = n := by
  unfold fieldAt
  rw [List.drop_left' (beBytes_length v m), List.take_of_length_le (Nat.le_of_eq (beBytes_length w n))]
  exact beValue_beBytes w n h

theorem length_beBytes_append (v w m n : Nat) : (beBytes v m ++ beBytes w n).length = v + w := by
  rw [List.length_append, beBytes_length, beBytes_length]

section
variable (bs : List Byte)

theorem parsePayload_permitClaim :
    parsePayload 4 bs = if bs.length = 4 ∧ beValue bs ≠ 0 then some (.permitClaim (beValue bs)) else none := rfl

theorem parsePayload_revoke : parsePayload 5 bs =
    if bs.length = 6 ∧ fieldAt bs 0 4 ≠ 0 then some (.revoke (fieldAt bs 0 4) (fieldAt bs 4 2)) else none := rfl

theorem parsePayload_time : parsePayload 6 bs =
    if bs.length = 5 ∧ fieldAt bs 2 3 ≤ 86399 then some (.time (fieldAt bs 0 2) (fieldAt bs 2 3)) else none := rfl

theorem parsePayload_noteRequest :
    parsePayload 9 bs = if bs.length = 1 then (asFin 32 (fieldAt bs 0 1)).map .noteRequest else none := rfl

theorem parsePayload_noteTaken : parsePayload 10 bs =
    if bs.length = 4 ∧ 1 ≤ fieldAt bs 1 3 ∧ fieldAt bs 1 3 ≤ 999999 then
      (asFin 32 (fieldAt bs 0 1)).map (.noteTaken · (fieldAt bs 1 3))
    else none := rfl

end

/-- Settles O53: each payload's fields, read one by one. -/
theorem ownPayloads : Obligations.OwnPayloads := by
  refine ⟨parsePayload_statePayload, fun h n cls low high => ⟨parseShareFrame_composed .claim h cls low high,
    parseShareFrame_composed .yield h cls low high⟩, fun id low high => ?_, rfl, fun id endDay low high day => ?_,
    fun day second hd hs => ?_, fun target => ?_, fun target n low high => ?_⟩
  · have value : beValue (beBytes 4 id) = id := beValue_beBytes 4 id high
    rw [parsePayload_permitClaim, value, if_pos ⟨beBytes_length 4 id, Nat.ne_of_gt low⟩]
  · have first : fieldAt (beBytes 4 id ++ beBytes 2 endDay) 0 4 = id := fieldAt_first _ high
    have second : fieldAt (beBytes 4 id ++ beBytes 2 endDay) 4 2 = endDay := fieldAt_second day
    rw [parsePayload_revoke, first, second, if_pos ⟨length_beBytes_append 4 2 id endDay, Nat.ne_of_gt low⟩]
  · have first : fieldAt (beBytes 2 day ++ beBytes 3 second) 0 2 = day := fieldAt_first _ hd
    have last : fieldAt (beBytes 2 day ++ beBytes 3 second) 2 3 = second := fieldAt_second (by omega)
    rw [parsePayload_time, first, last, if_pos ⟨length_beBytes_append 2 3 day second, hs⟩]
  · have first : fieldAt (beBytes 1 target.val) 0 1 = target.val := by
      rw [fieldAt_whole (beBytes_length 1 _)]
      exact beValue_beBytes 1 _ (by omega)
    rw [parsePayload_noteRequest, first, if_pos (beBytes_length 1 _), asFin_val]
    rfl
  · have first : fieldAt (beBytes 1 target.val ++ beBytes 3 n) 0 1 = target.val := fieldAt_first _ (by omega)
    have second : fieldAt (beBytes 1 target.val ++ beBytes 3 n) 1 3 = n := fieldAt_second (by omega)
    rw [parsePayload_noteTaken, first, second, if_pos ⟨length_beBytes_append 1 3 target.val n, low, high⟩, asFin_val]
    rfl

end Sys2Proof.Machine
end

section
/-! The law of the admitted session (O56), kept by every step: by every kind of change, and by the cold start and the two edges of
the RESTART line. -/

namespace Sys2Proof.Machine

variable {s t : State}

/-! ## What the law speaks of -/

theorem Session.Keeps.trans {x y z : Session} (h : x.Keeps y) (k : y.Keeps z) : x.Keeps z := fun hz =>
  have ⟨open_, permit⟩ := k hz
  ⟨(h open_).1, permit.trans (h open_).2⟩

/-- A session whose state and permit are another's. -/
theorem Session.Keeps.of_eq {x y : Session} (state : y.state = x.state) (permit : y.permit = x.permit) : x.Keeps y :=
  fun hy => ⟨state ▸ hy, permit⟩

/-- No check is begun and no session admitted, the day stays once it is known, and no permit is revoked. -/
theorem AdmissionLaw.keeps (h : AdmissionLaw s) (session : s.session.Keeps t.session)
    (clock : s.clock.dateKnown = true → t.clock.dateKnown = true ∧ t.clock.day = s.clock.day := by exact fun known => ⟨known, rfl⟩)
    (revoked : ∀ r ∈ t.revoked, r ∈ s.revoked := by exact fun _ => id) : AdmissionLaw t := by
  intro ht
  obtain ⟨taken, permit⟩ := session ht
  obtain ⟨known, p, hp, day, free⟩ := h taken
  obtain ⟨known', day'⟩ := clock known
  exact ⟨known', p, permit.trans hp, day' ▸ day, fun r hr => free r (revoked r hr)⟩

theorem State.AtRest.admissionLaw (h : t.AtRest) : AdmissionLaw t := fun ht => (ht.elim h.1 h.2).elim

/-! ## Admission and its ends -/

/-- The checks of R37 are passed by a permit that is neither expired nor revoked, the date being known. -/
theorem State.admission_valid {card : List Byte} {p : Permit} {g : Tag} (h : s.admission card = .ok (p, g)) :
    s.clock.dateKnown = true ∧ s.clock.day ≤ p.expiry ∧ ∀ r ∈ s.revoked, r.permit ≠ p.id := by
  unfold State.admission at h
  split at h
  · cases h
  · rename_i q _
    split_ifs at h with clash starting busy noDate expired revoked store full ground inUse
    all_goals split at h
    all_goals cases h
    exact ⟨by simpa using noDate, Nat.le_of_not_lt expired, fun r hr same =>
      revoked (List.any_eq_true.mpr ⟨r, hr, by simpa using same⟩)⟩

/-- A known day ends the check or the session of a permit that is past its expiry day (R45). -/
theorem AdmissionLaw.dayChange {c : Clock} (h : AdmissionLaw s) (known : c.dateKnown = true) :
    AdmissionLaw (State.dayChange { s with clock := c }) := by
  by_cases valid : ∀ x, s.session.permit = some x → c.day ≤ x.expiry
  · rw [State.dayChange_valid valid]
    intro ht
    obtain ⟨-, p, hp, -, free⟩ := h ht
    exact ⟨known, p, hp, valid p hp, fun r hr => free r (List.mem_of_mem_filter hr)⟩
  · push Not at valid
    obtain ⟨x, hx, passed⟩ := valid
    rw [State.dayChange_expired (s := { s with clock := c }) hx passed]
    exact (State.dayEnd_atRest _ _ _).admissionLaw

theorem mem_removeFirstEnding {d : Nat} {l : List Revocation} {r : Revocation} (h : r ∈ removeFirstEnding d l) : r ∈ l := by
  induction l with
  | nil => cases h
  | cons x l ih =>
    unfold removeFirstEnding at h
    split at h
    · exact .tail _ h
    · exact (List.mem_cons.mp h).elim (· ▸ .head _) fun more => .tail _ (ih more)

/-- Every entry of the list after a REVOKE is of the permit revoked or of one revoked before (R43, R44). -/
theorem permit_of_mem_revokeList {permit endDay : Nat} {l : List Revocation} {r : Revocation}
    (h : r ∈ revokeList permit endDay l) : r.permit = permit ∨ ∃ q ∈ l, q.permit = r.permit := by
  have added (h : r ∈ l ++ [⟨permit, endDay⟩]) : r.permit = permit ∨ ∃ q ∈ l, q.permit = r.permit := by
    rcases List.mem_append.mp h with held | new
    · exact .inr ⟨r, held, rfl⟩
    · rw [List.mem_singleton.mp new]
      exact .inl rfl
  unfold revokeList at h
  split at h
  · obtain ⟨q, hq, e⟩ := List.mem_map.mp h
    refine .inr ⟨q, hq, ?_⟩
    rw [← e]
    split <;> rfl
  · dsimp only at h
    split at h
    · exact added h
    · exact added (mem_removeFirstEnding h)

/-- A REVOKE of the session's own permit ends its check or the session (R40, R47). -/
theorem AdmissionLaw.deliverRevoke (permit endDay : Nat) (h : AdmissionLaw s) : AdmissionLaw (s.deliverRevoke permit endDay) := by
  unfold State.deliverRevoke
  dsimp only
  split
  · exact (State.dayEnd_atRest _ _ _).admissionLaw
  · rename_i other
    intro ht
    obtain ⟨known, p, hp, day, free⟩ := h ht
    refine ⟨known, p, hp, day, fun r hr same => ?_⟩
    rcases permit_of_mem_revokeList hr with own | ⟨q, hq, e⟩
    · exact other (show s.session.permit.map Permit.id = _ by rw [hp, ← own, same]; rfl)
    · exact free q hq (e.trans same)

/-! ## Every kind of change -/

theorem AdmissionLaw.flow (h : AdmissionLaw s) (same : s.SameButFlow t) : AdmissionLaw t := by
  have clock : t.clock = s.clock := same.field State.clock
  have revoked : t.revoked = s.revoked := same.field State.revoked
  exact h.keeps (.of_eq (by rw [same.session]) (by rw [same.session])) (fun known => by rw [clock]; exact ⟨known, rfl⟩)
    (by rw [revoked]; exact fun _ => id)

theorem AdmissionLaw.prim (l : Touch) (s t : State) (p : Prim l s t) (h : AdmissionLaw s) : AdmissionLaw t := by
  cases p with
  | shares moves => exact h.flow moves.sameButFlow
  | session x s kept => exact h.keeps kept
  | check x card p g s passes state permit =>
    obtain ⟨known, day, free⟩ := State.admission_valid passes
    exact fun _ => ⟨known, p, permit, day, free⟩
  | clock c s stays => exact h.keeps (.of_eq rfl rfl) stays
  | newDay c s known => exact h.dayChange known
  | revoke permit endDay s => exact h.deliverRevoke permit endDay
  | alarm m r s _ _ =>
    have told : AdmissionLaw { s with monitor := m } := h.keeps (.of_eq rfl rfl)
    exact told.flow (State.withdraw_sameButFlow r _)
  | stops v b l p s _ _ =>
    have told : AdmissionLaw (State.recorded { s with peers := v, ownStop := b, link := l, periodTimer := p }) :=
      h.keeps (.of_eq rfl rfl)
    exact told.flow (State.followStopSet_recorded _)
  | _ => exact h.keeps (.of_eq rfl rfl)

/-! ## The three commands on the whole part -/

theorem Session.keeps_failed (r : Reason) {x : Session} : x.Keeps (x.failed r) := by
  unfold Session.failed
  split
  · exact fun h => h.elim nofun nofun
  · exact .of_eq rfl rfl

theorem State.releaseTimers_session (s : State) : s.session.Keeps s.releaseTimers.session := by
  unfold State.releaseTimers
  split
  · exact .of_eq rfl rfl
  · exact .of_eq rfl rfl

theorem State.endingAtRelease_session (s : State) : s.session.Keeps s.endingAtRelease.session := by
  have done : s.endingAtRelease.session = (s.modLink Link.holdFront).completeEnding.session := rfl
  rw [done]
  rcases (s.modLink Link.holdFront).completeEnding_session with same | closed
  · rw [same]
    exact .of_eq rfl rfl
  · rw [closed]
    exact fun h => h.elim nofun nofun

/-- The warm restart begins no check and admits no session. -/
theorem State.releaseRestart_session (hr : s.restart = true) : s.session.Keeps s.releaseRestart.session := by
  obtain ⟨frame, -⟩ := State.releaseArms_sliced hr
  rw [State.releaseRestart_eq]
  generalize s.eachArm State.releaseArm = x at frame ⊢
  have listens := x.restarted.rest
  generalize x.handTotals.releaseBatches.unblocked.beginListen = u at listens ⊢
  have same : u.session.outline = s.session.outline := (congrArg (Session.outline ∘ State.session) listens).trans frame.session
  have outlined : s.session.Keeps u.session :=
    .of_eq ((congrArg Session.state same).trans rfl :) ((congrArg Session.permit same).trans rfl :)
  exact (outlined.trans u.endingAtRelease_session).trans (State.releaseTimers_session _)

theorem AdmissionLaw.restartReleased (h : AdmissionLaw s) (ht : exec .restartReleased s = .next t) : AdmissionLaw t := by
  have e : t = if s.restart = false then s
      else if s.station = .configFault then { s with restart := false, socketRequests := s.socketRequests + 1 }
      else if s.stage5Waits then s.releaseStage5
      else s.releaseRestart := by
    cases ht
    rfl
  rw [e]
  split
  · exact h
  · rename_i asserted
    split
    · exact h.keeps (.of_eq rfl rfl)
    · split
      · obtain ⟨r, e, -⟩ := s.releaseStage5_eq
        rw [e]
        exact h.keeps (.of_eq rfl rfl)
      · have hr : s.restart = true := by simpa using asserted
        have rest := (State.releaseRestart_released hr).rest
        have clock : s.releaseRestart.clock = s.clock := (congrArg State.clock rest).trans rfl
        have revoked : s.releaseRestart.revoked = s.revoked := (congrArg State.revoked rest).trans rfl
        exact h.keeps (State.releaseRestart_session hr) (fun known => by rw [clock]; exact ⟨known, rfl⟩)
          (by rw [revoked]; exact fun _ => id)

theorem AdmissionLaw.wholePart (c : Instr) (s t : State) (hc : wholePart c = true) (ht : exec c s = .next t)
    (h : AdmissionLaw s) : AdmissionLaw t := by
  cases c with
  | coldStart preload reads inputs =>
    cases ht
    have session := (State.coldStart_cold s preload reads inputs).session
    refine State.AtRest.admissionLaw ?_
    unfold State.AtRest
    rw [session]
    exact ⟨nofun, nofun⟩
  | restartAsserted =>
    rcases exec_restartAsserted_cases ht with rfl | ⟨-, -, rfl⟩ | ⟨-, -, rfl⟩
    · exact h
    · exact h.keeps (.of_eq rfl rfl)
    · rw [State.assertRestart_eq]
      exact h.keeps ((Session.keeps_failed .restart).trans (.of_eq rfl rfl))
  | restartReleased => exact h.restartReleased ht
  | _ => cases hc

/-- Settles O56: every kind of change keeps the law, a day change and a REVOKE by the check or the session that they end. -/
theorem admissionLawKept : Obligations.AdmissionLawKept := fun _ _ h ht =>
  step_keeps AdmissionLaw.prim AdmissionLaw.wholePart (fun _ _ _ h => h.keeps (.of_eq rfl rfl)) ht h

end Sys2Proof.Machine
end

section
/-! The revocation list and the REVOKE frame (R43, R44, R40, R47; O10). -/

namespace Sys2Proof.Machine

variable {s : State} {l : List Revocation} {permit endDay : Nat}

/-! ## The list (R43, R44) -/

theorem earliestDay_le {r : Revocation} (h : r ∈ l) : earliestDay l ≤ r.endDay := by
  have run (l : List Revocation) (d : Nat) : l.foldl (fun d r => min d r.endDay) d ≤ d ∧
      ∀ r ∈ l, l.foldl (fun d r => min d r.endDay) d ≤ r.endDay := by
    induction l generalizing d with
    | nil => exact ⟨Nat.le_refl d, nofun⟩
    | cons x l ih =>
      obtain ⟨below, all⟩ := ih (min d x.endDay)
      refine ⟨Nat.le_trans below (Nat.min_le_left _ _), fun r hr => ?_⟩
      rcases List.mem_cons.mp hr with rfl | later
      · exact Nat.le_trans below (Nat.min_le_right _ _)
      · exact all r later
  exact (run l _).2 r h

theorem exists_earliestDay (h : l ≠ []) : ∃ r ∈ l, r.endDay = earliestDay l := by
  have run (l : List Revocation) (d : Nat) : l.foldl (fun d r => min d r.endDay) d = d ∨
      ∃ r ∈ l, r.endDay = l.foldl (fun d r => min d r.endDay) d := by
    induction l generalizing d with
    | nil => exact .inl rfl
    | cons x l ih =>
      rcases ih (min d x.endDay) with same | ⟨r, hr, e⟩
      · rcases Nat.le_total d x.endDay with le | le
        · exact .inl (same.trans (Nat.min_eq_left le))
        · exact .inr ⟨x, .head _, (same.trans (Nat.min_eq_right le)).symm⟩
      · exact .inr ⟨r, .tail _ hr, e⟩
  obtain ⟨x, rest, rfl⟩ := List.exists_cons_of_ne_nil h
  rcases run (x :: rest) x.endDay with same | held
  · exact ⟨x, .head _, same.symm⟩
  · exact held

/-- What goes is the first entry that ends on the day. -/
theorem removeFirstEnding_split {d : Nat} (h : ∃ r ∈ l, r.endDay = d) : ∃ before r after, l = before ++ r :: after ∧
    r.endDay = d ∧ (∀ q ∈ before, q.endDay ≠ d) ∧ removeFirstEnding d l = before ++ after := by
  induction l with
  | nil => exact absurd h (by simp)
  | cons x l ih =>
    by_cases hx : x.endDay = d
    · exact ⟨[], x, l, rfl, hx, nofun, if_pos hx⟩
    · obtain ⟨r, hr, e⟩ := h
      have later : r ∈ l := (List.mem_cons.mp hr).resolve_left fun same => hx (same ▸ e)
      obtain ⟨before, r', after, split, ends, none, gone⟩ := ih ⟨r, later, e⟩
      refine ⟨x :: before, r', after, by rw [split]; rfl, ends, fun q hq => ?_, ?_⟩
      · rcases List.mem_cons.mp hq with rfl | hq
        · exact hx
        · exact none q hq
      · exact (if_neg hx).trans (congrArg (x :: ·) gone)

theorem any_permit_iff : l.any (·.permit == permit) = true ↔ ∃ r ∈ l, r.permit = permit := by simp

theorem revokeList_revokedBy (l : List Revocation) (permit endDay : Nat) :
    RevokedBy l (revokeList permit endDay l) permit endDay where
  held h := if_pos (any_permit_iff.mpr h)
  added none room := by
    have free : ¬ l.any (·.permit == permit) = true := fun h =>
      have ⟨r, hr, e⟩ := any_permit_iff.mp h
      none r hr e
    exact (if_neg free).trans (if_pos room)
  full none full := by
    have free : ¬ l.any (·.permit == permit) = true := fun h =>
      have ⟨r, hr, e⟩ := any_permit_iff.mp h
      none r hr e
    obtain ⟨before, r, after, split, ends, other, gone⟩ :=
      removeFirstEnding_split (exists_earliestDay (l := l ++ [⟨permit, endDay⟩]) (by simp))
    have least (q : Revocation) (hq : q ∈ before ++ r :: after) : r.endDay ≤ q.endDay := by
      rw [ends]
      exact earliestDay_le (split ▸ hq)
    refine ⟨before, r, after, split, fun q hq => ?_, fun q hq => least q (by simp [hq]), ?_⟩
    · have le := least q (List.mem_append_left _ hq)
      have ne := other q hq
      omega
    · exact ((if_neg free).trans (if_neg (Nat.not_lt.mpr full))).trans gone

/-- With room in the list the permit's entry is in it, ending on the day of the REVOKE or later. -/
theorem RevokedBy.entry {new : List Revocation} (h : RevokedBy l new permit endDay) (room : l.length < 64) :
    ∃ r ∈ new, r.permit = permit ∧ endDay ≤ r.endDay := by
  by_cases held : ∃ r ∈ l, r.permit = permit
  · obtain ⟨r, hr, e⟩ := held
    rw [h.held ⟨r, hr, e⟩]
    refine ⟨_, List.mem_map_of_mem hr, ?_⟩
    rw [if_pos e]
    exact ⟨e, Nat.le_max_right _ _⟩
  · rw [h.added (fun r hr e => held ⟨r, hr, e⟩) room]
    exact ⟨_, List.mem_append_right _ (.head _), rfl, Nat.le_refl _⟩

/-! ## The session (R40, R47) -/

/-- The end of an ADMITTED session leaves no arm flowing (R51, R131). -/
theorem State.enterEnding_noFlow (r : Reason) (ha : s.session.state = .admitted) (hr : s.restart = false) :
    (s.enterEnding r).noFlow := by
  have low (x : State) : Moves enterTouch x (allHeaders.foldl State.abandonLow x) :=
    .foldl _ (fun s h => (s.abandonLow_touch h).mono) _ x
  have free (x : State) : Moves enterTouch x (x.eachArm fun a s => s.modArm a fun m => { m with reserved := none }) :=
    .eachArm _ (fun a s => .modArm a s) x
  intro b
  unfold State.enterEnding
  rw [if_pos ha]
  refine Moves.noFlow b (State.completeEnding_touch _).mono ?_
  refine State.eachArm_closeDemand_noFlow _ _ _ _ ?_ b
  rw [(free _).beside.restart, (low _).beside.restart]
  exact hr

/-- Settles O10: the list by its entries, the session by the end of its check or its own end. -/
theorem revoke : Obligations.Revoke := by
  have taken {s : State} {frame : List Byte} {p : StationId} {permit endDay : Nat}
      (h : s.Takes frame p (.revoke permit endDay)) :
      exec (.revokeReceived frame) s = .next ((s.heardFrom frame p).deliverRevoke permit endDay) :=
    congrArg Host.Outcome.next (State.receive_takes h _)
  refine ⟨fun s frame p permit endDay h other => ?_, fun s frame p permit endDay h own => ?_⟩
  · have listed : (s.heardFrom frame p).deliverRevoke permit endDay =
        { s.heardFrom frame p with revoked := revokeList permit endDay s.revoked } := if_neg other
    rw [taken h, listed]
    exact ⟨_, rfl, rfl, revokeList_revokedBy _ _ _⟩
  · obtain ⟨x, hx⟩ : ∃ x, x = { s.heardFrom frame p with revoked := revokeList permit endDay s.revoked } := ⟨_, rfl⟩
    have session : x.session = s.session := by rw [hx]; rfl
    have ended : (s.heardFrom frame p).deliverRevoke permit endDay = (x.checkFail .revoked).enterEnding .revoked := by
      rw [hx]
      exact if_pos own
    have listed : ((x.checkFail .revoked).enterEnding .revoked).revoked = revokeList permit endDay s.revoked := by
      rw [(State.dayEnd_touch x _ _).beside.revoked, hx]
    have revokedBy := revokeList_revokedBy s.revoked permit endDay
    rw [taken h, ended]
    refine ⟨_, rfl, ?_, fun room => ?_, fun checking => ?_, fun admitted => ?_⟩
    · rw [listed]
      exact revokedBy
    · rw [listed]
      exact revokedBy.entry room
    · rw [← session] at checking
      rw [State.checkFail_checking _ checking, State.enterEnding_other _ (by simp)]
      exact ⟨rfl, rfl, rfl⟩
    · rw [← session] at admitted
      have restart : x.restart = false := by
        rw [hx]
        exact (s.linkOpen_iff.mp h.opened).2
      rw [State.checkFail_other _ (by rw [admitted]; nofun)]
      refine ⟨?_, ?_, State.enterEnding_noFlow _ admitted restart⟩
      all_goals rcases State.enterEnding_session .revoked admitted with e | e <;> rw [e]
      · exact .inl rfl
      · exact .inr rfl
      · rfl
      · rfl

end Sys2Proof.Machine
end

section
/-! The tanker tag read (R35, R189) and seen by the session (R40, R48; O22). -/

namespace Sys2Proof.Machine

variable {s : State} {tag : List Byte} {g own : Tag}

/-! ## The tag record (R189) -/

theorem takeFills_eq (n : Nat) (bs : List Byte) : takeFills n bs = (List.range n).map fun i => fieldAt bs (3 * i) 3 := by
  induction n generalizing bs with
  | zero => rfl
  | succ n ih =>
    rw [List.range_succ_eq_map, List.map_cons, List.map_map]
    refine congrArg₂ List.cons rfl ((ih _).trans (List.map_congr_left fun i _ => ?_))
    rw [fieldAt_drop, Function.comp_apply, Nat.mul_succ, Nat.add_comm]

theorem fills_all_iff (fills : List Nat) :
    (fills.all fun f => 1 ≤ f && f ≤ 99999) = true ↔ ∀ f ∈ fills, 1 ≤ f ∧ f ≤ 99999 := by simp

theorem parseTag_iff : parseTag tag = some g ↔
    let n := fieldAt tag 4 1 + 1
    n ≤ 8 ∧ tag.length = 7 + 3 * n ∧ crc16 (tag.take (5 + 3 * n)) = fieldAt tag (5 + 3 * n) 2 ∧
      g.id = fieldAt tag 0 4 ∧ g.fills = ((List.range n).map fun i => fieldAt tag (5 + 3 * i) 3) ∧
      ∀ fill ∈ g.fills, 1 ≤ fill ∧ fill ≤ 99999 := by
  obtain ⟨id, fills⟩ := g
  have places (n : Nat) : takeFills n (tag.drop 5) = (List.range n).map fun i => fieldAt tag (5 + 3 * i) 3 := by
    rw [takeFills_eq]
    exact List.map_congr_left fun i _ => fieldAt_drop 5 _ _
  unfold parseTag
  dsimp only
  generalize fieldAt tag 4 1 + 1 = n
  rw [Option.ite_none_right_eq_some, Option.some.injEq, Tag.mk.injEq, checkAgrees_iff, fills_all_iff, places]
  constructor
  · rintro ⟨⟨count, length, ⟨-, crc⟩, ranges⟩, rfl, rfl⟩
    have rest : tag.length - 2 = 5 + 3 * n := by omega
    rw [rest] at crc
    exact ⟨count, by omega, crc, rfl, rfl, ranges⟩
  · rintro ⟨count, length, crc, rfl, rfl, ranges⟩
    have rest : tag.length - 2 = 5 + 3 * n := by omega
    exact ⟨⟨count, by omega, ⟨by omega, by rw [rest]; exact crc⟩, ranges⟩, rfl, rfl⟩

/-! ## The session's own tanker and another (R40, R48) -/

theorem exec_tagReport (h : parseTag tag = some g) :
    exec (.tagReport tag) s = .next (State.tagSeen g.id { s with socketView := some g }) := by
  show Host.Outcome.next (match parseTag tag with | none => s | some t => _) = _
  rw [h]

theorem exec_tagReport_unreadable (h : parseTag tag = none) : exec (.tagReport tag) s = .next s := by
  show Host.Outcome.next (match parseTag tag with | none => s | some t => _) = _
  rw [h]

theorem State.tagSeen_idle (id : Nat) (h : s.session.state = .none ∨ s.session.state = .ending) : s.tagSeen id = s := by
  unfold State.tagSeen
  rcases h with h | h <;> rw [h]

theorem State.tagSeen_checking (id : Nat) (ht : s.session.tag = some own) (h : s.session.state = .checking) :
    s.tagSeen id = if own.id = id then s else s.checkFail .noTanker := by
  unfold State.tagSeen
  rw [h, ht]
  simp

theorem State.tagSeen_admitted (id : Nat) (ht : s.session.tag = some own) (h : s.session.state = .admitted) :
    s.tagSeen id = if own.id = id then s.modSession fun x => { x with socketTimer := none }
      else s.enterEnding .tankerChanged := by
  unfold State.tagSeen
  rw [h, ht]
  simp

/-- Settles O22: the tag by its fields, the session by its state and its own tanker. -/
theorem tagReport : Obligations.TagReport := by
  refine ⟨fun tag g => parseTag_iff, fun s tag => ⟨exec_tagReport_unreadable, fun g hg => ?_⟩⟩
  rw [exec_tagReport hg]
  obtain ⟨x, hx⟩ : ∃ x : State, x = { s with socketView := some g } := ⟨_, rfl⟩
  have session : x.session = s.session := by rw [hx]
  rw [← hx, ← session]
  refine ⟨fun idle => ?_, fun own ht same admitted => ?_, fun own ht same checking => ?_, fun own ht other checking => ?_,
    fun own ht other admitted => ?_⟩
  · rw [State.tagSeen_idle _ idle]
  · rw [State.tagSeen_admitted _ ht admitted, if_pos same]
    subst hx
    rfl
  · rw [State.tagSeen_checking _ ht checking, if_pos same]
  · rw [State.tagSeen_checking _ ht checking, if_neg other, State.checkFail_checking _ checking]
    subst hx
    rfl
  · rw [State.tagSeen_admitted _ ht admitted, if_neg other]
    have view : (x.enterEnding .tankerChanged).socketView = some g := by
      rw [(State.enterEnding_touch _ x).framed.socket (by decide), hx]
    refine ⟨_, rfl, view, ?_⟩
    rcases State.enterEnding_session .tankerChanged admitted with e | e <;> rw [e]
    · exact ⟨rfl, .inl rfl, rfl⟩
    · exact ⟨rfl, .inr rfl, rfl⟩

end Sys2Proof.Machine
end

section
/-! The socket line's reports of ground, sensors and unplugging (R35, R48, R157, R158, R194; O23). -/

namespace Sys2Proof.Machine

variable {s t : State} {body : List Byte} {check : BitVec 16} {m : Monitor} {ground : Bool} {sensors : Vector Sensor 8}

/-! ## Ground and sensors set (R157, R158) -/

/-- The monitor with another ground proof and other sensors. -/
def Monitor.sensed (m : Monitor) (ground : Bool) (sensors : Vector Sensor 8) : Monitor :=
  { m with
    ground := ground
    sensors := sensors }

theorem State.withdrawIf_sameButFlow (r : Reason) (was now : Bool) (s : State) : s.SameButFlow (s.withdrawIf r was now) := by
  unfold State.withdrawIf
  split
  · exact s.withdraw_sameButFlow r
  · exact .refl s

theorem State.setSocket_eq (s : State) (ground : Bool) (sensors : Vector Sensor 8) : s.setSocket ground sensors =
    ((State.withdrawIf .ground s.monitor.groundOut (s.monitor.sensed ground sensors).groundOut
        { s with monitor := s.monitor.sensed ground sensors }).withdrawIf .overfill s.monitor.overfillOut
      (s.monitor.sensed ground sensors).overfillOut).restoreIf s.monitor.withdrawn := by
  obtain ⟨x, hx⟩ : ∃ x : State, x = { s with monitor := s.monitor.sensed ground sensors } := ⟨_, rfl⟩
  have monitor : x.monitor = s.monitor.sensed ground sensors := by rw [hx]
  have unfolded : s.setSocket ground sensors = ((x.withdrawIf .ground s.monitor.groundOut x.monitor.groundOut).withdrawIf
      .overfill s.monitor.overfillOut
      (x.withdrawIf .ground s.monitor.groundOut x.monitor.groundOut).monitor.overfillOut).restoreIf s.monitor.withdrawn := by
    rw [hx]
    rfl
  rw [unfolded, (State.withdrawIf_sameButFlow _ _ _ x).monitor, monitor, hx]

theorem State.withdrawIf_none {r : Reason} {was now : Bool} (h : now = true → was = true) : s.withdrawIf r was now = s := by
  refine if_neg ?_
  cases now
  · simp
  · simp [h rfl]

theorem State.setSocket_sameButFlow (s : State) (ground : Bool) (sensors : Vector Sensor 8) :
    State.SameButFlow { s with monitor := s.monitor.sensed ground sensors } (s.setSocket ground sensors) := by
  rw [State.setSocket_eq]
  exact ((State.withdrawIf_sameButFlow _ _ _ _).trans (State.withdrawIf_sameButFlow _ _ _ _)).trans (State.restoreIf_sameButFlow _ _)

/-- No permissive is withdrawn, and none restored with a batch queued. -/
theorem State.setSocket_quiet (hm : s.monitor.sensed ground sensors = m)
    (noGround : m.groundOut = true → s.monitor.groundOut = true)
    (noOverfill : m.overfillOut = true → s.monitor.overfillOut = true)
    (noScan : s.monitor.withdrawn = true → m.withdrawn = true ∨ s.startQueue = []) :
    s.setSocket ground sensors = { s with monitor := m } := by
  rw [State.setSocket_eq, hm, State.withdrawIf_none noGround, State.withdrawIf_none noOverfill]
  cases was : s.monitor.withdrawn
  · rfl
  · rcases noScan was with out | empty
    · exact State.restoreIf_withdrawn (s := { s with monitor := m }) out true
    · exact State.restoreIf_empty (s := { s with monitor := m }) empty true

/-! ## The first permissive withdrawn (R133, R158) -/

/-- The flow side as withdrawals of GROUND and OVERFILL leave it, `r` naming the closes. -/
structure State.SocketStops (s t : State) (r : Reason) : Prop where
  arms : ∀ b, (t.arm b).sansShares = ((s.arm b).fastClosed s.now (s.armCfg b) r).sansShares
  shots : ∀ i, (t.injector i).firing = false
  slots : t.slotsFree

theorem State.withdraw_socketStops (r : Reason) (hr : s.restart = false) (out : s.monitor.withdrawn = true) :
    s.SocketStops (s.withdraw r) r :=
  ⟨State.withdraw_arm hr r, fun i => State.withdraw_shots r i s, State.withdraw_slotsFree r (State.mayClaim_withdrawn out)⟩

/-- OVERFILL withdrawn after GROUND finds nothing to close. -/
theorem State.SocketStops.again {r : Reason} (h : s.SocketStops t r) (hc : cutsStepDown r = true) (r' : Reason)
    (hr : t.restart = false) (out : t.monitor.withdrawn = true) : s.SocketStops (t.withdraw r') r := by
  have second := State.withdraw_socketStops r' hr out
  refine ⟨fun b => ?_, second.shots, second.slots⟩
  rw [second.arms b, Arm.fastClosed_congr (h.arms b), Arm.fastClosed_twice hc]

/-- GROUND names the closes where both are withdrawn (log 32). -/
theorem State.setSocket_stops (hm : s.monitor.sensed ground sensors = m) (hr : s.restart = false)
    (held : s.monitor.withdrawn = false) (out : m.withdrawn = true) :
    s.SocketStops (s.setSocket ground sensors) (if m.ground then .overfill else .ground) := by
  obtain ⟨x, hx⟩ : ∃ x : State, x = { s with monitor := m } := ⟨_, rfl⟩
  have out_x : x.monitor.withdrawn = true := by rw [hx]; exact out
  have hr_x : x.restart = false := by rw [hx]; exact hr
  have of_x {t : State} {r : Reason} (h : x.SocketStops t r) : s.SocketStops t r := by
    subst hx
    exact ⟨h.arms, h.shots, h.slots⟩
  have none : s.monitor.groundOut = false ∧ s.monitor.overfillOut = false ∧ s.monitor.stopInForce = false ∧
      s.monitor.terminal = false ∧ s.monitor.deadmanOut = false := by
    simpa only [Monitor.withdrawn, Bool.or_eq_false_iff, and_assoc] using held
  obtain ⟨noGround, noOverfill, noStop, noTerminal, noDeadman⟩ := none
  rw [State.setSocket_eq, hm, ← hx, held, noGround, noOverfill]
  show s.SocketStops ((x.withdrawIf .ground false m.groundOut).withdrawIf .overfill false m.overfillOut) _
  cases proven : m.ground
  · have ground : m.groundOut = true := by simp [Monitor.groundOut, proven]
    rw [ground]
    have first := State.withdraw_socketStops .ground hr_x out_x
    cases m.overfillOut
    · exact of_x first
    · have same := x.withdraw_sameButFlow .ground
      exact of_x (first.again rfl .overfill (same.restart.trans hr_x) ((congrArg Monitor.withdrawn same.monitor).trans out_x))
  · have ground : m.groundOut = false := by simp [Monitor.groundOut, proven]
    have overfill : m.overfillOut = true := by
      subst hm
      rcases (Monitor.withdrawn_iff _).mp out with h | h | h | h | h
      · exact absurd (ground.symm.trans h) nofun
      · exact h
      · exact absurd (noStop.symm.trans h) nofun
      · exact absurd (noTerminal.symm.trans h) nofun
      · exact absurd (noDeadman.symm.trans h) nofun
    rw [ground, overfill]
    exact of_x (State.withdraw_socketStops .overfill hr_x out_x)

theorem State.SocketStops.closes {r : Reason} (h : s.SocketStops t r) (hc : cutsStepDown r = true) :
    s.FastStopped t r ∧ ∀ a, s.StepDownCut t a :=
  ⟨State.fastStopped_of h.arms h.shots h.slots, State.stepDownCut_of h.arms hc⟩

/-! ## The two reports -/

theorem exec_socketStateReport_ignored (h : s.station = .configFault ∨ body.length ≠ 9) :
    exec (.socketStateReport body check) s = .next s := congrArg Host.Outcome.next (if_pos h)

/-- A report of the right length sets the values it carries, or those of a check value that does not agree (R157). -/
theorem exec_socketStateReport (hs : s.station ≠ .configFault) (length : body.length = 9) :
    exec (.socketStateReport body check) s = .next (s.setSocket
      (if socketStateAgrees body check then decide (body[0]? = some 1) else false)
      (if socketStateAgrees body check then vec8 (fun k => sensorOf (body.getD (k.val + 1) 2))
        else Vector.replicate 8 .fault)) := by
  have first : (body.getD 0 0 == 1) = decide (body[0]? = some 1) := by
    cases body with
    | nil => cases length
    | cons b rest => simp [beq_eq_decide]
  show Host.Outcome.next (if s.station = .configFault ∨ body.length ≠ 9 then s
    else if socketStateAgrees body check then s.setSocket (body.getD 0 0 == 1) (bodySensors body)
    else s.setSocket false (Vector.replicate 8 .fault)) = _
  rw [if_neg (by simp [hs, length]), first]
  cases socketStateAgrees body check <;> rfl

/-- The session as it takes an unplug report: a check failed, the socket timer of an ADMITTED session started (R40, R48). -/
def Session.unplugged (now : Nat) (restart : Bool) (x : Session) : Session :=
  match x.state with
  | .checking => x.failed .noTanker
  | .admitted => { x with socketTimer := if x.socketTimer = none ∧ restart = false then some (now + 30000) else x.socketTimer }
  | _ => x

section
variable {x : Session} {now : Nat} {restart : Bool}

theorem Session.unplugged_checking (h : x.state = .checking) : x.unplugged now restart = x.failed .noTanker := by
  unfold Session.unplugged
  rw [h]

theorem Session.unplugged_admitted (h : x.state = .admitted) : x.unplugged now restart = { x with
    socketTimer := if x.socketTimer = none ∧ restart = false then some (now + 30000) else x.socketTimer } := by
  unfold Session.unplugged
  rw [h]

theorem Session.unplugged_other (hc : x.state ≠ .checking) (ha : x.state ≠ .admitted) : x.unplugged now restart = x := by
  unfold Session.unplugged
  split
  · exact absurd ‹_› hc
  · exact absurd ‹_› ha
  · rfl

end

theorem State.unplugged_eq (s : State) : s.unplugged = { s with session := s.session.unplugged s.now s.restart } := by
  unfold State.unplugged
  split
  case h_2 h =>
    rw [Session.unplugged_checking h]
    exact s.checkFail_eq .noTanker
  case h_3 h =>
    rw [Session.unplugged_admitted h]
    split <;> rfl
  all_goals
    rename_i h
    rw [Session.unplugged_other (by rw [h]; nofun) (by rw [h]; nofun)]

/-- The part as the session has taken an unplug report, the monitor not yet. -/
def State.plugGone (s : State) : State :=
  { s with
    socketView := none
    session := s.session.unplugged s.now s.restart }

theorem exec_unplugReport_ignored (h : unplugAgrees check = false) : exec (.unplugReport check) s = .next s :=
  congrArg Host.Outcome.next (if_pos h)

theorem exec_unplugReport (h : unplugAgrees check = true) : exec (.unplugReport check) s = .next
    (if s.station = .configFault then s.plugGone else s.plugGone.setSocket false (Vector.replicate 8 .fault)) := by
  have gone : State.unplugged { s with socketView := none } = s.plugGone := State.unplugged_eq _
  refine congrArg Host.Outcome.next ((if_neg (by simp [h])).trans ?_)
  dsimp only
  rw [gone]
  rfl

/-- Settles O23: the values set, and the withdrawals that they make. -/
theorem socketReports : Obligations.SocketReports := by
  refine ⟨fun s fault => ⟨fun body check => exec_socketStateReport_ignored (.inl fault), fun check =>
    ⟨exec_unplugReport_ignored, fun agrees => ?_⟩⟩, fun s runs => ⟨fun body check cut => exec_socketStateReport_ignored (.inr cut),
    fun body check m length hm => ?_, fun check => ⟨exec_unplugReport_ignored, fun agrees => ?_⟩⟩⟩
  · rw [exec_unplugReport agrees, if_pos fault]
    refine ⟨_, rfl, rfl, rfl, fun none => ?_⟩
    unfold State.plugGone Session.unplugged
    rw [none]
  · rw [exec_socketStateReport runs length]
    refine ⟨fun noGround noOverfill noScan => ?_, fun hr held out => ?_⟩
    · rw [State.setSocket_quiet hm.symm noGround noOverfill noScan]
    · obtain ⟨fast, cut⟩ := (State.setSocket_stops hm.symm hr held out).closes (by split <;> rfl)
      have same := State.setSocket_sameButFlow s (if socketStateAgrees body check then decide (body[0]? = some 1) else false)
        (if socketStateAgrees body check then vec8 (fun k => sensorOf (body.getD (k.val + 1) 2)) else Vector.replicate 8 .fault)
      have load := same.sameLoad
      exact ⟨_, rfl, same.monitor.trans hm.symm, ⟨load.cfg, load.session, load.batches, load.startQueue, load.notes,
        load.retention, load.clock, load.peers, load.revoked⟩, fast, cut⟩
  · have same := s.plugGone.setSocket_sameButFlow false (Vector.replicate 8 .fault)
    rw [exec_unplugReport agrees, if_neg runs]
    refine ⟨_, rfl, same.field State.socketView, same.monitor, same.session.trans ?_, fun hr held => ?_⟩
    · show s.session.unplugged s.now s.restart = _
      split
      · rename_i h
        exact (Session.unplugged_checking h).trans (if_pos h)
      · exact Session.unplugged_admitted ‹_›
      · exact Session.unplugged_other ‹_› ‹_›
    · have stops := State.setSocket_stops (s := s.plugGone) (ground := false) (sensors := Vector.replicate 8 .fault) rfl hr held
        ((Monitor.withdrawn_iff _).mpr (.inl rfl))
      have of_s : s.SocketStops (s.plugGone.setSocket false (Vector.replicate 8 .fault)) .ground :=
        ⟨stops.arms, stops.shots, stops.slots⟩
      exact of_s.closes rfl

end Sys2Proof.Machine
end

section
/-! Figures laid out one after another (R187): what stands in the bytes of each. -/

namespace Sys2Proof.Machine

variable {bs before rest : List Byte} {off w n : Nat} {x : Option Nat}

/-! ## Bytes of a number -/

theorem beBytes_mod (w n : Nat) : beBytes w (n % 256 ^ w) = beBytes w n := by
  have inside (w m n : Nat) (h : m % 256 ^ w = n % 256 ^ w) : beBytes w m = beBytes w n := by
    induction w generalizing m n with
    | zero => rfl
    | succ w ih =>
      have digit (k : Nat) : BitVec.ofNat 8 (k / 256 ^ w) = BitVec.ofNat 8 (k % 256 ^ (w + 1) / 256 ^ w) := by
        rw [pow_succ, Nat.mod_mul_right_div_self]
        exact BitVec.eq_of_toNat_eq (by simp)
      have low (k : Nat) : k % 256 ^ (w + 1) % 256 ^ w = k % 256 ^ w := Nat.mod_mod_of_dvd k (pow_dvd_pow 256 (Nat.le_succ w))
      unfold beBytes
      rw [digit m, digit n, h, ih m n (by rw [← low m, ← low n, h])]
  exact inside w _ n (Nat.mod_mod _ _)

theorem beValue_beBytes_mod (w n : Nat) : beValue (beBytes w n) = n % 256 ^ w := by
  rw [← beBytes_mod]
  exact beValue_beBytes w _ (Nat.mod_lt n (Nat.pow_pos (by decide)))

theorem beBytes_ones (w : Nat) : beBytes w (256 ^ w - 1) = allOnes w := by
  induction w with
  | zero => rfl
  | succ w ih =>
    have pos : 0 < 256 ^ w := Nat.pow_pos (by decide)
    have split : 256 ^ (w + 1) - 1 = (256 ^ w - 1) + 256 ^ w * 255 := by rw [pow_succ]; omega
    have digit : (256 ^ (w + 1) - 1) / 256 ^ w = 255 := by
      rw [split, Nat.add_mul_div_left _ _ pos, Nat.div_eq_of_lt (by omega)]
    have low : beBytes w (256 ^ (w + 1) - 1) = beBytes w (256 ^ w - 1) := by
      rw [← beBytes_mod, split, Nat.add_mul_mod_self_left, beBytes_mod]
    unfold beBytes
    rw [digit, low, ih]
    rfl

/-! ## Figures one after another -/

/-- Numbers one after another, each with its width. -/
def packed (fs : List (Nat × Nat)) : List Byte := fs.flatMap fun f => beBytes f.1 f.2

theorem packed_length (fs : List (Nat × Nat)) : (packed fs).length = (fs.map Prod.fst).sum := by
  unfold packed
  simp [List.length_flatMap, beBytes_length]

/-- The number at its place. -/
theorem fieldAt_packed {fs : List (Nat × Nat)} (i : Nat) (h : fs[i]? = some (w, n))
    (ho : ((fs.take i).map Prod.fst).sum = off) : fieldAt (packed fs ++ rest) off w = n % 256 ^ w := by
  obtain ⟨hi, item⟩ := List.getElem?_eq_some_iff.mp h
  have split : packed fs = packed (fs.take i) ++ (beBytes w n ++ packed (fs.drop (i + 1))) := by
    conv_lhs => rw [← List.take_append_drop i fs, List.drop_eq_getElem_cons hi, item]
    unfold packed
    rw [List.flatMap_append, List.flatMap_cons]
  have place : (packed (fs.take i)).length = off := (packed_length _).trans ho
  unfold fieldAt
  rw [split, List.append_assoc, List.append_assoc, List.drop_left' place, List.take_left' (beBytes_length w n)]
  exact beValue_beBytes_mod w n

/-- What stands in the place of a figure that may be absent (R187, R192). -/
def carried (w : Nat) : Option Nat → Nat
  | some n => min n (256 ^ w - 1)
  | none => 256 ^ w - 1

theorem carried_lt (w : Nat) (x : Option Nat) : carried w x < 256 ^ w := by
  have pos : 0 < 256 ^ w := Nat.pow_pos (by decide)
  cases x <;> simp only [carried] <;> omega

theorem optField_eq (w : Nat) (x : Option Nat) : optField w x = beBytes w (carried w x) := by
  cases x with
  | some n => rfl
  | none => exact (beBytes_ones w).symm

theorem carries_iff : Carries bs off w x ↔ fieldAt bs off w = carried w x := by cases x <;> exact Iff.rfl

/-- Figures one after another, each with its width, absent ones all ones. -/
def laidOut (fs : List (Nat × Option Nat)) : List Byte := fs.flatMap fun f => optField f.1 f.2

theorem laidOut_eq (fs : List (Nat × Option Nat)) : laidOut fs = packed (fs.map fun f => (f.1, carried f.1 f.2)) := by
  unfold laidOut packed
  rw [List.flatMap_map]
  simp only [optField_eq]

theorem laidOut_length (fs : List (Nat × Option Nat)) : (laidOut fs).length = (fs.map Prod.fst).sum := by
  rw [laidOut_eq, packed_length, List.map_map]
  rfl

/-- A body carries each of its figures at its place. -/
theorem carries_laidOut {fs : List (Nat × Option Nat)} (i : Nat) (h : fs[i]? = some (w, x) := by rfl)
    (ho : ((fs.take i).map Prod.fst).sum = off := by rfl) : Carries (laidOut fs ++ rest) off w x := by
  rw [carries_iff, laidOut_eq, fieldAt_packed i (n := carried w x) (by rw [List.getElem?_map, h]; rfl) (by
    rw [← List.map_take, List.map_map]
    exact ho)]
  exact Nat.mod_eq_of_lt (carried_lt w x)

/-- A figure behind bytes of known length. -/
theorem carries_append {k : Nat} (h : before.length = k) (c : Carries rest off w x) : Carries (before ++ rest) (k + off) w x := by
  rw [carries_iff, ← fieldAt_drop, List.drop_left' h]
  exact carries_iff.mp c

theorem carries_drop {k : Nat} : Carries (bs.drop k) off w x ↔ Carries bs (k + off) w x := by
  rw [carries_iff, carries_iff, fieldAt_drop]

/-! ## The encodings as figures -/

theorem beBytes_figure (h : n < 256 ^ w) : beBytes w n = optField w (some n) := by
  rw [optField_eq, carried, Nat.min_eq_left (by omega)]

theorem flagByte_figure (b : Bool) : flagByte b = optField 1 (some b.toNat) := by cases b <;> rfl

theorem allOnes_figure (w : Nat) : allOnes w = optField w none := rfl

theorem field_figure (w n : Nat) : field w n = optField w (some n) := rfl

end Sys2Proof.Machine
end

section
/-! The session's note as its completion assembles it (R73, R171, R190): the head, and the lines of the batches kept. -/

namespace Sys2Proof.Machine

variable {s t : State} {k : CompId} {b : Batch} {number : Nat}

/-! ## The head -/

/-- The figures of a note's head, each with its width. -/
def State.noteHeadFigures (s : State) (number : Nat) : List (Nat × Nat) :=
  [(3, number), (1, s.cfg.station.val), (4, (s.session.permit.map (·.id)).getD 0),
    (2, (s.session.permit.map (·.carrier)).getD 0), (4, (s.session.tag.map (·.id)).getD 0), (2, (s.session.start.getD (0, 0)).1),
    (3, (s.session.start.getD (0, 0)).2), (2, s.clock.day), (3, s.clock.second),
    (1, carried 1 (s.session.endReason.map Reason.code)), (1, s.records.length - 1)]

theorem State.noteRecord_eq (s : State) (number : Nat) : s.noteRecord number =
    packed (s.noteHeadFigures number) ++ (s.records.map fun kb => s.noteLine kb.1 kb.2).flatten := by
  unfold State.noteRecord State.noteHeadFigures reasonByte packed
  dsimp only
  rw [optField_eq, List.flatMap_def]
  simp only [List.flatMap_cons, List.flatMap_nil, List.append_assoc, List.append_nil]

/-- A figure of the head at its place. -/
theorem State.noteRecord_figure {off w n : Nat} (i : Nat) (h : (s.noteHeadFigures number)[i]? = some (w, n) := by rfl)
    (ho : (((s.noteHeadFigures number).take i).map Prod.fst).sum = off := by rfl) :
    fieldAt (s.noteRecord number) off w = n % 256 ^ w := by
  rw [State.noteRecord_eq]
  exact fieldAt_packed i h ho

theorem State.noteRecord_lines (s : State) (number : Nat) :
    (s.noteRecord number).drop 26 = (s.records.map fun kb => s.noteLine kb.1 kb.2).flatten := by
  rw [State.noteRecord_eq]
  exact List.drop_left' (packed_length _)

theorem State.records_length (s : State) : s.records.length ≤ 8 := List.length_filterMap_le _ allComps

theorem Reason.code_lt (r : Reason) : r.code < 256 := by cases r <;> decide

theorem State.noteRecord_count (s : State) (number : Nat) : fieldAt (s.noteRecord number) 25 1 = s.records.length - 1 := by
  have few := s.records_length
  exact (State.noteRecord_figure 10).trans (Nat.mod_eq_of_lt (by omega))

theorem State.noteRecord_head (s : State) (number : Nat) : s.NoteHead number s.session.endReason (s.noteRecord number) where
  number := State.noteRecord_figure 0
  station := (State.noteRecord_figure 1).trans (Nat.mod_eq_of_lt (by omega))
  permit p hp := by
    have id : (s.session.permit.map (·.id)).getD 0 = p.id := by rw [hp]; rfl
    have carrier : (s.session.permit.map (·.carrier)).getD 0 = p.carrier := by rw [hp]; rfl
    exact ⟨(State.noteRecord_figure 2).trans (by rw [id]; rfl), (State.noteRecord_figure 3).trans (by rw [carrier]; rfl)⟩
  tanker g hg := by
    have id : (s.session.tag.map (·.id)).getD 0 = g.id := by rw [hg]; rfl
    exact (State.noteRecord_figure 4).trans (by rw [id]; rfl)
  start d n hd := by
    have start : s.session.start.getD (0, 0) = (d, n) := by rw [hd]; rfl
    exact ⟨(State.noteRecord_figure 5).trans (by rw [start]; rfl), (State.noteRecord_figure 6).trans (by rw [start]; rfl)⟩
  closed := ⟨State.noteRecord_figure 7, State.noteRecord_figure 8⟩
  reason r hr := by
    have small := r.code_lt
    have code : carried 1 (s.session.endReason.map Reason.code) = r.code := by
      rw [hr]
      exact Nat.min_eq_left (by omega)
    exact (State.noteRecord_figure 9).trans (by rw [code]; exact Nat.mod_eq_of_lt small)

/-- The head is a matter of the station number, the permit, the tag, the start time and the clock. -/
theorem State.NoteHead.of_eq {reason : Option Reason} {record : List Byte} (h : t.NoteHead number reason record)
    (cfg : t.cfg = s.cfg) (clock : t.clock = s.clock) (permit : t.session.permit = s.session.permit)
    (tag : t.session.tag = s.session.tag) (start : t.session.start = s.session.start) : s.NoteHead number reason record where
  number := h.number
  station := cfg ▸ h.station
  permit p hp := h.permit p (permit.trans hp)
  tanker g hg := h.tanker g (tag.trans hg)
  start d n hd := h.start d n (start.trans hd)
  closed := clock ▸ h.closed
  reason := h.reason

/-! ## The lines -/

/-- What the figures of a batch are read from: the arms' owners and live accumulators. -/
def State.SameFigures (s t : State) : Prop := ∀ a, (t.arm a).owner = (s.arm a).owner ∧ (t.arm a).live = (s.arm a).live

theorem State.SameFigures.ownerArm (h : s.SameFigures t) (k : CompId) : t.ownerArm k = s.ownerArm k := by
  unfold State.ownerArm
  simp only [(h _).1]

theorem State.SameFigures.figures (h : s.SameFigures t) (k : CompId) (b : Batch) : t.figures k b = s.figures k b := by
  unfold State.figures
  rw [h.ownerArm]
  simp only [(h _).2]

theorem State.SameFigures.noteLine (h : s.SameFigures t) (cfg : t.cfg = s.cfg) (k : CompId) (b : Batch) :
    t.noteLine k b = s.noteLine k b := by
  unfold State.noteLine State.additiveBlock State.measured State.gradeInjector State.servingInjector State.gradeCode
    State.gradeCfg State.injectorCfg
  rw [h.figures, cfg]

/-- A batch that the completion drops (R73): it has not started. -/
def Batch.dropped (b : Batch) : Prop := b.state = .planned ∨ (b.state = .waiting ∧ b.started = false)

theorem settledBatch_dropped (h : b.dropped) : settledBatch b = none := by
  unfold settledBatch
  rcases h with h | ⟨h, fresh⟩
  · rw [h]
  · rw [h, fresh]
    rfl

/-- A batch kept stays as it is but for its state: a stopped one is ENDED (R73). -/
theorem settledBatch_kept (h : ¬ b.dropped) : settledBatch b = some { b with state :=
    if b.state = .waiting ∨ b.state = .suspended then .ended else b.state } := by
  obtain ⟨grade, preset, pend, named, state, started, reason, count, last, saved, acc, flags⟩ := b
  cases state with
  | planned => exact absurd (.inl rfl) h
  | waiting =>
    cases started with
    | false => exact absurd (.inr ⟨rfl, rfl⟩) h
    | true => rfl
  | active | suspended | done | ended => rfl

/-- Batches settled at step 1 of the completion (R73). -/
def State.BatchesSettled (s t : State) : Prop := ∀ k, t.batch k = (s.batch k).bind settledBatch

theorem State.BatchesSettled.lines (h : s.BatchesSettled t) (figures : s.SameFigures t) (cfg : t.cfg = s.cfg) :
    (t.records.map fun kb => t.noteLine kb.1 kb.2) = s.noteLines := by
  unfold State.records State.noteLines
  rw [List.map_filterMap]
  refine List.filterMap_congr fun k _ => ?_
  have batch : t.batch k = (s.batches[k]).bind settledBatch := h k
  rw [batch]
  cases s.batches[k] with
  | none => rfl
  | some b =>
    by_cases gone : b.dropped
    · exact (congrArg (Option.map _ ∘ Option.map _) (settledBatch_dropped gone)).trans (if_pos gone).symm
    · refine (congrArg (Option.map _ ∘ Option.map _) (settledBatch_kept gone)).trans (Eq.trans ?_ (if_neg gone).symm)
      exact congrArg some (figures.noteLine cfg k _)

/-- Some batch of the session has started, one not started being planned or waiting. -/
def State.hasStarted (s : State) : Prop := ∃ b, ∃ k : CompId, s.batches[k] = some b ∧ b.started = true ∧ b.state ≠ .planned

theorem mem_allComps (k : CompId) : k ∈ allComps := by
  revert k
  decide

theorem State.mem_records {kb : CompId × Batch} : kb ∈ s.records ↔ s.batch kb.1 = some kb.2 := by
  obtain ⟨k, b⟩ := kb
  unfold State.records
  simp only [List.mem_filterMap, Option.map_eq_some_iff, Prod.mk.injEq]
  constructor
  · rintro ⟨k, -, b, hb, rfl, rfl⟩
    exact hb
  · exact fun hb => ⟨k, mem_allComps k, b, hb, rfl, rfl⟩

theorem State.BatchesSettled.anyStarted (h : s.BatchesSettled t) : t.anyStarted = true ↔ s.hasStarted := by
  unfold State.anyStarted
  rw [List.any_eq_true]
  constructor
  · rintro ⟨⟨k, b⟩, held, started⟩
    have settled := (h k).symm.trans (State.mem_records.mp held)
    obtain ⟨b₀, hb₀, kept⟩ := Option.bind_eq_some_iff.mp settled
    by_cases gone : b₀.dropped
    · exact absurd ((settledBatch_dropped gone).symm.trans kept) nofun
    · cases (settledBatch_kept gone).symm.trans kept
      exact ⟨b₀, k, hb₀, started, fun planned => gone (.inl planned)⟩
  · rintro ⟨b, k, hb, started, state⟩
    have gone : ¬ b.dropped := fun out => out.elim state fun waits => Bool.false_ne_true (waits.2.symm.trans started)
    have batch : s.batch k = some b := hb
    have settled : t.batch k = some _ := (h k).trans ((congrArg (·.bind settledBatch) batch).trans (settledBatch_kept gone))
    exact ⟨(k, _), State.mem_records.mpr settled, started⟩

/-- The note of this moment, its batches settled, as the session before tells it. -/
theorem State.BatchesSettled.noteOf (h : s.BatchesSettled t) (figures : s.SameFigures t) (cfg : t.cfg = s.cfg)
    (clock : t.clock = s.clock) (permit : t.session.permit = s.session.permit) (tag : t.session.tag = s.session.tag)
    (start : t.session.start = s.session.start) (number : Nat) :
    s.NoteOf number t.session.endReason (t.noteRecord number) where
  head := (t.noteRecord_head number).of_eq cfg clock permit tag start
  count := by
    rw [t.noteRecord_count, ← h.lines figures cfg, List.length_map]
  lines := by
    rw [t.noteRecord_lines, h.lines figures cfg]

/-! ## The flags of a line -/

theorem State.noteLine_flags (s : State) (k : CompId) (b : Batch) : (fieldAt (s.noteLine k b) 23 1).testBit 2 = b.flags.short := by
  have line : ∃ rest, s.noteLine k b = packed [(1, k.val + 1), (1, b.grade.val), (1, carried 1 (b.lastArm.map (·.val))),
      (3, min b.preset (256 ^ 3 - 1)), (6, min (s.figures k b).gross (256 ^ 6 - 1)), (6, min (s.figures k b).std (256 ^ 6 - 1)),
      (4, min (s.figures k b).flow (256 ^ 4 - 1)), (1, min b.suspCount (256 ^ 1 - 1)), (1, b.flags.value)] ++ rest := by
    unfold State.noteLine packed
    dsimp only
    rw [optField_eq]
    simp only [List.flatMap_cons, List.flatMap_nil, List.append_assoc, List.append_nil]
    exact ⟨_, rfl⟩
  obtain ⟨rest, line⟩ := line
  have flags : fieldAt (s.noteLine k b) 23 1 = b.flags.value % 256 := by
    rw [line]
    exact fieldAt_packed 8 rfl rfl
  rw [flags]
  unfold LineFlags.value
  cases b.flags.tempHeld <;> cases b.flags.ctlClamped <;> cases b.flags.short <;> cases b.flags.bypassed <;>
    cases b.flags.valveLeak <;> rfl

end Sys2Proof.Machine
end

section
/-! Entry to ENDING (R51): the claims, the reservations and the arms as it leaves them. -/

namespace Sys2Proof.Machine

variable {s t u : State} {a : ArmId} {h : HeaderId} {r : Reason}

/-! ## Claims and reservations given up (R66, R87) -/

/-- Claims and reservations are held as before or given up. -/
structure State.ClaimsFall (s t : State) : Prop where
  slot : ∀ h, (t.header h).slot = (s.header h).slot ∨ (t.header h).slot = none
  reserved : ∀ a, (t.arm a).reserved = (s.arm a).reserved ∨ (t.arm a).reserved = none

theorem State.ClaimsFall.refl (s : State) : s.ClaimsFall s := ⟨fun _ => .inl rfl, fun _ => .inl rfl⟩

theorem State.ClaimsFall.trans (h : s.ClaimsFall t) (k : t.ClaimsFall u) : s.ClaimsFall u where
  slot i := (k.slot i).elim (fun same => same ▸ h.slot i) .inr
  reserved i := (k.reserved i).elim (fun same => same ▸ h.reserved i) .inr

theorem State.ClaimsFall.of_eq (headers : t.headers = s.headers) (arms : t.arms = s.arms) : s.ClaimsFall t :=
  ⟨fun h => .inl (by unfold State.header; rw [headers]), fun a => .inl (by unfold State.arm; rw [arms])⟩

theorem State.ClaimsFall.modArm (a : ArmId) (f : Arm → Arm)
    (s : State)
    (hf : ∀ m, (f m).reserved = m.reserved ∨ (f m).reserved = none := by exact fun _ => .inl rfl) :
    s.ClaimsFall (s.modArm a f) := by
  refine ⟨fun h => .inl rfl, fun b => ?_⟩
  rw [State.arm_modArm]
  split
  · exact hf _
  · exact .inl rfl

theorem State.ClaimsFall.eachArm {f : ArmId → State → State} {P : State → Prop} (keeps : ∀ a s, P s → P (f a s))
    (falls : ∀ a s, P s → s.ClaimsFall (f a s)) (hs : P s) : s.ClaimsFall (s.eachArm f) := by
  have h0 := keeps 0 s hs
  have h1 := keeps 1 _ h0
  have h2 := keeps 2 _ h1
  exact (((falls 0 s hs).trans (falls 1 _ h0)).trans (falls 2 _ h1)).trans (falls 3 _ h2)

theorem State.composeState_claimsFall (s : State) : s.ClaimsFall s.composeState := by
  have same := s.composeState_sameButLink
  exact .of_eq (by rw [same]) (by rw [same])

theorem State.dropClaim_claimsFall (h : HeaderId) (b : Bool) (s : State) : s.ClaimsFall (s.dropClaim h b) := by
  have frees : s.ClaimsFall (s.modHeader h fun x => { x with slot := none }) := by
    refine ⟨fun k => ?_, fun _ => .inl rfl⟩
    rw [State.header_modHeader]
    split
    · exact .inr rfl
    · exact .inl rfl
  have gives (c : Claim) (x : State) : x.ClaimsFall (match c.kind with
      | .low => x.modArm c.arm fun m => { m with reserved := none }
      | .stepUp => x.modArm c.arm fun m => { m with stepUp := .none }) := by
    split
    · exact .modArm _ _ x fun _ => .inr rfl
    · exact .modArm _ _ x
  unfold State.dropClaim
  split
  · exact .refl s
  · dsimp only
    split
    · exact (frees.trans (gives _ _)).trans (State.composeState_claimsFall _)
    · exact frees.trans (gives _ _)

/-- No claim is taken in place of one abandoned while none may be. -/
theorem State.abandon_claimsFall (hm : s.mayClaim = false) (h : HeaderId) : s.ClaimsFall (s.abandon h) := by
  unfold State.abandon
  split
  · exact .refl s
  · rw [State.passOn_shut ((s.dropClaim_moves h true).mayClaim.trans hm)]
    exact s.dropClaim_claimsFall h true

theorem State.abandonLow_claimsFall (hm : s.mayClaim = false) (h : HeaderId) : s.ClaimsFall (s.abandonLow h) := by
  unfold State.abandonLow
  split
  · split
    · exact State.abandon_claimsFall hm h
    · exact .refl s
  · exact .refl s

theorem State.abandonStepUp_claimsFall (hm : s.mayClaim = false) (a : ArmId) : s.ClaimsFall (s.abandonStepUp a) := by
  unfold State.abandonStepUp
  split
  · split
    · exact State.abandon_claimsFall hm _
    · exact .refl s
  · exact .refl s

theorem State.cutArmShots_claimsFall (a : ArmId) (s : State) : s.ClaimsFall (s.cutArmShots a) := by
  have one (i : InjectorId) (x : State) : x.ClaimsFall (if (x.injectorCfg i).arm = a then x.endShot true i else x) := by
    rw [State.endShot_cut]
    split
    · exact .of_eq rfl rfl
    · exact .refl x
  exact ((one 0 s).trans (one 1 _)).trans ((one 2 _).trans (one 3 _))

/-- A close begun is a change of its arm to CLOSING, its reservation kept; the shots cut and the STEP-UP abandoned follow. -/
theorem State.beginClose_eq (a : ArmId) (k : CloseKind) (r : Reason) (m : Manner) (s : State) :
    ∃ f : Arm → Arm, (∀ m, (f m).stage = .closing ∧ (f m).reserved = m.reserved) ∧ s.beginClose a k r m =
      (if m = .fast then (s.modArm a f).cutArmShots a else s.modArm a f).abandonStepUp a := by
  unfold State.beginClose
  dsimp only
  rw [State.moveStage_closing, State.modArm_modArm]
  refine ⟨_, ?_, rfl⟩
  exact fun _ => ⟨rfl, rfl⟩

theorem State.beginClose_claimsFall (hm : s.mayClaim = false) (a : ArmId) (k : CloseKind) (r : Reason) (m : Manner) :
    s.ClaimsFall (s.beginClose a k r m) := by
  obtain ⟨f, closes, begun⟩ := s.beginClose_eq a k r m
  have closing : s.ClaimsFall (s.modArm a f) := .modArm a f s fun m => .inl (closes m).2
  have cut : s.ClaimsFall (if m = .fast then (s.modArm a f).cutArmShots a else s.modArm a f) := by
    split
    · exact closing.trans (State.cutArmShots_claimsFall a _)
    · exact closing
  have same : s.SameButFlow (s.modArm a f) := rfl
  have shut : s.SameButFlow (if m = .fast then (s.modArm a f).cutArmShots a else s.modArm a f) := by
    split
    · exact same.trans (Moves.sameButFlow (State.cutArmShots_touch a _).mono)
    · exact same
  rw [begun]
  exact cut.trans (State.abandonStepUp_claimsFall (shut.mayClaim.trans hm) a)

/-- No close demand closes an arm at once. -/
theorem State.closeDemand_opened {b : ArmId} (k : CloseKind) (r : Reason) (m : Manner) (opened : (s.arm b).stage ≠ .closed) :
    ((s.closeDemand a k r m).arm b).stage ≠ .closed := by
  have changed (f : Arm → Arm) (hf : ∀ m, (f m).stage = m.stage ∨ (f m).stage = .closing) :
      ((s.modArm a f).arm b).stage ≠ .closed := by
    rw [State.arm_modArm]
    split
    · rcases hf (s.arm b) with e | e <;> rw [e]
      · exact opened
      · nofun
    · exact opened
  unfold State.closeDemand
  split
  · exact opened
  · split
    · exact opened
    · split
      · exact changed _ fun m => .inl rfl
      · exact opened
    · obtain ⟨f, closes, begun⟩ := s.beginClose_eq a k r m
      have cut : (if m = .fast then (s.modArm a f).cutArmShots a else s.modArm a f).arms = (s.modArm a f).arms := by
        split
        · exact State.cutArmShots_arms a _
        · rfl
      rw [begun, (State.abandonStepUp_moves a _).stage]
      unfold State.arm
      rw [cut]
      exact changed f fun m => .inr (closes m).1

theorem State.closeDemand_claimsFall (hm : s.mayClaim = false) (a : ArmId) (k : CloseKind) (r : Reason) (m : Manner) :
    s.ClaimsFall (s.closeDemand a k r m) := by
  unfold State.closeDemand
  split
  · exact .refl s
  · split
    · exact .refl s
    · split
      · exact .modArm a _ s
      · exact .refl s
    · exact State.beginClose_claimsFall hm a k r m

/-! ## The session ENDING, its completion apart (R51) -/

/-- The session named ENDING, nothing else done. -/
def State.endNamed (r : Reason) (s : State) : State := { s with session := s.session.ended r }

/-- Low claims and reservations given up. -/
def State.unclaimed (s : State) : State :=
  (allHeaders.foldl State.abandonLow s).eachArm fun a s => s.modArm a fun m => { m with reserved := none }

/-- Entry to ENDING short of the completion. -/
def State.endingBegun (r : Reason) (s : State) : State :=
  (s.endNamed r).unclaimed.eachArm fun a s => s.closeDemand a .stop .sessionEnd .controlled

theorem State.enterEnding_eq (r : Reason) (h : s.session.state = .admitted) :
    s.enterEnding r = (s.endingBegun r).completeEnding := if_pos h

theorem State.endNamed_shut (r : Reason) (s : State) : (s.endNamed r).mayClaim = false := by
  unfold State.mayClaim State.endNamed Session.ended
  simp

theorem State.unclaimed_moves (s : State) : SharesMove s s.unclaimed :=
  (SharesMove.foldl _ (fun s h => s.abandonLow_moves h) _ s).trans
    (SharesMove.eachArm _ (fun a s => .modArm a s (hr := fun _ => .inr rfl)) _)

/-- A slot holds no LOW CLAIM. -/
def State.SlotLowFree (h : HeaderId) (s : State) : Prop := ∀ c, (s.header h).slot = some c → c.kind = .stepUp

theorem State.SlotLowFree.falls (low : s.SlotLowFree h) (k : s.ClaimsFall t) : t.SlotLowFree h := fun c held =>
  (k.slot h).elim (fun same => low c (same ▸ held)) fun free => nomatch held.symm.trans free

/-- No arm is reserved and no slot holds a LOW CLAIM. -/
def State.LowFree (s : State) : Prop := (∀ a, (s.arm a).reserved = none) ∧ ∀ h, s.SlotLowFree h

theorem State.LowFree.falls (k : s.ClaimsFall t) (h : s.LowFree) : t.LowFree where
  left a := (k.reserved a).elim (fun same => same.trans (h.1 a)) id
  right i := (h.2 i).falls k

theorem State.abandonLow_frees (hm : s.mayClaim = false) (h : HeaderId) : (s.abandonLow h).SlotLowFree h := by
  intro c held
  cases slot : (s.header h).slot with
  | none =>
    have same : s.abandonLow h = s := by unfold State.abandonLow; rw [slot]
    exact nomatch (same ▸ held).symm.trans slot
  | some own =>
    cases kind : own.kind with
    | low =>
      have gone : s.abandonLow h = s.abandon h := by unfold State.abandonLow; rw [slot]; exact if_pos kind
      exact nomatch (gone ▸ held).symm.trans (State.abandon_slot h s hm)
    | stepUp =>
      have same : s.abandonLow h = s := by
        unfold State.abandonLow
        rw [slot]
        exact if_neg (by rw [kind]; nofun)
      cases (same ▸ held).symm.trans slot
      exact kind

theorem State.unclaimed_lowFree (hm : s.mayClaim = false) : s.unclaimed.LowFree := by
  have freed : ∀ h ∈ allHeaders, State.SlotLowFree h (allHeaders.foldl State.abandonLow s) :=
    foldl_reaches State.abandonLow (P := fun x => x.mayClaim = false) (fun x h hx => (x.abandonLow_moves h).mayClaim.trans hx)
      (fun x h hx => State.abandonLow_frees hx h) (fun x h k hx hk => hk.falls (State.abandonLow_claimsFall hx h)) _ s hm
  obtain ⟨x, hx⟩ : ∃ x, x = allHeaders.foldl State.abandonLow s := ⟨_, rfl⟩
  unfold State.unclaimed
  rw [← hx] at freed ⊢
  rw [State.eachArm_modArm fun _ m => { m with reserved := none }]
  exact ⟨fun a => congrArg Arm.reserved (vec4_get _ a), fun h => freed h (mem_allHeaders h)⟩

theorem State.closeDemands_sameButFlow (k : CloseKind) (r : Reason) (m : Manner) (s : State) :
    s.SameButFlow (s.eachArm fun a s => s.closeDemand a k r m) :=
  (Moves.eachArm _ (fun a s => s.closeDemand_touch a k r m) s).sameButFlow

theorem State.endingBegun_sameButFlow (r : Reason) (s : State) : (s.endNamed r).SameButFlow (s.endingBegun r) :=
  (State.unclaimed_moves _).sameButFlow.trans (State.closeDemands_sameButFlow _ _ _ _)

theorem State.endingBegun_shut (r : Reason) (s : State) : (s.endingBegun r).mayClaim = false :=
  (s.endingBegun_sameButFlow r).mayClaim.trans (s.endNamed_shut r)

theorem State.endingBegun_session (r : Reason) (s : State) : (s.endingBegun r).session = s.session.ended r :=
  (s.endingBegun_sameButFlow r).session

theorem State.endingBegun_noFlow (r : Reason) (hr : s.restart = false) : (s.endingBegun r).noFlow :=
  State.eachArm_closeDemand_noFlow _ _ _ _ ((s.endNamed r).unclaimed_moves.restart.trans hr)

theorem State.endingBegun_lowFree (r : Reason) (s : State) : (s.endingBegun r).LowFree := by
  have shut : (s.endNamed r).unclaimed.mayClaim = false := (State.unclaimed_moves _).mayClaim.trans (s.endNamed_shut r)
  refine .falls (.eachArm (P := fun x => x.mayClaim = false) (fun a x hx => ?_) (fun a x hx => ?_) shut)
    (State.unclaimed_lowFree (s.endNamed_shut r))
  · exact (x.closeDemand_sameButFlow a _ _ _).mayClaim.trans hx
  · exact State.closeDemand_claimsFall hx a _ _ _

/-! ## With every arm CLOSED, and with one open -/

theorem mem_allArms (a : ArmId) : a ∈ allArms := by
  revert a
  decide

theorem State.allClosed_iff : s.allClosed = true ↔ ∀ a, (s.arm a).stage = .closed := by
  unfold State.allClosed
  simp only [List.all_eq_true, beq_iff_eq]
  exact ⟨fun h a => h a (mem_allArms a), fun h a _ => h a⟩

theorem State.closeDemand_closed {k : CloseKind} {m : Manner} (closed : (s.arm a).stage = .closed) :
    s.closeDemand a k r m = s := by
  unfold State.closeDemand
  split
  · rfl
  · rw [closed]

theorem State.closeDemands_closed {k : CloseKind} {m : Manner} (closed : ∀ a, (s.arm a).stage = .closed) :
    (s.eachArm fun a s => s.closeDemand a k r m) = s := by
  unfold State.eachArm
  dsimp only
  rw [State.closeDemand_closed (closed 0), State.closeDemand_closed (closed 1), State.closeDemand_closed (closed 2),
    State.closeDemand_closed (closed 3)]

theorem State.closeDemands_opened {b : ArmId} (k : CloseKind) (r : Reason) (m : Manner) (opened : (s.arm b).stage ≠ .closed) :
    ((s.eachArm fun a s => s.closeDemand a k r m).arm b).stage ≠ .closed :=
  State.closeDemand_opened k r m <| State.closeDemand_opened k r m <| State.closeDemand_opened k r m <|
    State.closeDemand_opened k r m opened

theorem State.endingBegun_opened (r : Reason) (opened : s.allClosed = false) : (s.endingBegun r).allClosed = false := by
  by_contra closed
  refine Bool.false_ne_true (opened.symm.trans (State.allClosed_iff.mpr fun a => ?_))
  by_contra h
  have moves := (s.endNamed r).unclaimed_moves
  exact State.closeDemands_opened _ _ _ (fun e => h ((moves.stage a).symm.trans e))
    (State.allClosed_iff.mp (Bool.not_eq_false _ ▸ closed) a)

/-- With every arm CLOSED no close is begun. -/
theorem State.endingBegun_closed (r : Reason) (closed : s.allClosed = true) : SharesMove (s.endNamed r) (s.endingBegun r) := by
  have moves := (s.endNamed r).unclaimed_moves
  have still : s.endingBegun r = (s.endNamed r).unclaimed :=
    State.closeDemands_closed fun a => (moves.stage a).trans (State.allClosed_iff.mp closed a)
  rw [still]
  exact moves

end Sys2Proof.Machine
end

section
/-! The completion of an ENDING session (R52, R73, R74, R172), case by case: no batch started, the issue with room, the
issue that waits. -/

namespace Sys2Proof.Machine

variable {s t u : State} {a : ArmId} {k : CompId} {h : HeaderId} {r : Reason}

/-! ## Step 1: the batches settled (R73) -/

theorem State.settleComps_batch (l : List CompId) (distinct : l.Nodup) (s : State) (k : CompId) :
    (l.foldl State.settleComp s).batch k = if k ∈ l then (s.batch k).bind settledBatch else s.batch k := by
  induction l generalizing s with
  | nil => rfl
  | cons c rest ih =>
    obtain ⟨fresh, distinct⟩ := List.nodup_cons.mp distinct
    rw [List.foldl_cons, ih distinct]
    unfold State.settleComp
    rw [State.batch_setBatch]
    by_cases e : k = c
    · subst e
      rw [if_neg fresh, if_pos rfl, if_pos (.head _)]
    · rw [if_neg e]
      simp only [List.mem_cons, e, false_or]

/-- Headers that differ in nothing but a retry wait flag. -/
def State.WaitsCleared (s : State) (v : Vector Header 8) : Prop := ∀ h : HeaderId, ∃ w, v[h] = { s.header h with retryWait := w }

theorem State.clearWaits_eq (l : List HeaderId) (s : State) :
    ∃ v, (l.foldl (fun s h => s.modHeader h fun x => { x with retryWait := false }) s) = { s with headers := v } ∧
      s.WaitsCleared v := by
  induction l generalizing s with
  | nil => exact ⟨s.headers, rfl, fun h => ⟨(s.header h).retryWait, rfl⟩⟩
  | cons c rest ih =>
    obtain ⟨v, cleared, each⟩ := ih (s.modHeader c fun x => { x with retryWait := false })
    refine ⟨v, cleared, fun h => ?_⟩
    obtain ⟨w, hw⟩ := each h
    rw [State.header_modHeader] at hw
    split at hw
    · exact ⟨w, hw⟩
    · exact ⟨w, hw⟩

theorem State.settleDeadman_eq (b : Bool) (empty : s.startQueue = []) : ∃ m, s.settleDeadman b = { s with monitor := m } := by
  unfold State.settleDeadman
  split
  · exact ⟨_, State.restoreIf_empty (s := s.modMonitor Monitor.stopDeadman) empty _⟩
  · exact ⟨s.monitor, rfl⟩

/-- The state with step 1 done. -/
structure State.SettlesTo (s t : State) : Prop where
  rest : t = { s with
    batches := t.batches
    startQueue := []
    headers := t.headers
    monitor := t.monitor }
  batches : s.BatchesSettled t
  headers : s.WaitsCleared t.headers

theorem State.settleBatches_settlesTo (s : State) : s.SettlesTo s.settleBatches := by
  obtain ⟨b, comps⟩ := State.settleComps_eq allComps s
  obtain ⟨v, waits, cleared⟩ := ({ s with
    batches := b
    startQueue := [] } : State).clearWaits_eq allHeaders
  have batch (k : CompId) : b[k] = (s.batch k).bind settledBatch := by
    have each := State.settleComps_batch allComps (by decide) s k
    rw [comps, if_pos (mem_allComps k)] at each
    exact each
  have rests (q : Bool) (x : State) (empty : x.startQueue = []) :
      ∃ m, (if q then x.settleDeadman false else x) = { x with monitor := m } := by
    cases q with
    | true => exact State.settleDeadman_eq false empty
    | false => exact ⟨x.monitor, rfl⟩
  obtain ⟨m, rest⟩ := rests (!s.startQueue.isEmpty) { s with
    batches := b
    startQueue := []
    headers := v } rfl
  have settled : s.settleBatches = { s with
      batches := b
      startQueue := []
      headers := v
      monitor := m } := by
    unfold State.settleBatches
    dsimp only
    rw [comps, waits]
    exact rest
  rw [settled]
  exact ⟨rfl, batch, cleared⟩

/-! ## Step 2: the note issued (R172) -/

theorem State.handTail_link (tag : FrameTag) (payload : List Byte) (s : State) :
    ∃ l, (s.handTail tag payload).1 = { s with link := l } := by
  unfold State.handTail
  split
  · exact ⟨_, rfl⟩
  · split
    · exact ⟨_, rfl⟩
    · exact ⟨_, rfl⟩

/-- A stored note's number and record, its send marker apart. -/
def Notes.entries (n : Notes) : List (Nat × List Byte) := n.store.map fun x => (x.number, x.record)

theorem State.sendNote_eq (number : Nat) (record : List Byte) (s : State) : ∃ n l, s.sendNote number record = { s with
      notes := n
      link := l } ∧ n.nextNumber = s.notes.nextNumber ∧ n.entries = s.notes.entries := by
  obtain ⟨x, hx⟩ : ∃ x, x = s.modNotes fun y => { y with
    store := y.store.map fun n => if n.number = number then { n with marker := some s.link.nextId } else n } := ⟨_, rfl⟩
  have marked : x.notes.entries = s.notes.entries := by
    rw [hx]
    unfold Notes.entries State.modNotes
    rw [List.map_map]
    refine List.map_congr_left fun y _ => ?_
    dsimp only [Function.comp]
    split <;> rfl
  have next : x.notes.nextNumber = s.notes.nextNumber := by rw [hx]; rfl
  have frame (n : Notes) (l : Link) : { x with
      notes := n
      link := l } = { s with
      notes := n
      link := l } := by rw [hx]; rfl
  obtain ⟨l, handed⟩ := x.handTail_link (.note number) record
  have cleared : ∃ n l, (x.handTail (.note number) record).1.clearMarker number s.link.nextId = { s with
      notes := n
      link := l } ∧ n.nextNumber = s.notes.nextNumber ∧ n.entries = s.notes.entries := by
    rw [handed]
    exact ⟨_, l, frame _ l, next, (State.clearMarker_records _ _ { x with link := l }).trans marked⟩
  unfold State.sendNote
  dsimp only
  rw [← hx]
  split
  · exact cleared
  · exact cleared
  · rw [handed]
    exact ⟨x.notes, l, frame _ l, next, marked⟩

theorem State.queueWrite_note (number : Nat) (record : List Byte) (next : Nat) (s : State) :
    s.queueWrite (.note number record next) = s.modRetention fun r => { r with
      queue := r.queue ++ [.note number record next]
      writeTimer := if r.queue.isEmpty then s.after Config.writeMs else r.writeTimer } := if_neg (by simp [Write.needless])

/-- The state with its note issued. -/
structure State.IssuesTo (s t : State) : Prop where
  rest : t = { s with
    notes := t.notes
    retention := t.retention
    link := t.link }
  mem : t.retention.mem = s.retention.mem
  held : t.retention.held = s.retention.held
  queue : t.retention.queue =
    s.retention.queue ++ [.note s.notes.nextNumber (s.noteRecord s.notes.nextNumber) t.notes.nextNumber]
  store : t.notes.entries = s.notes.entries ++ [(s.notes.nextNumber, s.noteRecord s.notes.nextNumber)]

theorem State.issueNote_issuesTo (s : State) : s.IssuesTo s.issueNote := by
  obtain ⟨x, hx⟩ : ∃ x : State, x = s.modNotes fun y => { y with
    store := y.store ++ [⟨s.notes.nextNumber, s.noteRecord s.notes.nextNumber, none⟩]
    nextNumber := advanceNumber s.notes.store s.notes.nextNumber
    issueWaiting := false } := ⟨_, rfl⟩
  have stored : x.notes.entries = s.notes.entries ++ [(s.notes.nextNumber, s.noteRecord s.notes.nextNumber)] := by
    rw [hx]
    exact List.map_append
  obtain ⟨y, hy⟩ : ∃ y, y = x.queueWrite (.note s.notes.nextNumber (s.noteRecord s.notes.nextNumber)
    (advanceNumber s.notes.store s.notes.nextNumber)) := ⟨_, rfl⟩
  obtain ⟨n, l, sent, next, entries⟩ := y.sendNote_eq s.notes.nextNumber (s.noteRecord s.notes.nextNumber)
  have issued : s.issueNote = { y with
      notes := n
      link := l } := by
    unfold State.issueNote
    dsimp only
    rw [← hx, ← hy]
    exact sent
  rw [State.queueWrite_note] at hy
  have notes : y.notes = x.notes := by rw [hy]; rfl
  rw [issued]
  refine ⟨by rw [hy, hx]; rfl, by rw [hy, hx]; rfl, by rw [hy, hx]; rfl, ?_, entries.trans (notes ▸ stored)⟩
  dsimp only
  rw [next, hy, hx]
  rfl

/-! ## Steps 3 to 5 (R52, R74) -/

theorem State.closeSession_rest (s : State) : s.sessionClosed.SameButLink s.closeSession := by
  rw [State.closeSession_eq]
  exact State.composeState_sameButLink _

theorem State.sessionClosed_arm (s : State) (a : ArmId) : s.sessionClosed.arm a = (s.arm a).disowned := vec4_get _ a

/-! ## The completion -/

/-- With no batch started the session is closed at once. -/
theorem State.completeEnding_unstarted (ending : s.session.state = .ending) (closed : s.allClosed = true)
    (none : ¬ s.hasStarted) : s.completeEnding = s.settleBatches.closeSession := by
  have still : ¬ s.settleBatches.anyStarted = true := fun any => none (s.settleBatches_settlesTo.batches.anyStarted.mp any)
  exact (if_pos ⟨ending, closed⟩).trans (if_neg still)

/-- A removal that waits, or a write queue without a place, holds the issue up (R172, R177). -/
def State.Room (s : State) : Prop := s.notes.outbox = [] ∧ s.retention.queue.length < 4

theorem State.issueFits_iff : s.issueFits = true ↔ s.Room := by
  unfold State.issueFits Retention.hasRoom State.Room
  rw [Bool.and_eq_true, List.isEmpty_iff]
  exact and_congr_right' decide_eq_true_iff

theorem State.SettlesTo.room (h : s.SettlesTo t) : t.Room ↔ s.Room := by
  have notes : t.notes = s.notes := by rw [h.rest]
  have retention : t.retention = s.retention := by rw [h.rest]
  unfold State.Room
  rw [notes, retention]

theorem State.completeEnding_started (ending : s.session.state = .ending) (closed : s.allClosed = true)
    (some : s.hasStarted) : s.completeEnding = s.settleBatches.offerIssue :=
  (if_pos ⟨ending, closed⟩).trans (if_pos (s.settleBatches_settlesTo.batches.anyStarted.mpr some))

theorem State.completeEnding_issues (ending : s.session.state = .ending) (closed : s.allClosed = true)
    (some : s.hasStarted) (room : s.Room) : s.completeEnding = s.settleBatches.issueNote.closeSession :=
  (State.completeEnding_started ending closed some).trans
    (if_pos (State.issueFits_iff.mpr (s.settleBatches_settlesTo.room.mpr room)))

theorem State.completeEnding_waits (ending : s.session.state = .ending) (closed : s.allClosed = true)
    (some : s.hasStarted) (full : ¬ s.Room) :
    s.completeEnding = s.settleBatches.modNotes fun x => { x with issueWaiting := true } :=
  (State.completeEnding_started ending closed some).trans
    (if_neg fun fits => full (s.settleBatches_settlesTo.room.mp (State.issueFits_iff.mp fits)))

theorem State.completeEnding_open (opened : s.allClosed = false) : s.completeEnding = s :=
  if_neg fun both => Bool.false_ne_true (opened.symm.trans both.2)

end Sys2Proof.Machine
end

section
/-! How a session ends, and what its completion leaves (R48 to R52, R73, R74, R172; O21). -/

namespace Sys2Proof.Machine

variable {s t x y z : State} {a : ArmId} {k : CompId} {h : HeaderId} {r : Reason}

/-! ## The session closed (R52, R74) -/

/-- The state with an ENDING session closed. -/
structure State.ClosedTo (s t : State) : Prop where
  session : t.session = s.session.closed
  batches : t.batches = Vector.replicate 8 none
  startQueue : t.startQueue = []
  arm : ∀ a, t.arm a = (s.arm a).disowned
  header : ∀ h, ∃ w, t.header h = { s.header h with retryWait := w }

theorem State.ClosedTo.claimsFall (c : s.ClosedTo t) : s.ClaimsFall t := by
  refine ⟨fun h => .inl ?_, fun a => .inl (by rw [c.arm]; rfl)⟩
  obtain ⟨w, same⟩ := c.header h
  rw [same]

/-- The batches settled, and perhaps the note issued, the session is closed. -/
theorem State.SettlesTo.closes (settled : s.SettlesTo y) (rest : z = { y with
    notes := z.notes
    retention := z.retention
    link := z.link }) : s.ClosedTo z.closeSession := by
  have arms : z.arms = s.arms := by rw [rest, settled.rest]
  have headers : z.headers = y.headers := by rw [rest]
  have session : z.session = s.session := by rw [rest, settled.rest]
  have queue : z.startQueue = [] := by rw [rest, settled.rest]
  rw [z.closeSession_rest]
  refine ⟨congrArg Session.closed session, rfl, queue, fun a => ?_, fun h => ?_⟩
  · exact (z.sessionClosed_arm a).trans (by unfold State.arm; rw [arms])
  · obtain ⟨w, cleared⟩ := settled.headers h
    exact ⟨w, (congrArg (fun v : Vector Header 8 => v[h]) headers).trans cleared⟩

theorem State.SettlesTo.closes_unissued (settled : s.SettlesTo y) : s.ClosedTo y.closeSession := settled.closes rfl

theorem State.SettlesTo.closes_issued (settled : s.SettlesTo y) : s.ClosedTo y.issueNote.closeSession :=
  settled.closes y.issueNote_issuesTo.rest

/-- What the completion does to the session: with no batch started, or with room for the note, it closes it. -/
theorem State.completeEnding_closes (ending : s.session.state = .ending) (closed : s.allClosed = true)
    (fits : ¬ s.hasStarted ∨ s.Room) : s.ClosedTo s.completeEnding := by
  by_cases started : s.hasStarted
  · rw [State.completeEnding_issues ending closed started (fits.resolve_left fun none => none started)]
    exact s.settleBatches_settlesTo.closes_issued
  · rw [State.completeEnding_unstarted ending closed started]
    exact s.settleBatches_settlesTo.closes_unissued

theorem State.completeEnding_claimsFall (ending : s.session.state = .ending) : s.ClaimsFall s.completeEnding := by
  cases closed : s.allClosed with
  | false =>
    rw [State.completeEnding_open closed]
    exact .refl s
  | true =>
    by_cases fits : ¬ s.hasStarted ∨ s.Room
    · exact (State.completeEnding_closes ending closed fits).claimsFall
    · obtain ⟨started, full⟩ := not_or.mp fits
      rw [State.completeEnding_waits ending closed (not_not.mp started) full]
      have settled := s.settleBatches_settlesTo
      refine ⟨fun h => .inl ?_, fun a => .inl ?_⟩
      · obtain ⟨w, cleared⟩ := settled.headers h
        exact (congrArg Header.slot cleared :)
      · have arms : s.settleBatches.arms = s.arms := by rw [settled.rest]
        exact congrArg (fun v : Vector Arm 4 => v[a].reserved) arms

theorem State.completeEnding_startQueue (ending : s.session.state = .ending) (closed : s.allClosed = true) :
    s.completeEnding.startQueue = [] := by
  by_cases fits : ¬ s.hasStarted ∨ s.Room
  · exact (State.completeEnding_closes ending closed fits).startQueue
  · obtain ⟨started, full⟩ := not_or.mp fits
    rw [State.completeEnding_waits ending closed (not_not.mp started) full]
    exact congrArg State.startQueue s.settleBatches_settlesTo.rest

/-! ## Notes and writes at the completion (R172) -/

theorem State.completeEnding_unstarted_notes (ending : s.session.state = .ending) (closed : s.allClosed = true)
    (none : ¬ s.hasStarted) : s.completeEnding.notes = s.notes ∧ s.completeEnding.retention = s.retention := by
  rw [State.completeEnding_unstarted ending closed none, State.closeSession_rest]
  have rest := s.settleBatches_settlesTo.rest
  exact ⟨by rw [rest]; rfl, by rw [rest]; rfl⟩

/-- The note of a completion with room: stored, its write queued (R172). -/
structure State.Issued (s t : State) (record : List Byte) : Prop where
  store : t.notes.entries = s.notes.entries ++ [(s.notes.nextNumber, record)]
  queue : t.retention.queue = s.retention.queue ++ [.note s.notes.nextNumber record t.notes.nextNumber]
  mem : t.retention.mem = s.retention.mem

theorem State.completeEnding_issued (ending : s.session.state = .ending) (closed : s.allClosed = true)
    (started : s.hasStarted) (room : s.Room) :
    s.Issued s.completeEnding (s.settleBatches.noteRecord s.notes.nextNumber) := by
  have issued := s.settleBatches.issueNote_issuesTo
  have notes : s.settleBatches.notes = s.notes := by rw [s.settleBatches_settlesTo.rest]
  have retention : s.settleBatches.retention = s.retention := by rw [s.settleBatches_settlesTo.rest]
  have store := issued.store
  have queue := issued.queue
  have mem := issued.mem
  rw [notes] at store queue
  rw [retention] at queue mem
  rw [State.completeEnding_issues ending closed started room, State.closeSession_rest]
  exact ⟨store, queue, mem⟩

/-- The settled part whose completion waits for room. -/
theorem State.completeEnding_waiting (ending : s.session.state = .ending) (closed : s.allClosed = true)
    (started : s.hasStarted) (full : ¬ s.Room) : s.completeEnding.session = s.session ∧
      s.completeEnding.notes = { s.notes with issueWaiting := true } ∧ s.completeEnding.retention = s.retention ∧
      ∀ k, s.completeEnding.batch k = (s.batch k).bind settledBatch := by
  have settled := s.settleBatches_settlesTo
  have notes : s.settleBatches.notes = s.notes := by rw [settled.rest]
  rw [State.completeEnding_waits ending closed started full]
  exact ⟨s.settleBatches_session, congrArg (fun n : Notes => { n with issueWaiting := true }) notes,
    by rw [settled.rest]; rfl, settled.batches⟩

/-! ## An ADMITTED session ended -/

/-- How an ADMITTED session ends, its cause apart (R51, R52). -/
structure State.EndsTo (r : Reason) (s t : State) : Prop where
  session : t.session.endReason = some r ∧ t.session.idle = none ∧ t.session.socketTimer = none ∧
    t.session.start = s.session.start ∧ t.session.outcome = s.session.outcome
  beside : t.cfg = s.cfg ∧ t.peers = s.peers ∧ t.clock = s.clock ∧ t.revoked = s.revoked
  noFlow : t.noFlow
  low : t.LowFree
  opened : s.allClosed = false → t.session.state = .ending ∧ t.session.permit = s.session.permit ∧ t.batches = s.batches ∧
    t.startQueue = s.startQueue ∧ t.notes = s.notes ∧ t.retention = s.retention
  emptied : s.allClosed = true → t.startQueue = []
  closed : s.allClosed = true → ¬ s.hasStarted ∨ s.Room → t.session.state = .none ∧ t.session.permit = none ∧
    t.session.tag = none ∧ t.session.latches = Vector.replicate 4 false ∧ t.batches = Vector.replicate 8 none ∧
    ∀ a, (t.arm a).owner = none ∧ (t.arm a).meterCause = false ∧ (t.arm a).leakCause = (s.arm a).leakCause ∧
      (t.arm a).grossTotal = (s.arm a).grossTotal ∧ (t.arm a).closeAhead = (s.arm a).closeAhead
  unstarted : s.allClosed = true → ¬ s.hasStarted → t.notes = s.notes ∧ t.retention = s.retention
  issued : s.allClosed = true → s.hasStarted → s.Room → ∃ record, s.NoteOf s.notes.nextNumber (some r) record ∧ s.Issued t record
  waits : s.allClosed = true → s.hasStarted → ¬ s.Room → t.session.state = .ending ∧ t.notes.issueWaiting = true ∧
    t.notes.store = s.notes.store ∧ t.retention = s.retention ∧ t.session.permit = s.session.permit

theorem SharesMove.sameFigures (m : SharesMove s t) : s.SameFigures t := fun a => ⟨m.owner a, m.live a⟩

theorem State.enterEnding_endsTo (r : Reason) (admitted : s.session.state = .admitted) (hr : s.restart = false) :
    s.EndsTo r (s.enterEnding r) := by
  have beside : s.Beside (s.enterEnding r) := (s.enterEnding_touch r).beside
  have sessions := State.enterEnding_session r admitted
  obtain ⟨x, hx⟩ : ∃ x, x = s.endingBegun r := ⟨_, rfl⟩
  have same : (s.endNamed r).SameButFlow x := hx ▸ s.endingBegun_sameButFlow r
  have ending : x.session.state = .ending := by rw [same.session]; rfl
  have batches : x.batches = s.batches := same.sameLoad.batches
  have notes : x.notes = s.notes := same.sameLoad.notes
  have retention : x.retention = s.retention := same.sameLoad.retention
  have started : x.hasStarted ↔ s.hasStarted := by unfold State.hasStarted; rw [batches]
  have room : x.Room ↔ s.Room := by unfold State.Room; rw [notes, retention]
  have shares (closed : s.allClosed = true) : SharesMove (s.endNamed r) x := hx ▸ State.endingBegun_closed r closed
  have allClosed (closed : s.allClosed = true) : x.allClosed = true :=
    State.allClosed_iff.mpr fun a => ((shares closed).stage a).trans (State.allClosed_iff.mp closed a)
  rw [State.enterEnding_eq r admitted, ← hx] at beside sessions ⊢
  refine ⟨?_, ⟨beside.cfg, beside.peers, beside.clock, beside.revoked⟩, fun a => ?_, ?_, fun opened => ?_, fun closed => ?_,
    fun closed fits => ?_, fun closed none => ?_, fun closed some fits => ?_, fun closed some full => ?_⟩
  · rcases sessions with e | e <;> rw [e] <;> exact ⟨rfl, rfl, rfl, rfl, rfl⟩
  · exact x.completeEnding_touch.mono.noFlow a (hx ▸ State.endingBegun_noFlow r hr a)
  · exact (hx ▸ s.endingBegun_lowFree r : x.LowFree).falls (State.completeEnding_claimsFall ending)
  · rw [State.completeEnding_open (hx ▸ State.endingBegun_opened r opened), same.session]
    exact ⟨rfl, rfl, batches, same.sameLoad.startQueue, notes, retention⟩
  · exact State.completeEnding_startQueue ending (allClosed closed)
  · have done := State.completeEnding_closes ending (allClosed closed) (fits.imp (mt started.mp) room.mpr)
    rw [done.session, done.batches]
    refine ⟨rfl, rfl, rfl, rfl, rfl, fun a => ?_⟩
    have kept := (shares closed).arm a
    rw [done.arm]
    exact ⟨rfl, rfl, (congrArg Arm.leakCause kept :), (congrArg Arm.grossTotal kept :), (congrArg Arm.closeAhead kept :)⟩
  · rw [← notes, ← retention]
    exact State.completeEnding_unstarted_notes ending (allClosed closed) (mt started.mp none)
  · have settled := x.settleBatches_settlesTo
    have issued := State.completeEnding_issued ending (allClosed closed) (started.mpr some) (room.mpr fits)
    have figures : s.SameFigures x.settleBatches := fun a => by
      rw [show x.settleBatches.arm a = x.arm a by rw [settled.rest]; rfl]
      exact (shares closed).sameFigures a
    have batch : s.BatchesSettled x.settleBatches := fun k =>
      (settled.batches k).trans (congrArg (fun v : Vector (Option Batch) 8 => v[k].bind settledBatch) batches)
    have session : x.settleBatches.session = s.session.ended r := x.settleBatches_session.trans same.session
    have note := batch.noteOf figures (by rw [settled.rest]; exact same.cfg) (by rw [settled.rest]; exact same.sameLoad.clock)
      (by rw [session]; rfl) (by rw [session]; rfl) (by rw [session]; rfl) s.notes.nextNumber
    rw [show x.settleBatches.session.endReason = Option.some r by rw [session]; rfl] at note
    exact ⟨_, note, notes ▸ issued.store, notes ▸ retention ▸ issued.queue, retention ▸ issued.mem⟩
  · obtain ⟨session, waiting, kept, -⟩ :=
      State.completeEnding_waiting ending (allClosed closed) (started.mpr some) (mt room.mp full)
    rw [session, waiting, kept, same.session, notes, retention]
    exact ⟨rfl, rfl, rfl, rfl, rfl⟩

/-! ## FINISH and the two timers -/

/-- A restarted idle timer does not matter to the end of the session. -/
theorem State.EndsTo.of_asked (e : s.asked.EndsTo r t) : s.EndsTo r t where
  session := e.session
  beside := e.beside
  noFlow := e.noFlow
  low := e.low
  opened := e.opened
  emptied := e.emptied
  closed := e.closed
  unstarted := e.unstarted
  issued closed some room := by
    obtain ⟨record, note, issued⟩ := e.issued closed some room
    exact ⟨record, ⟨⟨note.head.number, note.head.station, note.head.permit, note.head.tanker, note.head.start,
      note.head.closed, note.head.reason⟩, note.count, note.lines⟩, issued.store, issued.queue, issued.mem⟩
  waits := e.waits

/-- Nor does the answer on the panel line. -/
theorem State.EndsTo.answered (e : s.EndsTo r t) (answer : Answer) : s.EndsTo r (t.answered answer) where
  session := e.session
  beside := e.beside
  noFlow := e.noFlow
  low := e.low
  opened := e.opened
  emptied := e.emptied
  closed := e.closed
  unstarted := e.unstarted
  issued closed some room := by
    obtain ⟨record, note, issued⟩ := e.issued closed some room
    exact ⟨record, note, issued.store, issued.queue, issued.mem⟩
  waits := e.waits

theorem exec_finish (asks : s.Asks) : exec .finish s = .next (s.asked.finishSession.1.answer s.asked.finishSession.2) :=
  congrArg Host.Outcome.next (State.request_asks asks State.finishSession)

theorem exec_finish_refused {why : Reason} (asks : s.Asks) (refused : s.asked.finishSession = (s.asked, .refused why)) :
    exec .finish s = .next (s.asked.answered (.refused why)) := by
  rw [exec_finish asks, refused]
  exact congrArg Host.Outcome.next (State.answer_eq (s := s.asked) asks.clear _)

theorem exec_finish_accepted (asks : s.Asks) (admitted : s.session.state = .admitted) (closed : s.allClosed = true) :
    exec .finish s = .next ((s.asked.enterEnding .finished).answered (.accepted [])) := by
  have accepted : s.asked.finishSession = (s.asked.enterEnding .finished, .accepted []) := by
    have state : s.asked.session.state = .admitted := admitted
    unfold State.finishSession
    rw [state]
    exact if_pos closed
  have clear : (s.asked.enterEnding .finished).panel.discarding = false := by
    rw [((s.asked.enterEnding_touch .finished).beside).panel]
    exact asks.clear
  rw [exec_finish asks, accepted, State.answer_eq clear]

theorem exec_finish_unadmitted (asks : s.Asks) (h : s.session.state = .none ∨ s.session.state = .checking) :
    exec .finish s = .next (s.asked.answered (.refused .noSession)) := by
  refine exec_finish_refused asks ?_
  have state : s.asked.session.state = s.session.state := rfl
  unfold State.finishSession
  rcases h with h | h <;> rw [state, h]

theorem exec_finish_busy (asks : s.Asks) (admitted : s.session.state = .admitted) (opened : s.allClosed = false) :
    exec .finish s = .next (s.asked.answered (.refused .busy)) := by
  refine exec_finish_refused asks ?_
  have state : s.asked.session.state = .admitted := admitted
  have arms : s.asked.allClosed = false := opened
  unfold State.finishSession
  rw [state, arms]
  rfl

theorem exec_finish_ending (asks : s.Asks) (ending : s.session.state = .ending) :
    exec .finish s = .next (s.asked.answered (.refused .wrongState)) := by
  refine exec_finish_refused asks ?_
  have state : s.asked.session.state = .ending := ending
  unfold State.finishSession
  rw [state]

/-- FINISH accepted and the two timers' expiries end the session, each with its reason; FINISH is answered ACCEPTED. -/
theorem exec_ends {c : Instr} (h : (c = .finish ∧ r = .finished ∧ s.Asks ∧ s.allClosed = true) ∨
      (c = .idleTimerExpiry ∧ r = .idle ∧ s.session.idle ≠ none) ∨
      (c = .socketTimerExpiry ∧ r = .tankerGone ∧ s.session.socketTimer ≠ none))
    (admitted : s.session.state = .admitted) (hr : s.restart = false) : ∃ t, exec c s = .next t ∧ s.EndsTo r t ∧
      t.panel = if c = .finish then ⟨.answering, some (.accepted []), false⟩ else s.panel := by
  have ends := State.enterEnding_endsTo r admitted hr
  have panel : (s.enterEnding r).panel = s.panel := ((s.enterEnding_touch r).beside).panel
  obtain ⟨rfl, rfl, asks, closed⟩ | ⟨rfl, rfl, runs⟩ | ⟨rfl, rfl, runs⟩ := h
  · have asked := State.enterEnding_endsTo (s := s.asked) .finished admitted hr
    exact ⟨_, exec_finish_accepted asks admitted closed, asked.of_asked.answered _, (if_pos rfl).symm⟩
  · exact ⟨_, congrArg Host.Outcome.next (if_neg runs), ends, panel.trans (if_neg nofun).symm⟩
  · exact ⟨_, congrArg Host.Outcome.next (if_neg runs), ends, panel.trans (if_neg nofun).symm⟩

/-- Settles O21: the end is one entry to ENDING whatever its cause; its completion by the arms, the batches and the room for
the note. -/
theorem sessionEnding : Obligations.SessionEnding := by
  refine ⟨fun s c r cause admitted hr => ?_, fun s asks => ⟨exec_finish_unadmitted asks, exec_finish_busy asks,
    exec_finish_ending asks⟩⟩
  obtain ⟨t, runs, ends, panel⟩ := exec_ends cause admitted hr
  obtain ⟨reason, idle, socket, start, outcome⟩ := ends.session
  obtain ⟨cfg, peers, clock, revoked⟩ := ends.beside
  refine ⟨t, runs, reason, idle, socket, start, outcome, cfg, peers, clock, revoked, ends.noFlow, ends.low.1, panel,
    ends.low.2, ends.opened, ends.emptied, ends.closed, ends.unstarted, fun closed some room => ?_, ends.waits⟩
  obtain ⟨record, note, issued⟩ := ends.issued closed some room
  exact ⟨⟨s.notes.nextNumber, record, none⟩, issued.store, rfl, note, issued.queue, issued.mem⟩

end Sys2Proof.Machine
end

section
/-! The completion of a close up to its batch's outcome (R102, R136, R137): what each step does to the arm, its owner batch,
its header's share and the write queue. -/

namespace Sys2Proof.Machine

variable {s t u : State} {a : ArmId} {m : Arm} {g : Batch → Batch} {n : Nat} {r : Retention}

/-! ## What the steps are seen in -/

/-- An arm less its reservation, step-up state, METER cause, yield mark and dosing figures. -/
def Arm.seen (m : Arm) : Arm := { m.metered with yieldMark := false }

/-- A batch less its line flags other than SHORT. -/
def Batch.plain (b : Batch) : Batch := { b with flags := ⟨false, false, b.flags.short, false, false⟩ }

theorem Arm.seen_of_sansShares {m n : Arm} (h : m.sansShares = n.sansShares) : m.seen = n.seen := by
  show m.sansShares.seen = n.sansShares.seen
  rw [h]

theorem Arm.field_of_seen {β : Type} (f : Arm → β) {m n : Arm} (h : m.seen = n.seen)
    (hf : ∀ m : Arm, f m.seen = f m := by intro _; rfl) : f m = f n := by rw [← hf m, h, hf]

/-- Nothing but arms, headers, batches, the retention block, the link and the free values has changed. -/
def State.CloseFrame (s t : State) : Prop := t = { s with
  arms := t.arms
  headers := t.headers
  batches := t.batches
  retention := t.retention
  link := t.link
  periodTimer := t.periodTimer
  freeDraws := t.freeDraws }

theorem State.CloseFrame.trans (h : s.CloseFrame t) (k : t.CloseFrame u) : s.CloseFrame u :=
  Eq.trans k (congrArg (fun x : State => { x with
    arms := u.arms
    headers := u.headers
    batches := u.batches
    retention := u.retention
    link := u.link
    periodTimer := u.periodTimer
    freeDraws := u.freeDraws }) h)

theorem SharesMove.closeFrame (h : SharesMove s t) : s.CloseFrame t := by
  have same := h.sameButFlow
  unfold State.SameButFlow at same
  unfold State.CloseFrame
  rw [h.injectors] at same
  rw [h.batches, h.retention, h.freeDraws]
  exact same

/-- The part within the completion of a close on arm `a`: the arm as `m`, its owner batch as `g` makes it, its header's share
`n`, the retention block `r`, all else but the flow side as it was. -/
structure State.CloseView (a : ArmId) (m : Arm) (g : Batch → Batch) (n : Nat) (r : Retention) (s t : State) : Prop where
  rest : s.CloseFrame t
  others : ∀ b, b ≠ a → (t.arm b).sansShares = (s.arm b).sansShares
  self : (t.arm a).seen = m.seen
  batches : ∀ k, (t.batch k).map Batch.plain =
    (s.batch k).map fun b => (if (s.arm a).owner = some k then g b else b).plain
  ownShare : (t.header (s.armCfg a).header).ownShare = n
  retention : t.retention = r

namespace State.CloseView

theorem refl (a : ArmId) (s : State) :
    s.CloseView a (s.arm a) id (s.header (s.armCfg a).header).ownShare s.retention s where
  rest := rfl
  others _ _ := rfl
  self := rfl
  batches k := congrArg (fun f => (s.batch k).map f) (funext fun b => congrArg Batch.plain (ite_self b).symm)
  ownShare := rfl
  retention := rfl

variable (v : State.CloseView a m g n r s t)
include v

theorem cfg : t.cfg = s.cfg := by rw [v.rest]

theorem now : t.now = s.now := by rw [v.rest]

theorem armCfg : t.armCfg a = s.armCfg a := congrArg (fun c : ConfigImage => c.arms[a]) v.cfg

theorem field {β : Type} (f : Arm → β) (hf : ∀ m : Arm, f m.seen = f m := by intro _; rfl) : f (t.arm a) = f m :=
  Arm.field_of_seen f v.self hf

theorem shares (h : SharesMove t u) : State.CloseView a m g n r s u where
  rest := v.rest.trans h.closeFrame
  others b hb := (h.arm b).trans (v.others b hb)
  self := (Arm.seen_of_sansShares (h.arm a)).trans v.self
  batches k := by
    have same : u.batch k = t.batch k := congrArg (fun x : Vector (Option Batch) 8 => x[k]) h.batches
    rw [same]
    exact v.batches k
  ownShare := (h.ownShare _).trans v.ownShare
  retention := h.retention.trans v.retention

/-- A change of the arm alone. -/
theorem modArm (f : Arm → Arm) (hf : ∀ m, (f m).seen = (f m.seen).seen := by intro _; rfl) :
    State.CloseView a (f m) g n r s (t.modArm a f) where
  rest := v.rest.trans rfl
  others b hb := by
    rw [State.arm_modArm, if_neg hb]
    exact v.others b hb
  self := by
    rw [State.arm_modArm_self, hf, v.self, ← hf]
  batches := v.batches
  ownShare := v.ownShare
  retention := v.retention

/-- A change of the arm that is not seen. -/
theorem unseen (f : Arm → Arm) (hf : ∀ m, (f m).seen = m.seen := by intro _; rfl) :
    State.CloseView a m g n r s (t.modArm a f) := by
  have step := v.modArm f fun m => (hf m).trans ((hf m.seen).trans rfl).symm
  exact { step with self := step.self.trans (hf m) }

/-- A change of batches: the owner batch by `h`, any line's flags. -/
theorem onBatches (h : Batch → Batch) (hh : ∀ b, (h b).plain = (h b.plain).plain := by intro _; rfl)
    (owner : m.owner = (s.arm a).owner) (rest : u = { t with batches := u.batches })
    (each : ∀ k, (u.batch k).map Batch.plain = (t.batch k).map fun b => (if m.owner = some k then h b else b).plain) :
    State.CloseView a m (h ∘ g) n r s u := by
  refine ⟨?_, fun b hb => ?_, ?_, fun k => ?_, ?_, ?_⟩
  · exact v.rest.trans (by rw [rest]; rfl)
  · rw [rest]
    exact v.others b hb
  · rw [rest]
    exact v.self
  · have before := v.batches k
    rw [each k, owner]
    by_cases own : (s.arm a).owner = some k
    · simp only [if_pos own] at before ⊢
      have through (x : Option Batch) : x.map (fun b => (h b).plain) = (x.map Batch.plain).map fun b => (h b).plain := by
        rw [Option.map_map]
        exact congrArg (fun f => x.map f) (funext hh)
      rw [through, before, Option.map_map]
      exact congrArg (fun f => (s.batch k).map f) (funext fun b => (hh (g b)).symm)
    · simp only [if_neg own] at before ⊢
      exact before
  · rw [rest]
    exact v.ownShare
  · rw [rest]
    exact v.retention

/-- Flags of a line other than SHORT. -/
theorem flagLine (k : CompId) (f : LineFlags → LineFlags) (hf : ∀ x, (f x).short = x.short := by intro _; rfl) :
    State.CloseView a m g n r s (t.flagLine k f) where
  rest := v.rest.trans rfl
  others := v.others
  self := v.self
  batches j := by
    have flags (b : Batch) : ({ b with flags := f b.flags } : Batch).plain = b.plain := by
      unfold Batch.plain
      rw [hf]
    unfold State.flagLine
    rw [State.batch_modBatch, ← v.batches j]
    split
    · rw [Option.map_map]
      exact congrArg (fun h => (t.batch j).map h) (funext flags)
    · rfl
  ownShare := v.ownShare
  retention := v.retention

theorem flagOwner (f : LineFlags → LineFlags) (hf : ∀ x, (f x).short = x.short := by intro _; rfl) :
    State.CloseView a m g n r s (t.flagOwner a f) := by
  unfold State.flagOwner
  split
  · exact v.flagLine _ f hf
  · exact v

/-- The retention block alone. -/
theorem retain (r' : Retention) : State.CloseView a m g n r' s { t with retention := r' } where
  rest := v.rest.trans rfl
  others := v.others
  self := v.self
  batches := v.batches
  ownShare := v.ownShare
  retention := rfl

end State.CloseView

/-! ## The partial slice (R102) -/

/-- A batch with its pending preset applied (R129). -/
def Batch.presetApplied (b : Batch) : Batch := { b with
  preset := b.pendPreset.getD b.preset
  pendPreset := none }

theorem State.ownerBatch_eq_some {k : CompId} {b : Batch} :
    s.ownerBatch a = some (k, b) ↔ (s.arm a).owner = some k ∧ s.batch k = some b := by
  unfold State.ownerBatch
  cases (s.arm a).owner with
  | none => simp
  | some c =>
    simp only [Option.bind_some, Option.map_eq_some_iff, Prod.mk.injEq, Option.some.injEq]
    constructor
    · rintro ⟨x, held, rfl, rfl⟩
      exact ⟨rfl, held⟩
    · rintro ⟨rfl, held⟩
      exact ⟨b, held, rfl, rfl⟩

theorem State.ownerBatch_eq_none : s.ownerBatch a = none ↔ ∀ k, (s.arm a).owner = some k → s.batch k = none := by
  unfold State.ownerBatch
  cases (s.arm a).owner with
  | none => simp
  | some c => simp

theorem Batch.presetApplied_of_some {b : Batch} {p : Nat} (h : b.pendPreset = some p) : ({ b with
    preset := p
    pendPreset := none } : Batch) = b.presetApplied := by
  unfold Batch.presetApplied
  rw [h]
  rfl

theorem Batch.presetApplied_of_none {b : Batch} (h : b.pendPreset = none) : b.presetApplied = b := by
  obtain ⟨grade, preset, pend, rest⟩ := b
  cases h
  rfl

theorem State.modBatch_congr {k : CompId} {b : Batch} {f g : Batch → Batch} (held : s.batch k = some b) (h : f b = g b) :
    s.modBatch k f = s.modBatch k g := by
  have same : (s.batch k).map f = (s.batch k).map g := by rw [held, Option.map_some, Option.map_some, h]
  exact congrArg (fun x => s.setBatch k x) same

theorem State.modBatch_id {k : CompId} {b : Batch} {f : Batch → Batch} (held : s.batch k = some b) (h : f b = b) :
    s.modBatch k f = s := by
  have same : (s.batch k).map f = s.batches[k] := by rw [held, Option.map_some, h]; exact held.symm
  have set : s.batches.set k ((s.batch k).map f) = s.batches := by rw [same]; exact Vector.set_getElem_self _
  exact congrArg (fun v => { s with batches := v }) set

/-- On an arm that does not flow a pending preset is applied and nothing more (R129). -/
theorem State.applyPreset_shut {k : CompId} {b : Batch} (held : s.ownerBatch a = some (k, b))
    (shut : (s.arm a).stage.flowing = false) : s.applyPreset a false = s.modBatch k Batch.presetApplied := by
  have batch := (State.ownerBatch_eq_some.mp held).2
  unfold State.applyPreset
  rw [held]
  dsimp only
  split
  · rename_i none
    exact (State.modBatch_id batch (Batch.presetApplied_of_none none)).symm
  · rename_i p pending
    rw [State.arm_modBatch, shut, Bool.false_and, Bool.false_and, if_neg Bool.false_ne_true]
    exact State.modBatch_congr batch (g := Batch.presetApplied) (Batch.presetApplied_of_some pending)

/-- Of the stage tests a partial slice takes the preset alone (R128). -/
theorem State.stageTests_partial (atRelease : Bool) : s.stageTests a true atRelease = s.applyPreset a atRelease := rfl

namespace State.CloseView

variable (v : State.CloseView a m g n r s t)
include v

theorem addSlice (f : SliceFigures) : State.CloseView a (m.added t.freeDraws f) g n r s (t.addSlice a f) := by
  have added : State.CloseView a (m.added t.freeDraws f) g n r s
      ({ t.modArm a (Arm.added t.freeDraws f) with freeDraws := t.freeDraws + 3 }) :=
    let step := v.modArm (Arm.added t.freeDraws f)
    ⟨step.rest.trans rfl, step.others, step.self, step.batches, step.ownShare, step.retention⟩
  have flagged {x : State} {m : Arm} (h : State.CloseView a m g n r s x) (c : Bool) (f : LineFlags → LineFlags)
      (hf : ∀ x, (f x).short = x.short) : State.CloseView a m g n r s (if c = true then x.flagOwner a f else x) := by
    split
    · exact h.flagOwner f hf
    · exact h
  exact flagged (flagged added _ LineFlags.setTempHeld fun _ => rfl) _ LineFlags.setCtlClamped fun _ => rfl

theorem shutStage (shut : m.stage.flowing = false) : (t.arm a).stage.flowing = false := by
  rw [v.field Arm.stage]
  exact shut

theorem dose (shut : m.stage.flowing = false) (k : Nat) : State.CloseView a m g n r s (t.dose a k false) := by
  unfold State.dose
  split
  · exact v
  · split
    · exact v
    · rename_i b _ _ _ _
      obtain ⟨x, hx⟩ : ∃ x, x = t.modArm a fun m =>
          { m with live := { m.live with owed := m.live.owed + k * (t.gradeCfg b.grade).ratio } } := ⟨_, rfl⟩
      have owed : State.CloseView a m g n r s x := hx ▸ v.unseen _
      have undue (i : InjectorId) : x.shotDue a b i false = false := by
        unfold State.shotDue
        rw [owed.shutStage shut]
        simp
      dsimp only
      rw [← hx]
      split
      · exact owed
      · rw [undue, if_neg Bool.false_ne_true]
        exact owed

theorem dualPulse (shut : m.stage.flowing = false) (f : SliceFigures) : State.CloseView a m g n r s (t.dualPulse a f) := by
  have fault {x : State} (h : State.CloseView a m g n r s x) : State.CloseView a m g n r s (x.meterFault a) := by
    have told := (h.unseen fun m => { m with meterCause := true }).shares (State.recheckReservation_moves a _)
    unfold State.meterFault
    dsimp only
    rw [told.shutStage shut, if_neg Bool.false_ne_true]
    exact told
  have counted := v.unseen fun x => { x with live := { x.live with
    pulseErr := min 4294967295 ((t.arm a).live.pulseErr + mismatch f.pulses f.bCount) } }
  unfold State.dualPulse
  dsimp only
  split
  · split
    · exact fault counted
    · exact counted
  · exact v

/-- A pending preset is applied, no arm being stopped by it: the arm does not flow (R129). -/
theorem applyPreset (shut : m.stage.flowing = false) (owner : m.owner = (s.arm a).owner) :
    State.CloseView a m (Batch.presetApplied ∘ g) n r s (t.applyPreset a false) := by
  have own : (t.arm a).owner = m.owner := v.field Arm.owner
  cases held : t.ownerBatch a with
  | none =>
    have same : t.applyPreset a false = t := by unfold State.applyPreset; rw [held]
    rw [same]
    refine v.onBatches Batch.presetApplied (fun _ => rfl) owner rfl fun k => ?_
    by_cases e : m.owner = some k
    · rw [State.ownerBatch_eq_none.mp held k (own.trans e)]
      rfl
    · simp only [if_neg e]
  | some kb =>
    obtain ⟨c, b⟩ := kb
    obtain ⟨ownerC, batch⟩ := State.ownerBatch_eq_some.mp held
    have same := State.applyPreset_shut held (v.shutStage shut)
    rw [same]
    refine v.onBatches Batch.presetApplied (fun _ => rfl) owner rfl fun k => ?_
    rw [State.batch_modBatch, ← own, ownerC]
    by_cases e : k = c
    · subst e
      simp only [if_true, Option.map_map]
      rfl
    · simp only [if_neg e, Option.some.injEq, if_neg (Ne.symm e)]

theorem decideYield (shut : m.stage.flowing = false) : State.CloseView a m g n r s (t.decideYield a) := by
  have cleared := v.unseen fun m => { m with yieldMark := false }
  have steps : ((t.arm a).stage == .full) = false := by
    have still := v.shutStage shut
    cases e : (t.arm a).stage <;> simp_all [Stage.flowing]
  unfold State.decideYield
  dsimp only
  rw [steps, Bool.false_and, if_neg Bool.false_ne_true]
  split
  · exact cleared
  · exact v

end State.CloseView

/-- An arm's counts at the end of a partial slice (R102). -/
def Arm.reloaded (slice : Nat) (m : Arm) : Arm := { m with
  sliceCounter := slice
  bCount := 0
  lastA := none
  sliceTimer := none }

theorem State.reload_partial (s : State) : s.reload a true = s.modArm a (Arm.reloaded (s.armCfg a).slice) := rfl

theorem State.CloseView.reload (v : State.CloseView a m g n r s t) :
    State.CloseView a (m.reloaded (s.armCfg a).slice) g n r s (t.reload a true) := by
  rw [State.reload_partial, v.armCfg]
  exact v.modArm _

theorem State.CloseView.startConversion (v : State.CloseView a m g n r s t) :
    State.CloseView a (m.startConversion s.now) g n r s (t.startConversion a) := by
  unfold State.startConversion
  rw [v.now]
  exact v.modArm _

/-- An arm as the partial slice of its close leaves it. -/
def State.slicedArm (s : State) (a : ArmId) : Arm :=
  (((s.arm a).added s.freeDraws (s.sliceFigures a true)).reloaded (s.armCfg a).slice).startConversion s.now

theorem Arm.added_stage (draws : Nat) (f : SliceFigures) (m : Arm) : (m.added draws f).stage = m.stage := rfl

theorem Arm.added_owner (draws : Nat) (f : SliceFigures) (m : Arm) : (m.added draws f).owner = m.owner := rfl

theorem State.closeSlice_view (shut : (s.arm a).stage.flowing = false) :
    State.CloseView a (s.slicedArm a) Batch.presetApplied (s.header (s.armCfg a).header).ownShare s.retention s
      (s.closeSlice a) := by
  obtain ⟨f, hf⟩ : ∃ f, f = s.sliceFigures a true := ⟨_, rfl⟩
  have added := (State.CloseView.refl a s).addSlice f
  have still : ((s.arm a).added s.freeDraws f).stage.flowing = false := by rw [Arm.added_stage, shut]
  have owner := Arm.added_owner s.freeDraws f (s.arm a)
  have tested := (((added.dose still f.dG).dualPulse still f).applyPreset still owner).decideYield still
  unfold State.closeSlice State.slicedArm
  dsimp only
  rw [State.stageTests_partial, ← hf]
  exact tested.reload.startConversion

end Sys2Proof.Machine
end

section
/-! The completion of a close from its totalizer block to its batch's outcome (R72, R123, R136, R137). -/

namespace Sys2Proof.Machine

variable {s t u : State} {a : ArmId} {k : CompId} {b : Batch} {m : Arm} {g : Batch → Batch} {n : Nat} {r : Retention}
  {cl : Close} {cause : Reason}

/-! ## The totalizer block (R123, R183) -/

/-- A totalizer block handed over: in the write queue, or held where the queue is full. -/
structure Retention.Handed (block : Totals) (old new : Retention) : Prop where
  room : old.queue.length < 4 → new.queue = old.queue ++ [.totals block]
  full : 4 ≤ old.queue.length → new.queue = old.queue ∧ new.held = some block

theorem State.handTotals_handed (s : State) :
    ∃ r, s.handTotals = { s with retention := r } ∧ Retention.Handed s.totalsNow s.retention r := by
  by_cases room : s.retention.queue.length < 4
  · obtain ⟨r, handed, -, queued⟩ := s.handTotals_eq
    exact ⟨r, handed, fun h => (queued h).1, fun full => absurd room (Nat.not_lt.mpr full)⟩
  · have held : s.handTotals = s.modRetention fun r => { r with held := some s.totalsNow } :=
      if_neg fun h => room (of_decide_eq_true h)
    exact ⟨_, held, fun h => absurd h room, fun _ => ⟨rfl, rfl⟩⟩

/-- The totalizers once the partial slice of a close has been added. -/
def State.closeBlock (s : State) (a : ArmId) : Totals :=
  ⟨vec4 fun i => (if i = a then s.slicedArm a else s.arm i).grossTotal,
    vec4 fun i => (if i = a then s.slicedArm a else s.arm i).stdTotal⟩

theorem State.CloseView.totalsNow (v : State.CloseView a m g n r s t) (gross : m.grossTotal = (s.slicedArm a).grossTotal)
    (std : m.stdTotal = (s.slicedArm a).stdTotal) : t.totalsNow = s.closeBlock a := by
  have each {β : Type} (f : Arm → β) (hm : (f m) = f (s.slicedArm a)) (hf : ∀ m : Arm, f m.seen = f m)
      (hs : ∀ m : Arm, f m.sansShares = f m) (i : ArmId) : f (t.arm i) = f (if i = a then s.slicedArm a else s.arm i) := by
    by_cases e : i = a
    · subst e
      rw [if_pos rfl, ← hm]
      exact v.field f hf
    · rw [if_neg e]
      exact Arm.field_of_sansShares f (v.others i e) hs
  unfold State.totalsNow State.closeBlock
  rw [vec4_congr (each Arm.grossTotal gross (fun _ => rfl) fun _ => rfl),
    vec4_congr (each Arm.stdTotal std (fun _ => rfl) fun _ => rfl)]

/-! ## The SHORT test and the learning (R137) -/

/-- The SHORT test on a batch, the arm having measured `gross`. -/
def Batch.shortTested (gross : Nat) (b : Batch) : Batch :=
  if (gross : Int) - (b.preset : Int) * 100 < -50 then { b with flags := b.flags.setShort } else b

theorem Batch.shortTested_plain (gross : Nat) (b : Batch) : (b.shortTested gross).plain = (b.plain.shortTested gross).plain := by
  unfold Batch.shortTested
  show (if (gross : Int) - (b.preset : Int) * 100 < -50 then _ else b).plain =
    (if (gross : Int) - (b.preset : Int) * 100 < -50 then { b.plain with flags := b.plain.flags.setShort } else b.plain).plain
  split <;> rfl

/-- The close-ahead value after a NORMAL close by a cause, `past` being what the arm measured past the preset. -/
def Arm.aheadAfter (cause : Reason) (leak : Bool) (past : Int) (m : Arm) : Nat :=
  if cause = .closeAhead ∧ leak = false then learned m.closeAhead past else m.closeAhead

theorem State.learn_eq (held : s.ownerBatch a = some (k, b)) (leak : Bool) : s.learn a cause leak =
    (s.modBatch k (Batch.shortTested (s.arm a).live.gross)).modArm a fun m =>
      { m with closeAhead := m.aheadAfter cause leak ((s.arm a).live.gross - (b.preset : Int) * 100) } := by
  have batch := (State.ownerBatch_eq_some.mp held).2
  have overrun : -remaining b (s.arm a).live = ((s.arm a).live.gross : Int) - (b.preset : Int) * 100 := by
    unfold remaining
    omega
  have short : (if ((s.arm a).live.gross : Int) - (b.preset : Int) * 100 < -50 then s.flagLine k LineFlags.setShort else s) =
      s.modBatch k (Batch.shortTested (s.arm a).live.gross) := by
    split
    · rename_i below
      exact State.modBatch_congr batch (if_pos below).symm
    · rename_i above
      exact (State.modBatch_id batch (f := Batch.shortTested (s.arm a).live.gross) (if_neg above)).symm
  unfold State.learn
  rw [held]
  dsimp only
  rw [overrun, short]
  split
  · rename_i learns
    exact State.modArm_congr (congrArg (fun n => { s.arm a with closeAhead := n }) (if_pos learns).symm)
  · rename_i keeps
    exact (State.modArm_id a _).symm.trans
      (State.modArm_congr (congrArg (fun n => { s.arm a with closeAhead := n }) (if_neg keeps).symm))

theorem State.CloseView.modBatch (v : State.CloseView a m g n r s t) (owner : m.owner = (s.arm a).owner)
    (own : m.owner = some k) (h : Batch → Batch) (hh : ∀ b, (h b).plain = (h b.plain).plain) :
    State.CloseView a m (h ∘ g) n r s (t.modBatch k h) := by
  refine v.onBatches h hh owner rfl fun j => ?_
  rw [State.batch_modBatch, own]
  by_cases e : j = k
  · subst e
    simp only [if_true, Option.map_map]
    rfl
  · simp only [if_neg e, Option.some.injEq, if_neg (Ne.symm e)]

/-- With no record of the owner batch any change of it is none. -/
theorem State.CloseView.ownerless (v : State.CloseView a m g n r s t) (owner : m.owner = (s.arm a).owner)
    (none : ∀ k, m.owner = some k → t.batch k = none) (h : Batch → Batch) (hh : ∀ b, (h b).plain = (h b.plain).plain) :
    State.CloseView a m (h ∘ g) n r s t := by
  refine v.onBatches h hh owner rfl fun j => ?_
  by_cases e : m.owner = some j
  · rw [none j e]
    rfl
  · simp only [if_neg e]

theorem State.CloseView.learn (v : State.CloseView a m g n r s t) (owner : m.owner = (s.arm a).owner) (cause : Reason)
    (leak : Bool) : ∃ ahead, State.CloseView a { m with closeAhead := ahead } (Batch.shortTested m.live.gross ∘ g) n r s
        (t.learn a cause leak) ∧ ∀ k b, m.owner = some k → t.batch k = some b →
      ahead = m.aheadAfter cause leak (m.live.gross - (b.preset : Int) * 100) := by
  have own : (t.arm a).owner = m.owner := v.field Arm.owner
  have gross : (t.arm a).live.gross = m.live.gross := v.field fun m => m.live.gross
  cases held : t.ownerBatch a with
  | none =>
    have same : t.learn a cause leak = t := by unfold State.learn; rw [held]
    have missing (k : CompId) (e : m.owner = some k) := State.ownerBatch_eq_none.mp held k (own.trans e)
    rw [same]
    refine ⟨m.closeAhead, v.ownerless owner missing _ (Batch.shortTested_plain _), fun k b e hb => ?_⟩
    exact nomatch hb.symm.trans (missing k e)
  | some kb =>
    obtain ⟨k, b⟩ := kb
    obtain ⟨ownerK, batch⟩ := State.ownerBatch_eq_some.mp held
    have named : m.owner = some k := own.symm.trans ownerK
    refine ⟨m.aheadAfter cause leak (m.live.gross - (b.preset : Int) * 100), ?_, fun j c e hc => ?_⟩
    · rw [State.learn_eq held, gross]
      exact (v.modBatch owner named _ (Batch.shortTested_plain _)).modArm
        fun m' => { m' with closeAhead := m'.aheadAfter cause leak (m.live.gross - (b.preset : Int) * 100) }
    · cases named.symm.trans e
      cases batch.symm.trans hc
      rfl

/-! ## The arm CLOSED (R77, R136) -/

/-- An arm as its move to CLOSED leaves it. -/
def Arm.shut (m : Arm) : Arm := { m with
  stage := .closed
  close := none
  leak := false
  heldShare := 0 }

theorem State.CloseView.shut (v : State.CloseView a m g n r s t) (closing : m.stage = .closing) :
    State.CloseView a m.shut g (n - m.heldShare) r s
      ((t.moveStage a .closed).modArm a fun m => { m with close := none, leak := false, heldShare := 0 }) := by
  have stage : (t.arm a).stage = .closing := (v.field Arm.stage).trans closing
  have held : (t.arm a).heldShare = m.heldShare := v.field Arm.heldShare
  have arms (i : ArmId) : ((t.moveStage a .closed).modArm a fun m => { m with close := none, leak := false, heldShare := 0 }).arm i =
      if i = a then (t.arm a).shut else t.arm i := by
    rw [State.arm_modArm, State.moveStage_arm]
    split <;> rfl
  refine ⟨v.rest.trans rfl, fun b hb => ?_, ?_, v.batches, ?_, v.retention⟩
  · rw [arms, if_neg hb]
    exact v.others b hb
  · rw [arms, if_pos rfl]
    exact congrArg Arm.shut v.self
  · have share := t.moveStage_ownShare a (t.armCfg a).header .closed
    rw [if_pos rfl, v.armCfg] at share
    refine share.trans ?_
    rw [v.ownShare]
    unfold stageShare
    rw [stage, held]
    rfl

/-! ## The outcome (R72) -/

theorem State.CloseView.closeOutcome (v : State.CloseView a m g n r s t) (owner : m.owner = (s.arm a).owner) (kind : CloseKind)
    (cause : Reason) : State.CloseView a m (Batch.outcome kind cause ∘ g) n r s (t.closeOutcome a kind cause) := by
  have own : (t.arm a).owner = m.owner := v.field Arm.owner
  have plain (b : Batch) : (Batch.outcome kind cause b).plain = (Batch.outcome kind cause b.plain).plain := by cases kind <;> rfl
  unfold State.closeOutcome
  split
  · rename_i k held
    exact v.modBatch owner (own.symm.trans held) _ plain
  · rename_i none
    exact v.ownerless owner (fun k e => nomatch none.symm.trans (own.trans e)) _ plain

/-! ## The steps together -/

/-- A batch as the close leaves it (R72, R129, R137). -/
def Batch.closedBy (cl : Close) (gross : Nat) (b : Batch) : Batch :=
  Batch.outcome cl.kind cl.cause (if cl.kind = .normal then b.presetApplied.shortTested gross else b.presetApplied)

/-- An arm as the close leaves it, its close-ahead value `ahead`. -/
def State.closedArm (s : State) (a : ArmId) (ahead : Nat) : Arm := Arm.shut { (s.slicedArm a).quietChannel with closeAhead := ahead }

/-- A close up to its batch's outcome. -/
def State.closeArm (a : ArmId) (c : Close) (s : State) : State :=
  let t := (s.closeSlice a).handTotals.modArm a Arm.quietChannel
  let t := if c.kind = .normal then t.learn a c.cause (s.arm a).leak else t
  let t := (t.moveStage a .closed).modArm a fun m => { m with close := none, leak := false, heldShare := 0 }
  ((t.announceFall (t.armCfg a).header).closeOutcome a c.kind c.cause).scan

theorem State.slicedArm_field {β : Type} (f : Arm → β) (s : State) (a : ArmId)
    (hf : ∀ m draws fig slice now, f (((Arm.added draws fig m).reloaded slice).startConversion now) = f m := by intros; rfl) :
    f (s.slicedArm a) = f (s.arm a) := hf _ _ _ _ _

theorem Arm.quietChannel_field {β : Type} (f : Arm → β) (m : Arm) (hf : ∀ m : Arm, f m.quietChannel = f m := by intro _; rfl) :
    f m.quietChannel = f m := hf m

/-- The close-ahead value after a close. -/
def State.AheadAfter (s : State) (a : ArmId) (c : Close) (ahead : Nat) : Prop :=
  ∀ k b, (s.arm a).owner = some k → s.batch k = some b → ahead =
    if c.kind = .normal then
      (s.arm a).aheadAfter c.cause (s.arm a).leak ((s.slicedArm a).live.gross - (b.presetApplied.preset : Int) * 100)
    else (s.arm a).closeAhead

theorem State.CloseView.batch_preset (v : State.CloseView a m g n r s t) (own : (s.arm a).owner = some k)
    (held : s.batch k = some b) : ∃ b', t.batch k = some b' ∧ b'.plain = (g b).plain := by
  have seen := v.batches k
  rw [held, Option.map_some, if_pos own] at seen
  exact Option.map_eq_some_iff.mp seen

theorem State.closeArm_view (closing : (s.arm a).stage = .closing) (c : Close) : ∃ ahead r,
    Retention.Handed (s.closeBlock a) s.retention r ∧ s.AheadAfter a c ahead ∧
      State.CloseView a (s.closedArm a ahead) (Batch.closedBy c (s.slicedArm a).live.gross)
        ((s.header (s.armCfg a).header).ownShare - (s.arm a).heldShare) r s (s.closeArm a c) := by
  have stage := s.slicedArm_field Arm.stage a
  have owner := s.slicedArm_field Arm.owner a
  have share := s.slicedArm_field Arm.heldShare a
  have ahead := s.slicedArm_field Arm.closeAhead a
  have sliced := State.closeSlice_view (s := s) (a := a) (by rw [closing]; rfl)
  obtain ⟨r, handed, queued⟩ := (s.closeSlice a).handTotals_handed
  rw [sliced.totalsNow rfl rfl, sliced.retention] at queued
  obtain ⟨x, hx⟩ : ∃ x, x = (s.closeSlice a).handTotals.modArm a Arm.quietChannel := ⟨_, rfl⟩
  obtain ⟨q, hq⟩ : ∃ q, q = (s.slicedArm a).quietChannel := ⟨_, rfl⟩
  have quiet : State.CloseView a q Batch.presetApplied (s.header (s.armCfg a).header).ownShare r s x := by
    rw [hx, hq, handed]
    exact (sliced.retain r).modArm Arm.quietChannel
  have quietStage : q.stage = .closing := by
    rw [hq]
    exact (Arm.quietChannel_field Arm.stage _).trans (stage.trans closing)
  have quietOwner : q.owner = (s.arm a).owner := by
    rw [hq]
    exact (Arm.quietChannel_field Arm.owner _).trans owner
  have quietShare : q.heldShare = (s.arm a).heldShare := by
    rw [hq]
    exact (Arm.quietChannel_field Arm.heldShare _).trans share
  have quietAhead : q.closeAhead = (s.arm a).closeAhead := by
    rw [hq]
    exact (Arm.quietChannel_field Arm.closeAhead _).trans ahead
  have quietGross : q.live.gross = (s.slicedArm a).live.gross := by
    rw [hq]
    exact Arm.quietChannel_field (fun m => m.live.gross) _
  obtain ⟨n, learnt, value⟩ : ∃ n, State.CloseView a { q with closeAhead := n }
      (fun b => if c.kind = .normal then b.presetApplied.shortTested (s.slicedArm a).live.gross else b.presetApplied)
      (s.header (s.armCfg a).header).ownShare r s (if c.kind = .normal then x.learn a c.cause (s.arm a).leak else x) ∧
      s.AheadAfter a c n := by
    by_cases normal : c.kind = .normal
    · obtain ⟨n, view, value⟩ := quiet.learn quietOwner c.cause (s.arm a).leak
      refine ⟨n, ?_, fun k b own held => ?_⟩
      · simp only [if_pos normal]
        rw [quietGross] at view
        exact view
      · obtain ⟨b', now, plain⟩ := quiet.batch_preset own held
        rw [value k b' (quietOwner.trans own) now, if_pos normal, quietGross,
          show b'.preset = b.presetApplied.preset from (congrArg Batch.preset plain :)]
        unfold Arm.aheadAfter
        rw [quietAhead]
    · refine ⟨q.closeAhead, ?_, fun k b own held => ?_⟩
      · simp only [if_neg normal]
        exact quiet
      · rw [if_neg normal, quietAhead]
  obtain ⟨y, hy⟩ : ∃ y, y = if c.kind = .normal then x.learn a c.cause (s.arm a).leak else x := ⟨_, rfl⟩
  rw [← hy] at learnt
  have shut := learnt.shut quietStage
  obtain ⟨z, hz⟩ : ∃ z, z = (y.moveStage a .closed).modArm a fun m => { m with close := none, leak := false, heldShare := 0 } :=
    ⟨_, rfl⟩
  rw [← hz] at shut
  have told := shut.shares (State.announceFall_moves (z.armCfg a).header z)
  have done := (told.closeOutcome quietOwner c.kind c.cause).shares (State.scan_moves _)
  refine ⟨n, r, queued, value, ?_⟩
  unfold State.closeArm State.closedArm
  dsimp only
  rw [← hx, ← hy, ← hz, ← hq, ← quietShare]
  exact done

theorem State.completeClose_eq (a : ArmId) (c : Close) (s : State) :
    s.completeClose a c = (((s.closeArm a c).closeWindows a).settleDeadman true).completeEnding.startIdle := rfl

end Sys2Proof.Machine
end

section
/-! The injector channels at a close's completion (R145, R147 to R150), the arm CLOSED. -/

namespace Sys2Proof.Machine

variable {s t u : State} {a : ArmId} {i j : InjectorId}

/-! ## One channel -/

/-- An injector's channel and its fault latch. -/
def State.channel (s : State) (i : InjectorId) : Injector × Bool := (s.injector i, s.session.latches[i])

/-- A channel once its shot has been cut and its window judged. -/
def judgedChannel (c : InjectorCfg) (x : Injector × Bool) : Injector × Bool :=
  match x.1.cutShort.window with
  | none => (x.1.cutShort, x.2)
  | some w =>
    ({ x.1.cutShort with
      window := none
      badRun := runAfter c w x.1.cutShort.badRun }, x.2 || decide (runAfter c w x.1.cutShort.badRun = 3))

/-- What the judging of windows leaves: all but the flow side, the line flags and the fault latches. -/
structure State.JudgeFrame (s t : State) : Prop where
  rest : t = { s with
    arms := t.arms
    headers := t.headers
    injectors := t.injectors
    batches := t.batches
    session := { s.session with latches := t.session.latches }
    link := t.link
    periodTimer := t.periodTimer }
  arm : ∀ b, (t.arm b).sansShares = (s.arm b).sansShares
  ownShare : ∀ h, (t.header h).ownShare = (s.header h).ownShare
  batches : ∀ k, (t.batch k).map Batch.plain = (s.batch k).map Batch.plain

theorem State.JudgeFrame.refl (s : State) : s.JudgeFrame s := ⟨rfl, fun _ => rfl, fun _ => rfl, fun _ => rfl⟩

theorem State.JudgeFrame.trans (h : s.JudgeFrame t) (k : t.JudgeFrame u) : s.JudgeFrame u where
  rest := k.rest.trans (congrArg (fun x : State => { x with
    arms := u.arms
    headers := u.headers
    injectors := u.injectors
    batches := u.batches
    session := { x.session with latches := u.session.latches }
    link := u.link
    periodTimer := u.periodTimer }) h.rest)
  arm b := (k.arm b).trans (h.arm b)
  ownShare i := (k.ownShare i).trans (h.ownShare i)
  batches c := (k.batches c).trans (h.batches c)

theorem SharesMove.judgeFrame (h : SharesMove s t) : s.JudgeFrame t where
  rest := by
    have same := h.sameButFlow
    unfold State.SameButFlow at same
    rw [h.batches, h.session]
    exact same
  arm := h.arm
  ownShare := h.ownShare
  batches k := by
    have same : t.batch k = s.batch k := congrArg (fun x : Vector (Option Batch) 8 => x[k]) h.batches
    rw [same]

theorem State.JudgeFrame.flagLine (k : CompId) (f : LineFlags → LineFlags) (hf : ∀ x, (f x).short = x.short) (s : State) :
    s.JudgeFrame (s.flagLine k f) where
  rest := rfl
  arm _ := rfl
  ownShare _ := rfl
  batches j := by
    have flags (b : Batch) : ({ b with flags := f b.flags } : Batch).plain = b.plain := by
      unfold Batch.plain
      rw [hf]
    unfold State.flagLine
    rw [State.batch_modBatch]
    split
    · rw [Option.map_map]
      exact congrArg (fun h => (s.batch j).map h) (funext flags)
    · rfl

theorem State.JudgeFrame.stage (h : s.JudgeFrame t) (b : ArmId) : (t.arm b).stage = (s.arm b).stage :=
  Arm.field_of_sansShares Arm.stage (h.arm b)

theorem State.JudgeFrame.cfg (h : s.JudgeFrame t) : t.cfg = s.cfg := by rw [h.rest]

/-- A newly set latch closes no arm that does not flow (R150). -/
theorem State.faultEffect_shut (shut : (s.arm a).stage.flowing = false) (k : CompId) :
    s.JudgeFrame (s.faultEffect a k) ∧ ∀ j, (s.faultEffect a k).channel j = s.channel j := by
  obtain ⟨x, hx⟩ : ∃ x, x = if s.monitor.bypass then s.flagLine k LineFlags.setBypassed else s := ⟨_, rfl⟩
  have flagged : s.JudgeFrame x ∧ ∀ j, x.channel j = s.channel j := by
    rw [hx]
    split
    · exact ⟨.flagLine k LineFlags.setBypassed (fun _ => rfl) s, fun _ => rfl⟩
    · exact ⟨.refl s, fun _ => rfl⟩
  have effect : s.faultEffect a k = x.recheckReservation a := by
    unfold State.faultEffect
    rw [shut, if_neg Bool.false_ne_true, hx]
  have moves := x.recheckReservation_moves a
  rw [effect]
  refine ⟨flagged.1.trans moves.judgeFrame, fun j => Eq.trans ?_ (flagged.2 j)⟩
  unfold State.channel State.injector
  rw [moves.injectors, moves.session]

theorem State.JudgeFrame.modInjector (i : InjectorId) (f : Injector → Injector) (s : State) : s.JudgeFrame (s.modInjector i f) :=
  ⟨rfl, fun _ => rfl, fun _ => rfl, fun _ => rfl⟩

theorem State.modInjector_channel (f : Injector → Injector) (s : State) (j : InjectorId) :
    (s.modInjector i f).channel j = if j = i then (f (s.injector j), s.session.latches[j]) else s.channel j := by
  unfold State.channel
  rw [State.injector_modInjector]
  split <;> rfl

/-- A fault latch set (R150). -/
def State.faultLatched (i : InjectorId) (s : State) : State := s.modSession fun x => { x with latches := x.latches.set i true }

theorem State.JudgeFrame.faultLatched (i : InjectorId) (s : State) : s.JudgeFrame (s.faultLatched i) :=
  ⟨rfl, fun _ => rfl, fun _ => rfl, fun _ => rfl⟩

theorem State.faultLatched_channel (s : State) (j : InjectorId) :
    (s.faultLatched i).channel j = if j = i then (s.injector j, true) else s.channel j := by
  have latch : (s.session.latches.set i true)[j] = if j = i then true else s.session.latches[j] := by
    split
    · rename_i e
      subst e
      exact Vector.getElem_set_self j.isLt
    · rename_i e
      exact Vector.getElem_set_ne i.isLt j.isLt fun h => e (Fin.ext h.symm)
  have pair : (s.faultLatched i).channel j = (s.injector j, (s.session.latches.set i true)[j]) := rfl
  rw [pair, latch]
  split <;> rfl

/-- An injector with its window closed and its bad shot run `run`. -/
def Injector.windowClosed (run : Nat) (x : Injector) : Injector := { x with
  window := none
  badRun := run }

theorem State.judgeWindow_none (none : (s.injector i).window = none) : s.judgeWindow i = s := by
  unfold State.judgeWindow
  rw [none]

theorem State.judgeWindow_some {w : Window} {run : Nat} (held : (s.injector i).window = some w)
    (hrun : runAfter (s.injectorCfg i) w (s.injector i).badRun = run) : s.judgeWindow i =
      if run = 3 then ((s.modInjector i (Injector.windowClosed run)).faultLatched i).faultEffect (s.injectorCfg i).arm w.batch
      else s.modInjector i (Injector.windowClosed run) := by
  unfold State.judgeWindow
  rw [held]
  dsimp only
  rw [hrun]
  rfl

theorem judgedChannel_none {c : InjectorCfg} {x : Injector × Bool} (none : x.1.cutShort.window = none) :
    judgedChannel c x = (x.1.cutShort, x.2) := by
  unfold judgedChannel
  rw [none]

theorem judgedChannel_some {c : InjectorCfg} {x : Injector × Bool} {w : Window} {run : Nat} (held : x.1.cutShort.window = some w)
    (hrun : runAfter c w x.1.cutShort.badRun = run) :
    judgedChannel c x = (x.1.cutShort.windowClosed run, x.2 || decide (run = 3)) := by
  unfold judgedChannel
  rw [held]
  dsimp only
  rw [hrun]
  rfl

/-- One injector's channel at the completion: its shot cut, its window judged, the others as they were. -/
theorem State.judgeChannel (arm : (s.injectorCfg i).arm = a) (shut : (s.arm a).stage.flowing = false) :
    s.JudgeFrame ((s.endShot true i).judgeWindow i) ∧ ∀ j, ((s.endShot true i).judgeWindow i).channel j =
      if j = i then judgedChannel (s.injectorCfg i) (s.channel j) else s.channel j := by
  have cut := State.JudgeFrame.modInjector i Injector.cutShort s
  have own : (s.modInjector i Injector.cutShort).injector i = (s.injector i).cutShort := State.injector_modInjector_self _ _ _
  rw [State.endShot_cut]
  cases held : (s.injector i).cutShort.window with
  | none =>
    rw [State.judgeWindow_none (own ▸ held)]
    refine ⟨cut, fun j => ?_⟩
    rw [State.modInjector_channel]
    split
    · rename_i e
      rw [judgedChannel_none (show (s.channel j).1.cutShort.window = none from e ▸ held)]
      rfl
    · rfl
  | some w =>
    obtain ⟨run, hrun⟩ : ∃ run, runAfter (s.injectorCfg i) w (s.injector i).cutShort.badRun = run := ⟨_, rfl⟩
    obtain ⟨y, hy⟩ : ∃ y, y = (s.modInjector i Injector.cutShort).modInjector i (Injector.windowClosed run) := ⟨_, rfl⟩
    have closed : s.JudgeFrame y := hy ▸ cut.trans (.modInjector i _ _)
    have look (j : InjectorId) : y.channel j =
        if j = i then ((s.injector j).cutShort.windowClosed run, s.session.latches[j]) else s.channel j := by
      rw [hy, State.modInjector_channel, State.modInjector_channel, State.injector_modInjector]
      split <;> rfl
    have judged : judgedChannel (s.injectorCfg i) (s.channel i) =
        ((s.injector i).cutShort.windowClosed run, s.session.latches[i] || decide (run = 3)) := judgedChannel_some held hrun
    rw [State.judgeWindow_some (own ▸ held) (own ▸ hrun), ← hy]
    split
    · rename_i three
      have latch := closed.trans (.faultLatched i y)
      obtain ⟨effect, same⟩ := State.faultEffect_shut (s := y.faultLatched i) (a := a)
        (by rw [latch.stage]; exact shut) w.batch
      rw [show ((s.modInjector i Injector.cutShort).injectorCfg i).arm = a from arm]
      refine ⟨latch.trans effect, fun j => ?_⟩
      rw [same, State.faultLatched_channel]
      split
      · rename_i e
        subst e
        have injector := congrArg Prod.fst (look j)
        rw [if_pos rfl] at injector
        rw [judged, decide_eq_true three, Bool.or_true]
        exact congrArg (·, true) injector
      · rename_i e
        rw [look j, if_neg e]
    · rename_i few
      refine ⟨closed, fun j => ?_⟩
      rw [look j]
      split
      · rename_i e
        subst e
        rw [judged, decide_eq_false few, Bool.or_false]
      · rfl

/-! ## The arm's channels -/

theorem State.closeWindows_judged (shut : (s.arm a).stage.flowing = false) : s.JudgeFrame (s.closeWindows a) ∧
    ∀ j, (s.closeWindows a).channel j =
      if (s.injectorCfg j).arm = a then judgedChannel (s.injectorCfg j) (s.channel j) else s.channel j := by
  obtain ⟨f, hf⟩ : ∃ f : InjectorId → State → State, f = fun i x => if (x.injectorCfg i).arm = a then (x.endShot true i).judgeWindow i else x := ⟨_, rfl⟩
  have step (i : InjectorId) (x : State) (h : s.JudgeFrame x) : s.JudgeFrame (f i x) ∧ ∀ j, (f i x).channel j =
      if j = i then (if (s.injectorCfg j).arm = a then judgedChannel (s.injectorCfg j) (x.channel j) else x.channel j)
      else x.channel j := by
    have config : x.injectorCfg i = s.injectorCfg i := congrArg (fun c : ConfigImage => c.injectors[i]) h.cfg
    have still : (x.arm a).stage.flowing = false := by rw [h.stage]; exact shut
    rw [hf]
    dsimp only
    by_cases own : (x.injectorCfg i).arm = a
    · obtain ⟨frame, look⟩ := State.judgeChannel own still
      rw [if_pos own]
      refine ⟨h.trans frame, fun j => (look j).trans ?_⟩
      split
      · rename_i e
        subst e
        rw [config] at own ⊢
        rw [if_pos own]
      · rfl
    · rw [if_neg own]
      refine ⟨h, fun j => ?_⟩
      split
      · rename_i e
        subst e
        rw [config] at own
        rw [if_neg own]
      · rfl
  have all : s.closeWindows a = f 3 (f 2 (f 1 (f 0 s))) := by rw [hf]; rfl
  obtain ⟨h0, l0⟩ := step 0 s (.refl s)
  obtain ⟨h1, l1⟩ := step 1 _ h0
  obtain ⟨h2, l2⟩ := step 2 _ h1
  obtain ⟨h3, l3⟩ := step 3 _ h2
  rw [all]
  refine ⟨h3, fun j => ?_⟩
  rw [l3, l2, l1, l0]
  fin_cases j <;> rfl

end Sys2Proof.Machine
end

section
/-! The close completed, short of an ENDING session's completion (R136). -/

namespace Sys2Proof.Machine

variable {s t u : State} {a : ArmId} {k : CompId} {b : Batch} {c : Close} {ahead : Nat} {r : Retention}

/-! ## The close completed -/

/-- What the completion of a close leaves: all but the flow side, batches, fault latches, the monitor and the retention
block. -/
def State.DownFrame (s u : State) : Prop := u = { s with
  arms := u.arms
  headers := u.headers
  injectors := u.injectors
  batches := u.batches
  session := { s.session with latches := u.session.latches }
  monitor := u.monitor
  retention := u.retention
  link := u.link
  periodTimer := u.periodTimer
  freeDraws := u.freeDraws }

theorem State.DownFrame.trans (h : s.DownFrame t) (k : t.DownFrame u) : s.DownFrame u :=
  Eq.trans k (congrArg (fun x : State => { x with
    arms := u.arms
    headers := u.headers
    injectors := u.injectors
    batches := u.batches
    session := { x.session with latches := u.session.latches }
    monitor := u.monitor
    retention := u.retention
    link := u.link
    periodTimer := u.periodTimer
    freeDraws := u.freeDraws }) h)

theorem State.CloseFrame.downFrame (h : s.CloseFrame t) : s.DownFrame t := by
  unfold State.CloseFrame at h
  unfold State.DownFrame
  rw [h]

theorem State.JudgeFrame.downFrame (h : s.JudgeFrame t) : s.DownFrame t := by
  have rest := h.rest
  unfold State.DownFrame
  rw [rest]

/-- A close completed on arm `a`: what the part is then, the completion of an ENDING session apart. -/
structure State.ClosedDown (s : State) (a : ArmId) (c : Close) (ahead : Nat) (r : Retention) (u : State) : Prop where
  rest : s.DownFrame u
  others : ∀ b, b ≠ a → (u.arm b).sansShares = (s.arm b).sansShares
  self : (u.arm a).seen = (s.closedArm a ahead).seen
  batches : ∀ k, (u.batch k).map Batch.plain = (s.batch k).map fun b =>
    (if (s.arm a).owner = some k then b.closedBy c (s.slicedArm a).live.gross else b).plain
  ownShare : (u.header (s.armCfg a).header).ownShare = (s.header (s.armCfg a).header).ownShare - (s.arm a).heldShare
  retention : u.retention = r
  channel : ∀ i, u.channel i =
    if (s.injectorCfg i).arm = a then judgedChannel (s.injectorCfg i) (s.channel i) else s.channel i

theorem State.restoreIf_moves (was : Bool) (s : State) : SharesMove s (s.restoreIf was) := by
  unfold State.restoreIf
  split
  · exact s.scan_moves
  · exact .refl s

/-- The end of the deadman's watch changes the monitor and may start a scan (R158, R162). -/
theorem State.settleDeadman_moves (b : Bool) (s : State) :
    ∃ m, SharesMove ({ s with monitor := m } : State) (s.settleDeadman b) := by
  unfold State.settleDeadman
  split
  · exact ⟨s.monitor.stopDeadman, State.restoreIf_moves _ _⟩
  · exact ⟨s.monitor, .refl s⟩

theorem State.closedDown (closing : (s.arm a).stage = .closing) (c : Close) : ∃ ahead r,
    Retention.Handed (s.closeBlock a) s.retention r ∧ s.AheadAfter a c ahead ∧
      s.ClosedDown a c ahead r (((s.closeArm a c).closeWindows a).settleDeadman true) := by
  obtain ⟨ahead, r, handed, value, view⟩ := State.closeArm_view closing c
  obtain ⟨x, hx⟩ : ∃ x, x = s.closeArm a c := ⟨_, rfl⟩
  rw [← hx] at view ⊢
  have shut : (x.arm a).stage.flowing = false := by
    rw [view.field Arm.stage]
    rfl
  obtain ⟨frame, channel⟩ := State.closeWindows_judged shut
  obtain ⟨y, hy⟩ : ∃ y, y = x.closeWindows a := ⟨_, rfl⟩
  rw [← hy] at frame channel ⊢
  obtain ⟨m, moves⟩ := y.settleDeadman_moves true
  obtain ⟨u, hu⟩ : ∃ u, u = y.settleDeadman true := ⟨_, rfl⟩
  rw [← hu] at moves ⊢
  have config (i : InjectorId) : x.injectorCfg i = s.injectorCfg i := congrArg (fun c : ConfigImage => c.injectors[i]) view.cfg
  have kept (i : InjectorId) : x.channel i = s.channel i := by
    unfold State.channel State.injector
    rw [view.rest]
  have last (i : InjectorId) : u.channel i = y.channel i := by
    unfold State.channel State.injector
    rw [moves.injectors, moves.session]
  refine ⟨ahead, r, handed, value, ?_, fun b hb => ?_, ?_, fun k => ?_, ?_, ?_, fun i => ?_⟩
  · have watched : y.DownFrame { y with monitor := m } := rfl
    exact view.rest.downFrame.trans (frame.downFrame.trans (watched.trans moves.closeFrame.downFrame))
  · exact (moves.arm b).trans ((frame.arm b).trans (view.others b hb))
  · exact (Arm.seen_of_sansShares ((moves.arm a).trans (frame.arm a))).trans view.self
  · have same : u.batch k = y.batch k := congrArg (fun x : Vector (Option Batch) 8 => x[k]) moves.batches
    rw [same, frame.batches, view.batches]
  · exact (moves.ownShare _).trans ((frame.ownShare _).trans view.ownShare)
  · have kept : y.retention = x.retention := by rw [frame.rest]
    exact moves.retention.trans (kept.trans view.retention)
  · rw [last, channel, config, kept]

/-! ## The arm closed -/

theorem State.closedArm_field {β : Type} (f : Arm → β) (s : State) (a : ArmId) (ahead : Nat)
    (hf : ∀ m : Arm, f (Arm.shut { m.quietChannel with closeAhead := ahead }) = f m := by intro _; rfl) :
    f (s.closedArm a ahead) = f (s.slicedArm a) := hf _

theorem State.slicedArm_sliceCounter (s : State) (a : ArmId) : (s.slicedArm a).sliceCounter = (s.armCfg a).slice := by
  have counter (m : Arm) (draws : Nat) (fig : SliceFigures) (slice now : Nat) :
      (((m.added draws fig).reloaded slice).startConversion now).sliceCounter = slice := rfl
  exact counter _ _ _ _ _

theorem State.closedArm_quiet (s : State) (a : ArmId) (ahead : Nat) : let m := s.closedArm a ahead
    m.stage = .closed ∧ m.close = none ∧ m.leak = false ∧ m.counting = false ∧ m.settle = none ∧ m.closeLimit = none ∧
      m.sliceTimer = none ∧ m.flowCounter = none ∧ m.closeAhead = ahead := by
  have shut (m : Arm) : let n := Arm.shut { m.quietChannel with closeAhead := ahead }
      n.stage = .closed ∧ n.close = none ∧ n.leak = false ∧ n.counting = false ∧ n.settle = none ∧ n.closeLimit = none ∧
        n.sliceTimer = none ∧ n.flowCounter = none ∧ n.closeAhead = ahead := ⟨rfl, rfl, rfl, rfl, rfl, rfl, rfl, rfl, rfl⟩
  exact shut _

theorem Converts.congr {now : Nat} {m m' n n' : Arm} (h : Converts now m m') (c : n.converter = m.converter)
    (o : n.resultsOwed = m.resultsOwed) (c' : n'.converter = m'.converter) (o' : n'.resultsOwed = m'.resultsOwed) :
    Converts now n n' where
  idle e := by rw [c', o', o]; exact h.idle (c ▸ e)
  ended e held := by rw [c', o', o]; exact h.ended e (c ▸ held)
  running e held := by rw [c', o', o]; exact h.running e (c ▸ held)

theorem State.slicedArm_converts (s : State) (a : ArmId) : Converts s.now (s.arm a) (s.slicedArm a) := by
  have start (m : Arm) (draws : Nat) (fig : SliceFigures) (slice now : Nat) :
      Converts now m (((m.added draws fig).reloaded slice).startConversion now) :=
    (Arm.startConversion_converts now ((m.added draws fig).reloaded slice)).congr rfl rfl rfl rfl
  exact start _ _ _ _ _

/-- A slice's volumes as an arm's figures show them. -/
structure Arm.SameVolumes (m n : Arm) : Prop where
  gross : m.live.gross = n.live.gross
  std : m.live.std = n.live.std
  weighted : m.live.weighted = n.live.weighted
  grossRem : m.live.grossRem = n.live.grossRem
  stdRem : m.live.stdRem = n.live.stdRem
  grossTotal : m.grossTotal = n.grossTotal
  stdTotal : m.stdTotal = n.stdTotal

theorem State.SliceAdded.ofVolumes {p d : Nat} (h : s.SliceAdded t a p d) (v : (u.arm a).SameVolumes (t.arm a)) :
    s.SliceAdded u a p d := by
  unfold State.SliceAdded at *
  rw [v.gross, v.std, v.weighted, v.grossRem, v.stdRem, v.grossTotal, v.stdTotal]
  exact h

/-- An arm with the volumes of its sliced self has had the partial slice added. -/
theorem State.sliceAdded_of_volumes (v : (u.arm a).SameVolumes (s.slicedArm a)) :
    s.SliceAdded u a ((s.armCfg a).slice - (s.arm a).sliceCounter) (max 1 ((s.arm a).lastA.getD 1)) := by
  obtain ⟨fig, hfig⟩ : ∃ fig, fig = s.sliceFigures a true := ⟨_, rfl⟩
  have added : ((s.modArm a (Arm.added s.freeDraws fig)).arm a) = (s.arm a).added s.freeDraws fig := State.arm_modArm_self _ _ _
  have base := State.sliceAdded_of (s := s) (t := s.modArm a (Arm.added s.freeDraws fig)) (a := a) (n := s.freeDraws)
    (by rw [added, hfig])
  have same (m : Arm) (draws : Nat) (fig : SliceFigures) (slice now : Nat) :
      (((m.added draws fig).reloaded slice).startConversion now).SameVolumes (m.added draws fig) :=
    ⟨rfl, rfl, rfl, rfl, rfl, rfl, rfl⟩
  have sliced := same (s.arm a) s.freeDraws fig (s.armCfg a).slice s.now
  have whole : s.slicedArm a = (((s.arm a).added s.freeDraws fig).reloaded (s.armCfg a).slice).startConversion s.now := by
    rw [hfig]
    rfl
  rw [← whole, ← added] at sliced
  exact base.ofVolumes ⟨v.gross.trans sliced.gross, v.std.trans sliced.std, v.weighted.trans sliced.weighted,
    v.grossRem.trans sliced.grossRem, v.stdRem.trans sliced.stdRem, v.grossTotal.trans sliced.grossTotal,
    v.stdTotal.trans sliced.stdTotal⟩

/-! ## The arms, the batches and the channels of the part so left -/

namespace State.ClosedDown

variable (d : s.ClosedDown a c ahead r u)
include d

theorem field {β : Type} (f : Arm → β) (hf : ∀ m : Arm, f m.seen = f m := by intro _; rfl) :
    f (u.arm a) = f (s.closedArm a ahead) := Arm.field_of_seen f d.self hf

theorem otherField {β : Type} {j : ArmId} (hj : j ≠ a) (f : Arm → β) (hf : ∀ m : Arm, f m.sansShares = f m := by intro _; rfl) :
    f (u.arm j) = f (s.arm j) := Arm.field_of_sansShares f (d.others j hj) hf

theorem allClosed : u.allClosed = true ↔ ∀ j, j ≠ a → (s.arm j).stage = .closed := by
  rw [State.allClosed_iff]
  constructor
  · exact fun all j hj => (d.otherField hj Arm.stage).symm.trans (all j)
  · intro others j
    by_cases e : j = a
    · subst e
      exact d.field Arm.stage
    · exact (d.otherField e Arm.stage).trans (others j e)

theorem sessionState : u.session.state = s.session.state := by rw [d.rest]

theorem owner : (u.arm a).owner = (s.arm a).owner :=
  (d.field Arm.owner).trans ((s.closedArm_field Arm.owner a ahead).trans (s.slicedArm_field Arm.owner a))

theorem gross : (u.arm a).live.gross = (s.slicedArm a).live.gross :=
  (d.field fun m => m.live.gross).trans (s.closedArm_field (fun m => m.live.gross) a ahead)

theorem volumes : (u.arm a).SameVolumes (s.slicedArm a) where
  gross := d.gross
  std := (d.field fun m => m.live.std).trans (s.closedArm_field (fun m => m.live.std) a ahead)
  weighted := (d.field fun m => m.live.weighted).trans (s.closedArm_field (fun m => m.live.weighted) a ahead)
  grossRem := (d.field fun m => m.live.grossRem).trans (s.closedArm_field (fun m => m.live.grossRem) a ahead)
  stdRem := (d.field fun m => m.live.stdRem).trans (s.closedArm_field (fun m => m.live.stdRem) a ahead)
  grossTotal := (d.field Arm.grossTotal).trans (s.closedArm_field Arm.grossTotal a ahead)
  stdTotal := (d.field Arm.stdTotal).trans (s.closedArm_field Arm.stdTotal a ahead)

theorem converts : Converts s.now (s.arm a) (u.arm a) :=
  (s.slicedArm_converts a).congr rfl rfl
    ((d.field Arm.converter).trans (s.closedArm_field Arm.converter a ahead))
    ((d.field Arm.resultsOwed).trans (s.closedArm_field Arm.resultsOwed a ahead))

/-- The totalizer block of this moment is the one handed over. -/
theorem totalsNow : u.totalsNow = s.closeBlock a := by
  have each {β : Type} (f : Arm → β) (hs : ∀ m : Arm, f m.sansShares = f m) (self : f (u.arm a) = f (s.slicedArm a)) (i : ArmId) :
      f (u.arm i) = f (if i = a then s.slicedArm a else s.arm i) := by
    by_cases e : i = a
    · subst e
      rw [if_pos rfl]
      exact self
    · rw [if_neg e]
      exact d.otherField e f hs
  unfold State.totalsNow State.closeBlock
  rw [vec4_congr (each Arm.grossTotal (fun _ => rfl) d.volumes.grossTotal),
    vec4_congr (each Arm.stdTotal (fun _ => rfl) d.volumes.stdTotal)]

theorem batch_owner (own : (s.arm a).owner = some k) (held : s.batch k = some b) :
    ∃ b', u.batch k = some b' ∧ b'.plain = (b.closedBy c (s.slicedArm a).live.gross).plain := by
  have seen := d.batches k
  rw [held, Option.map_some, if_pos own] at seen
  exact Option.map_eq_some_iff.mp seen

end State.ClosedDown

/-- What a close makes of its batch (R72, R129, R137). -/
structure Batch.Closed (c : Close) (gross : Nat) (b b' : Batch) : Prop where
  preset : b'.preset = b.pendPreset.getD b.preset
  applied : b'.pendPreset = none
  grade : b'.grade = b.grade
  started : b'.started = b.started
  normal : c.kind = .normal → b'.state = .done ∧ b'.suspCount = b.suspCount ∧
    b'.flags.short = (b.flags.short || decide (gross + 50 < b.pendPreset.getD b.preset * 100))
  stop : c.kind = .stop → b'.state = .suspended ∧ b'.suspReason = some c.cause ∧ b'.suspCount = min 255 (b.suspCount + 1) ∧
    b'.flags.short = b.flags.short

theorem Batch.closedBy_closed (c : Close) (gross : Nat) (b : Batch) : Batch.Closed c gross b (b.closedBy c gross) := by
  have below (p : Nat) : (gross : Int) - (p : Int) * 100 < -50 ↔ gross + 50 < p * 100 := by omega
  cases kind : c.kind with
  | stop =>
    have closed : b.closedBy c gross = Batch.outcome .stop c.cause b.presetApplied := by
      unfold Batch.closedBy
      rw [kind]
      rfl
    rw [closed]
    exact ⟨rfl, rfl, rfl, rfl, fun h => (nomatch kind.symm.trans h), fun _ => ⟨rfl, rfl, rfl, rfl⟩⟩
  | normal =>
    have closed : b.closedBy c gross = Batch.outcome .normal c.cause (b.presetApplied.shortTested gross) := by
      unfold Batch.closedBy
      rw [kind]
      rfl
    rw [closed]
    unfold Batch.shortTested
    split
    · rename_i short
      have mark := decide_eq_true ((below _).mp short)
      refine ⟨rfl, rfl, rfl, rfl, fun _ => ⟨rfl, rfl, ?_⟩, fun h => nomatch kind.symm.trans h⟩
      rw [show decide (gross + 50 < b.pendPreset.getD b.preset * 100) = true from mark, Bool.or_true]
      rfl
    · rename_i full
      have mark := decide_eq_false (mt (below _).mpr full)
      refine ⟨rfl, rfl, rfl, rfl, fun _ => ⟨rfl, rfl, ?_⟩, fun h => nomatch kind.symm.trans h⟩
      rw [show decide (gross + 50 < b.pendPreset.getD b.preset * 100) = false from mark, Bool.or_false]
      rfl

theorem Batch.Closed.of_plain {gross : Nat} {x y : Batch} (h : Batch.Closed c gross b x) (same : y.plain = x.plain) :
    Batch.Closed c gross b y := by
  have field {β : Type} (f : Batch → β) (hf : ∀ b : Batch, f b.plain = f b := by intro _; rfl) : f y = f x := by
    rw [← hf y, same, hf]
  have state := field Batch.state
  have count := field Batch.suspCount
  have short := field fun b => b.flags.short
  have reason := field Batch.suspReason
  refine ⟨(field Batch.preset).trans h.preset, (field Batch.pendPreset).trans h.applied, (field Batch.grade).trans h.grade,
    (field Batch.started).trans h.started, fun e => ?_, fun e => ?_⟩
  · rw [state, count, short]
    exact h.normal e
  · rw [state, count, short, reason]
    exact h.stop e

/-! ## The channels -/

theorem runAfter_eq (c : InjectorCfg) (w : Window) (run : Nat) : runAfter c w run = badRunAfter c w run := by
  unfold runAfter badRunAfter windowShort windowOver expectedCount
  cases w.cut <;> simp

theorem Injector.cutShort_window_some {x : Injector} {w : Window} (h : x.window = some w) :
    x.cutShort.window = some { w with cut := w.cut || x.firing } ∧ x.cutShort.badRun = x.badRun := by
  unfold Injector.cutShort
  cases x.firing with
  | true =>
    rw [if_pos rfl, h, Bool.or_true]
    exact ⟨rfl, rfl⟩
  | false =>
    rw [if_neg Bool.false_ne_true, h, Bool.or_false]
    exact ⟨rfl, rfl⟩

theorem judgedChannel_shut (c : InjectorCfg) (x : Injector × Bool) :
    (judgedChannel c x).1.firing = false ∧ (judgedChannel c x).1.window = none := by
  cases h : x.1.cutShort.window with
  | none =>
    rw [judgedChannel_none h]
    exact ⟨x.1.cutShort_firing, h⟩
  | some w =>
    rw [judgedChannel_some h rfl]
    exact ⟨x.1.cutShort_firing, rfl⟩

theorem judgedChannel_run {c : InjectorCfg} {x : Injector × Bool} {w : Window} (h : x.1.window = some w) :
    let run := badRunAfter c { w with cut := w.cut || x.1.firing } x.1.badRun
    (judgedChannel c x).1.badRun = run ∧ (judgedChannel c x).2 = (x.2 || decide (run = 3)) := by
  obtain ⟨window, bad⟩ := Injector.cutShort_window_some h
  rw [judgedChannel_some window rfl, runAfter_eq, bad]
  exact ⟨rfl, rfl⟩

end Sys2Proof.Machine
end

section
/-! SETTLE_TIMER_EXPIRY: the close completed and, where it was the last of an ENDING session, the session too (R52, R72, R136;
O42). -/

namespace Sys2Proof.Machine

variable {s t u : State} {a : ArmId} {k : CompId} {b : Batch} {c : Close} {ahead : Nat} {r : Retention}

/-! ## What the completion of the session leaves -/

/-- What the completion of a session and the start of the idle timer leave of arms, headers and channels. -/
structure State.Concludes (u t : State) : Prop where
  arm : ∀ i, (t.arm i).disowned = (u.arm i).disowned
  ownShare : ∀ h, (t.header h).ownShare = (u.header h).ownShare
  channel : ∀ i, (t.injector i).firing = (u.injector i).firing ∧ (t.injector i).window = (u.injector i).window
  session : t.session.endReason = u.session.endReason ∧ t.session.outcome = u.session.outcome

theorem State.closeSession_channel (s : State) (i : InjectorId) : (s.closeSession.injector i).firing = (s.injector i).firing ∧
    (s.closeSession.injector i).window = (s.injector i).window := by
  have same : s.closeSession.injector i = { s.injector i with badRun := 0 } := by
    rw [s.closeSession_rest]
    exact vec4_get _ i
  rw [same]
  exact ⟨rfl, rfl⟩

theorem State.completeEnding_concludes (u : State) : u.Concludes u.completeEnding := by
  have session : u.completeEnding.session.endReason = u.session.endReason ∧ u.completeEnding.session.outcome = u.session.outcome := by
    rcases u.completeEnding_session with e | e <;> rw [e] <;> exact ⟨rfl, rfl⟩
  by_cases completes : u.session.state = .ending ∧ u.allClosed = true
  · obtain ⟨ending, closed⟩ := completes
    have settled := u.settleBatches_settlesTo
    have injectors : u.settleBatches.injectors = u.injectors := by rw [settled.rest]
    by_cases fits : ¬ u.hasStarted ∨ u.Room
    · have done := State.completeEnding_closes ending closed fits
      have idem (m : Arm) : m.disowned.disowned = m.disowned := rfl
      refine ⟨fun i => by rw [done.arm, idem], fun h => ?_, fun i => ?_, session⟩
      · obtain ⟨w, same⟩ := done.header h
        rw [same]
      · by_cases started : u.hasStarted
        · have issued := u.settleBatches.issueNote_issuesTo.rest
          rw [State.completeEnding_issues ending closed started (fits.resolve_left (not_not.mpr started))]
          have same : u.settleBatches.issueNote.injectors = u.injectors := by rw [issued, settled.rest]
          have last := u.settleBatches.issueNote.closeSession_channel i
          unfold State.injector at last ⊢
          rw [same] at last
          exact last
        · rw [State.completeEnding_unstarted ending closed started]
          have last := u.settleBatches.closeSession_channel i
          unfold State.injector at last ⊢
          rw [injectors] at last
          exact last
    · obtain ⟨started, full⟩ := not_or.mp fits
      have arms : u.settleBatches.arms = u.arms := by rw [settled.rest]
      have waits := State.completeEnding_waits ending closed (not_not.mp started) full
      refine ⟨fun i => ?_, fun h => ?_, fun i => ?_, session⟩
      · rw [waits]
        exact congrArg (fun v : Vector Arm 4 => v[i].disowned) arms
      · obtain ⟨w, cleared⟩ := settled.headers h
        rw [waits]
        exact (congrArg Header.ownShare cleared :)
      · rw [waits]
        exact ⟨congrArg (fun v : Vector Injector 4 => v[i].firing) injectors,
          congrArg (fun v : Vector Injector 4 => v[i].window) injectors⟩
  · have same : u.completeEnding = u := if_neg completes
    rw [same]
    exact ⟨fun _ => rfl, fun _ => rfl, fun _ => ⟨rfl, rfl⟩, rfl, rfl⟩

/-! ## The idle timer started (R49) -/

theorem State.startIdle_eq (s : State) : ∃ idle, s.startIdle = { s with session := { s.session with idle := idle } } := by
  unfold State.startIdle
  split
  · exact ⟨_, rfl⟩
  · exact ⟨s.session.idle, rfl⟩

theorem State.startIdle_other (h : s.session.state ≠ .admitted) : s.startIdle = s := by
  have off : (s.session.state == SessionState.admitted) = false := beq_false_of_ne h
  unfold State.startIdle State.idleConditions
  rw [off]
  exact if_neg (by simp)

theorem State.startIdle_starts (admitted : s.session.state = .admitted) (closed : s.allClosed = true) (empty : s.startQueue = [])
    (hr : s.restart = false) (stopped : s.session.idle = none) :
    s.startIdle.session.idle = some (s.now + s.cfg.idleLimit * 1000) := by
  have on : (s.idleConditions && !s.restart && s.session.idle == none) = true := by
    unfold State.idleConditions
    rw [admitted, closed, empty, hr, stopped]
    rfl
  unfold State.startIdle
  rw [if_pos on]
  rfl

theorem exec_settleTimerExpiry (runs : (s.arm a).settle ≠ none) (close : (s.arm a).close = some c) :
    exec (.settleTimerExpiry a) s = .next (s.completeClose a c) := by
  have expires : (if (s.arm a).settle = none then s else match (s.arm a).close with
      | some c => s.completeClose a c
      | none => s) = s.completeClose a c := by
    rw [if_neg runs, close]
  exact congrArg Host.Outcome.next expires

/-! ## The part after SETTLE_TIMER_EXPIRY -/

/-- `t` is the part after the close has been completed as `u`, the session's completion and the idle timer included. -/
structure State.ConcludedAs (s : State) (a : ArmId) (c : Close) (ahead : Nat) (r : Retention) (u t : State) : Prop where
  down : s.ClosedDown a c ahead r u
  handed : Retention.Handed (s.closeBlock a) s.retention r
  ahead : s.AheadAfter a c ahead
  eq : t = u.completeEnding.startIdle

theorem State.completeClose_concluded (closing : (s.arm a).stage = .closing) (c : Close) :
    ∃ ahead r u, s.ConcludedAs a c ahead r u (s.completeClose a c) := by
  obtain ⟨ahead, r, handed, value, down⟩ := State.closedDown closing c
  exact ⟨ahead, r, _, down, handed, value, s.completeClose_eq a c⟩

/-- The close was the last of an ENDING session. -/
def State.LastClose (s : State) (a : ArmId) : Prop := s.session.state = .ending ∧ ∀ j, j ≠ a → (s.arm j).stage = .closed

namespace State.ConcludedAs

variable (h : s.ConcludedAs a c ahead r u t)
include h

theorem concludes : u.Concludes t := by
  obtain ⟨idle, started⟩ := u.completeEnding.startIdle_eq
  have ends := u.completeEnding_concludes
  rw [h.eq, started]
  exact ⟨ends.arm, ends.ownShare, ends.channel, ends.session⟩

theorem last : u.session.state = .ending ∧ u.allClosed = true ↔ s.LastClose a :=
  and_congr (by rw [h.down.sessionState]) h.down.allClosed

/-- Where the session does not end the part is as the close left it, the idle timer apart. -/
theorem goes_on (on : ¬ s.LastClose a) : ∃ idle, t = { u with session := { u.session with idle := idle } } := by
  obtain ⟨idle, started⟩ := u.startIdle_eq
  have same : u.completeEnding = u := if_neg (mt h.last.mp on)
  exact ⟨idle, h.eq.trans ((congrArg State.startIdle same).trans started)⟩

theorem ended (last : s.LastClose a) : t = u.completeEnding := by
  obtain ⟨ending, closed⟩ := h.last.mpr last
  rw [h.eq]
  refine State.startIdle_other ?_
  rcases u.completeEnding_session with e | e <;> rw [e]
  · rw [ending]
    nofun
  · nofun

theorem closes (last : s.LastClose a) (fits : ¬ u.hasStarted ∨ u.Room) : u.ClosedTo t := by
  obtain ⟨ending, closed⟩ := h.last.mpr last
  rw [h.ended last]
  exact State.completeEnding_closes ending closed fits

theorem waits (last : s.LastClose a) (started : u.hasStarted) (full : ¬ u.Room) : t.session = u.session ∧
    t.notes = { u.notes with issueWaiting := true } ∧ t.retention = u.retention ∧
      ∀ k, t.batch k = (u.batch k).bind settledBatch := by
  obtain ⟨ending, closed⟩ := h.last.mpr last
  rw [h.ended last]
  exact State.completeEnding_waiting ending closed started full

theorem injectors (rest : ¬ s.LastClose a ∨ t.session.state = .ending) (i : InjectorId) :
    t.injector i = u.injector i ∧ t.session.latches = u.session.latches := by
  by_cases last : s.LastClose a
  · obtain ⟨ending, closed⟩ := h.last.mpr last
    have stays := rest.resolve_left (not_not.mpr last)
    have stuck : ¬ (¬ u.hasStarted ∨ u.Room) := fun fits => by
      rw [(h.closes last fits).session] at stays
      exact nomatch stays
    obtain ⟨started, full⟩ := not_or.mp stuck
    obtain ⟨session, -⟩ := h.waits last (not_not.mp started) full
    have settled := u.settleBatches_settlesTo
    have injectors : u.settleBatches.injectors = u.injectors := by rw [settled.rest]
    refine ⟨?_, by rw [session]⟩
    rw [h.ended last, State.completeEnding_waits ending closed (not_not.mp started) full]
    exact congrArg (fun v : Vector Injector 4 => v[i]) injectors
  · obtain ⟨idle, same⟩ := h.goes_on last
    rw [same]
    exact ⟨rfl, rfl⟩

/-! ### The arm -/

theorem field {β : Type} (f : Arm → β) (hf : ∀ m : Arm, f m.seen = f m := by intro _; rfl)
    (hd : ∀ m : Arm, f m.disowned = f m := by intro _; rfl) : f (t.arm a) = f (s.closedArm a ahead) := by
  rw [← hd (t.arm a), h.concludes.arm a, hd]
  exact h.down.field f hf

theorem kept {β : Type} (f : Arm → β) (hf : ∀ m : Arm, f m.seen = f m := by intro _; rfl)
    (hd : ∀ m : Arm, f m.disowned = f m := by intro _; rfl)
    (hc : ∀ (m : Arm) n, f (Arm.shut { m.quietChannel with closeAhead := n }) = f m := by intros; rfl) :
    f (t.arm a) = f (s.slicedArm a) := (h.field f hf hd).trans (s.closedArm_field f a ahead fun m => hc m ahead)

theorem other {β : Type} {j : ArmId} (hj : j ≠ a) (f : Arm → β) (hf : ∀ m : Arm, f m.sansShares = f m := by intro _; rfl)
    (hd : ∀ m : Arm, f m.disowned = f m := by intro _; rfl) : f (t.arm j) = f (s.arm j) := by
  rw [← hd (t.arm j), h.concludes.arm j, hd]
  exact h.down.otherField hj f hf

theorem gross : (t.arm a).live.gross = (s.slicedArm a).live.gross := h.kept fun m => m.live.gross

theorem volumes : (t.arm a).SameVolumes (s.slicedArm a) :=
  ⟨h.gross, h.kept fun m => m.live.std, h.kept fun m => m.live.weighted, h.kept fun m => m.live.grossRem,
    h.kept fun m => m.live.stdRem, h.kept Arm.grossTotal, h.kept Arm.stdTotal⟩

theorem converts : Converts s.now (s.arm a) (t.arm a) :=
  (s.slicedArm_converts a).congr rfl rfl (h.kept Arm.converter) (h.kept Arm.resultsOwed)

theorem quiet : (t.arm a).stage = .closed ∧ (t.arm a).close = none ∧ (t.arm a).leak = false ∧ (t.arm a).counting = false ∧
    (t.arm a).settle = none ∧ (t.arm a).closeLimit = none ∧ (t.arm a).sliceTimer = none ∧ (t.arm a).flowCounter = none ∧
    (t.arm a).lastRate = (s.arm a).lastRate ∧ (t.arm a).sliceCounter = (s.armCfg a).slice := by
  obtain ⟨stage, close, leak, counting, settle, limit, slice, flow, -⟩ := s.closedArm_quiet a ahead
  exact ⟨(h.field Arm.stage).trans stage, (h.field Arm.close).trans close, (h.field Arm.leak).trans leak,
    (h.field Arm.counting).trans counting, (h.field Arm.settle).trans settle, (h.field Arm.closeLimit).trans limit,
    (h.field Arm.sliceTimer).trans slice, (h.field Arm.flowCounter).trans flow,
    (h.kept Arm.lastRate).trans (s.slicedArm_field Arm.lastRate a),
    (h.kept Arm.sliceCounter).trans (s.slicedArm_sliceCounter a)⟩

theorem solenoids : t.lowSolenoid a = false ∧ t.mainSolenoid a = false := by
  have closed := h.quiet.1
  unfold State.lowSolenoid State.mainSolenoid
  rw [closed]
  exact ⟨Bool.and_false _, Bool.and_false _⟩

theorem share : (t.header (s.armCfg a).header).ownShare = (s.header (s.armCfg a).header).ownShare - (s.arm a).heldShare :=
  (h.concludes.ownShare _).trans h.down.ownShare

theorem closeAhead : (t.arm a).closeAhead = ahead := h.field Arm.closeAhead

theorem block : (⟨vec4 fun i => (t.arm i).grossTotal, vec4 fun i => (t.arm i).stdTotal⟩ : Totals) = s.closeBlock a := by
  have total {β : Type} (f : Arm → β) (hd : ∀ m : Arm, f m.disowned = f m) (i : ArmId) : f (t.arm i) = f (u.arm i) := by
    rw [← hd (t.arm i), h.concludes.arm i, hd]
  rw [vec4_congr (total Arm.grossTotal fun _ => rfl), vec4_congr (total Arm.stdTotal fun _ => rfl)]
  exact h.down.totalsNow

/-! ### The write queue -/

theorem room_iff : u.Room ↔ s.notes.outbox = [] ∧ r.queue.length < 4 := by
  have notes : u.notes = s.notes := by rw [h.down.rest]
  unfold State.Room
  rw [notes, h.down.retention]

theorem no_room (full : s.notes.outbox ≠ [] ∨ 3 ≤ s.retention.queue.length) : ¬ u.Room := by
  rw [h.room_iff]
  rintro ⟨outbox, room⟩
  have long := full.resolve_left (not_not.mpr outbox)
  by_cases place : s.retention.queue.length < 4
  · have one : [Write.totals (s.closeBlock a)].length = 1 := rfl
    rw [h.handed.room place, List.length_append] at room
    omega
  · rw [(h.handed.full (Nat.not_lt.mp place)).1] at room
    exact place room

/-- With no room for the note behind the block nothing but the block is handed over. -/
theorem retention (full : ¬ s.LastClose a ∨ s.notes.outbox ≠ [] ∨ 3 ≤ s.retention.queue.length) : t.retention = r := by
  by_cases last : s.LastClose a
  · obtain ⟨ending, closed⟩ := h.last.mpr last
    by_cases started : u.hasStarted
    · have stuck := h.no_room (full.resolve_left (not_not.mpr last))
      obtain ⟨-, -, kept, -⟩ := h.waits last started stuck
      exact kept.trans h.down.retention
    · rw [h.ended last, (State.completeEnding_unstarted_notes ending closed started).2, h.down.retention]
  · obtain ⟨idle, same⟩ := h.goes_on last
    rw [same]
    exact h.down.retention

/-! ### The owner batch -/

/-- The batch record while it stands: as the close leaves it, a stopped batch ENDED where the session ends (R73). -/
theorem batch {b' : Batch} (own : (s.arm a).owner = some k) (held : s.batch k = some b) (stands : t.batch k = some b') :
    ∃ x, Batch.Closed c (s.slicedArm a).live.gross b x ∧ b' = { x with state := b'.state } ∧
      (¬ s.LastClose a → b'.state = x.state) ∧
      (s.LastClose a → b'.state = if x.state = .waiting ∨ x.state = .suspended then .ended else x.state) := by
  obtain ⟨x, after, plain⟩ := h.down.batch_owner own held
  have closed := (b.closedBy_closed c (s.slicedArm a).live.gross).of_plain plain
  refine ⟨x, closed, ?_⟩
  by_cases last : s.LastClose a
  · by_cases fits : ¬ u.hasStarted ∨ u.Room
    · have gone : t.batch k = none := by
        unfold State.batch
        rw [(h.closes last fits).batches]
        exact Vector.getElem_replicate _
      exact nomatch stands.symm.trans gone
    · obtain ⟨started, full⟩ := not_or.mp fits
      have settled := (h.waits last (not_not.mp started) full).2.2.2 k
      rw [after, stands] at settled
      have kept : ¬ x.dropped := fun out => nomatch settled.trans (settledBatch_dropped out)
      cases settled.trans (settledBatch_kept kept)
      exact ⟨rfl, fun on => absurd last on, fun _ => rfl⟩
  · obtain ⟨idle, same⟩ := h.goes_on last
    have going : t.batch k = u.batch k := by rw [same]; rfl
    cases stands.symm.trans (going.trans after)
    exact ⟨rfl, fun _ => rfl, fun on => absurd on last⟩

theorem owner_stands (on : ¬ s.LastClose a) (own : (s.arm a).owner = some k) (held : s.batch k = some b) :
    (t.arm a).owner = some k ∧ ∃ b', t.batch k = some b' := by
  obtain ⟨x, after, -⟩ := h.down.batch_owner own held
  obtain ⟨idle, same⟩ := h.goes_on on
  rw [same]
  exact ⟨h.down.owner.trans own, x, after⟩

/-! ### Learning (R137) -/

theorem learns (own : (s.arm a).owner = some k) (held : s.batch k = some b) (normal : c.kind = .normal)
    (cause : c.cause = .closeAhead) (dry : (s.arm a).leak = false) : ((t.arm a).closeAhead : Int) =
      max 0 (min 2000 ((s.arm a).closeAhead + ((t.arm a).live.gross - (b.pendPreset.getD b.preset : Int) * 100).tdiv 2)) := by
  have value := h.ahead k b own held
  rw [if_pos normal] at value
  unfold Arm.aheadAfter at value
  rw [if_pos ⟨cause, dry⟩] at value
  rw [h.closeAhead, value, h.gross]
  exact Int.toNat_of_nonneg (le_max_left _ _)

theorem keeps_ahead (own : (s.arm a).owner = some k) (held : s.batch k = some b)
    (other : c.kind = .stop ∨ c.cause ≠ .closeAhead ∨ (s.arm a).leak = true) : (t.arm a).closeAhead = (s.arm a).closeAhead := by
  rw [h.closeAhead, h.ahead k b own held]
  rcases other with stop | other
  · exact if_neg fun normal => CloseKind.noConfusion (stop.symm.trans normal)
  · split
    · refine if_neg fun both => other.elim (fun no => no both.1) fun leak => ?_
      exact Bool.false_ne_true (both.2.symm.trans leak)
    · rfl

/-! ### The windows (R145, R147, R148) -/

theorem windows {i : InjectorId} (mine : (s.injectorCfg i).arm = a) :
    (t.injector i).firing = false ∧ (t.injector i).window = none := by
  have channel := congrArg Prod.fst (h.down.channel i)
  rw [if_pos mine] at channel
  obtain ⟨firing, window⟩ := judgedChannel_shut (s.injectorCfg i) (s.channel i)
  obtain ⟨keptF, keptW⟩ := h.concludes.channel i
  exact ⟨(keptF.trans (congrArg Injector.firing channel)).trans firing,
    (keptW.trans (congrArg Injector.window channel)).trans window⟩

theorem runs (rest : ¬ s.LastClose a ∨ t.session.state = .ending) {i : InjectorId} {w : Window} (mine : (s.injectorCfg i).arm = a)
    (held : (s.injector i).window = some w) :
    let run := badRunAfter (s.injectorCfg i) { w with cut := w.cut || (s.injector i).firing } (s.injector i).badRun
    (t.injector i).badRun = run ∧ t.session.latches[i] = (s.session.latches[i] || decide (run = 3)) := by
  obtain ⟨injector, latches⟩ := h.injectors rest i
  have channel := h.down.channel i
  rw [if_pos mine] at channel
  obtain ⟨run, latch⟩ := judgedChannel_run (c := s.injectorCfg i) (x := s.channel i) held
  rw [injector, latches]
  exact ⟨(congrArg (fun x => x.1.badRun) channel).trans run, (congrArg Prod.snd channel).trans latch⟩

/-! ### The idle timer (R49) -/

theorem idle_starts (admitted : s.session.state = .admitted) (stopped : s.session.idle = none) (empty : s.startQueue = [])
    (closed : ∀ j, j ≠ a → (s.arm j).stage = .closed) (hr : s.restart = false) :
    t.session.idle = some (s.now + s.cfg.idleLimit * 1000) := by
  have on : ¬ s.LastClose a := fun last => nomatch admitted.symm.trans last.1
  have same : u.completeEnding = u := if_neg (mt h.last.mp on)
  have rest := h.down.rest
  have now : u.now = s.now := by rw [rest]
  have cfg : u.cfg = s.cfg := by rw [rest]
  rw [h.eq, same, State.startIdle_starts (h.down.sessionState.trans admitted) (h.down.allClosed.mpr closed) (by rw [rest]; exact empty)
    (by rw [rest]; exact hr) (by rw [rest]; exact stopped), now, cfg]

end State.ConcludedAs

/-! ## The note of a last close (R171, R172) -/

/-- The completion keeps a record of the compartment (R73). -/
def State.keepsLine (s : State) (k : CompId) : Bool := ((s.batch k).bind settledBatch).isSome

theorem State.noteLines_length (s : State) : s.noteLines.length = allComps.countP s.keepsLine := by
  unfold State.noteLines
  rw [List.length_filterMap_eq_countP]
  refine List.countP_congr fun k _ => iff_of_eq (congrArg (· = true) ?_)
  have same : s.keepsLine k = ((s.batches[k]).bind settledBatch).isSome := rfl
  rw [same]
  cases s.batches[k] with
  | none => rfl
  | some b =>
    by_cases gone : b.dropped
    · rw [Option.bind_some, settledBatch_dropped gone]
      exact congrArg Option.isSome (if_pos gone)
    · rw [Option.bind_some, settledBatch_kept gone]
      exact congrArg Option.isSome (if_neg gone)

theorem State.BatchesSettled.records_length (h : s.BatchesSettled t) : t.records.length = s.noteLines.length := by
  rw [State.noteLines_length]
  unfold State.records
  rw [List.length_filterMap_eq_countP]
  refine List.countP_congr fun k _ => ?_
  rw [Option.isSome_map, h k]
  rfl

theorem State.noteLines_congr (h : ∀ k, t.keepsLine k = s.keepsLine k) : t.noteLines.length = s.noteLines.length := by
  rw [State.noteLines_length, State.noteLines_length, funext h]

theorem settledBatch_isSome {x y : Batch} (state : y.state = x.state) (started : y.started = x.started) :
    (settledBatch y).isSome = (settledBatch x).isSome := by
  unfold settledBatch
  rw [state, started]
  cases x.state with
  | waiting => cases x.started <;> rfl
  | planned | active | suspended | done | ended => rfl

theorem Batch.Closed.state_eq {gross : Nat} {x : Batch} (h : Batch.Closed c gross b x) :
    x.state = if c.kind = .normal then .done else .suspended := by
  cases kind : c.kind with
  | normal => exact (h.normal kind).1
  | stop => exact (h.stop kind).1

theorem Batch.Closed.kept {gross : Nat} {x : Batch} (h : Batch.Closed c gross b x) : ¬ x.dropped := by
  have state := h.state_eq
  rintro (e | ⟨e, -⟩) <;> rw [e] at state <;> split at state <;> exact nomatch state

/-- A close keeps the lines of the session's note: those of an ACTIVE batch it closes, and of every other as it was. -/
theorem State.ClosedDown.keepsLine {u : State} (d : s.ClosedDown a c ahead r u) (own : (s.arm a).owner = some k)
    (held : s.batch k = some b) (active : b.state = .active) (j : CompId) : u.keepsLine j = s.keepsLine j := by
  unfold State.keepsLine
  by_cases e : j = k
  · subst e
    obtain ⟨x, after, plain⟩ := d.batch_owner own held
    have closed := (b.closedBy_closed c (s.slicedArm a).live.gross).of_plain plain
    have open_ : ¬ b.dropped := by
      rintro (e | ⟨e, -⟩) <;> exact nomatch active.symm.trans e
    rw [after, held, Option.bind_some, Option.bind_some, settledBatch_kept closed.kept, settledBatch_kept open_]
    rfl
  · have seen := d.batches j
    have other : ¬ (s.arm a).owner = some j := fun same => e (Option.some.inj (same.symm.trans own))
    simp only [if_neg other] at seen
    cases before : s.batch j with
    | none =>
      rw [before, Option.map_none, Option.map_eq_none_iff] at seen
      rw [seen]
    | some y =>
      rw [before, Option.map_some] at seen
      obtain ⟨x, after, plain⟩ := Option.map_eq_some_iff.mp seen
      rw [after, Option.bind_some, Option.bind_some]
      exact settledBatch_isSome (congrArg Batch.state plain :) (congrArg Batch.started plain :)

/-- A note of one line carries that line's SHORT flag (R190). -/
theorem State.noteRecord_short {b' : Batch} {number : Nat} (one : t.records.length = 1) (held : t.batch k = some b') :
    (fieldAt (t.noteRecord number) 49 1).testBit 2 = b'.flags.short := by
  obtain ⟨x, alone⟩ := List.length_eq_one_iff.mp one
  have mine : (k, b') ∈ t.records := State.mem_records.mpr held
  have lines := t.noteRecord_lines number
  rw [alone] at mine lines
  cases List.mem_singleton.mp mine
  have line : (t.noteRecord number).drop 26 = t.noteLine k b' := by simpa using lines
  have place : fieldAt (t.noteRecord number) 49 1 = fieldAt (t.noteLine k b') 23 1 := by rw [← line, fieldAt_drop]
  rw [place, t.noteLine_flags]

namespace State.ConcludedAs

variable (h : s.ConcludedAs a c ahead r u t) (last : s.LastClose a) (own : (s.arm a).owner = some k)
  (held : s.batch k = some b)
include h

/-- The block leaves a place for the note. -/
theorem handed_room (place : s.retention.queue.length < 3) :
    r.queue = s.retention.queue ++ [.totals (s.closeBlock a)] ∧ r.queue.length < 4 := by
  have queue := h.handed.room (Nat.lt_succ_of_lt place)
  refine ⟨queue, ?_⟩
  rw [queue, List.length_append]
  exact Nat.succ_lt_succ place

include own held in
theorem hasStarted (started : b.started = true) : u.hasStarted := by
  obtain ⟨x, after, plain⟩ := h.down.batch_owner own held
  have closed := (b.closedBy_closed c (s.slicedArm a).live.gross).of_plain plain
  exact ⟨x, k, after, closed.started.trans started, fun planned => closed.kept (.inl planned)⟩

include own held in
/-- Where the completion waits the batch stands as it is settled (R73). -/
theorem waiting_batch (last : s.LastClose a) (started : u.hasStarted) (stuck : ¬ u.Room) :
    ∃ b', t.batch k = some b' ∧ b'.state = if c.kind = .normal then .done else .ended := by
  obtain ⟨-, -, -, settled⟩ := h.waits last started stuck
  obtain ⟨x, after, plain⟩ := h.down.batch_owner own held
  have closed := (b.closedBy_closed c (s.slicedArm a).live.gross).of_plain plain
  have now := settled k
  rw [after, Option.bind_some, settledBatch_kept closed.kept] at now
  refine ⟨_, now, ?_⟩
  dsimp only
  rw [closed.state_eq]
  cases c.kind <;> rfl

include last in
theorem startQueue : t.startQueue = [] := by
  obtain ⟨ending, closed⟩ := h.last.mpr last
  rw [h.ended last]
  exact State.completeEnding_startQueue ending closed

include last own held in
/-- With room the note of the completion joins the store, its write behind the totalizer block (R172). -/
theorem issues (active : b.state = .active) (started : b.started = true) (outbox : s.notes.outbox = [])
    (place : s.retention.queue.length < 3) : ∃ record, s.NoteHead s.notes.nextNumber s.session.endReason record ∧
      fieldAt record 25 1 = s.noteLines.length - 1 ∧
      (c.kind = .normal → s.noteLines.length = 1 → (fieldAt record 49 1).testBit 2 =
        (b.flags.short || decide ((s.slicedArm a).live.gross + 50 < b.pendPreset.getD b.preset * 100))) ∧
      t.notes.entries = s.notes.entries ++ [(s.notes.nextNumber, record)] ∧
      t.retention.queue = s.retention.queue ++ [.totals (s.closeBlock a), .note s.notes.nextNumber record t.notes.nextNumber] := by
  obtain ⟨ending, closed⟩ := h.last.mpr last
  obtain ⟨queue, room⟩ := h.handed_room place
  have issued := State.completeEnding_issued ending closed (h.hasStarted own held started) (h.room_iff.mpr ⟨outbox, room⟩)
  have rest := h.down.rest
  have notes : u.notes = s.notes := by rw [rest]
  have settled := u.settleBatches_settlesTo
  obtain ⟨y, hy⟩ : ∃ y, y = u.settleBatches := ⟨_, rfl⟩
  have session : y.session = u.session := by rw [hy]; exact u.settleBatches_session
  have store := issued.store
  have writes := issued.queue
  rw [notes, ← hy, ← h.ended last] at store writes
  rw [← hy] at settled
  have head := (y.noteRecord_head s.notes.nextNumber).of_eq (s := s) (by rw [settled.rest, rest]) (by rw [settled.rest, rest])
    (by rw [session, rest]) (by rw [session, rest]) (by rw [session, rest])
  have count : y.records.length = s.noteLines.length :=
    settled.batches.records_length.trans (State.noteLines_congr (h.down.keepsLine own held active))
  refine ⟨y.noteRecord s.notes.nextNumber, ?_, ?_, fun normal one => ?_, store, ?_⟩
  · rw [show y.session.endReason = s.session.endReason by rw [session, rest]] at head
    exact head
  · rw [y.noteRecord_count, count]
  · obtain ⟨x, after, plain⟩ := h.down.batch_owner own held
    have done := (b.closedBy_closed c (s.slicedArm a).live.gross).of_plain plain
    obtain ⟨-, -, short⟩ := done.normal normal
    have now := settled.batches k
    rw [after, Option.bind_some, settledBatch_kept done.kept] at now
    rw [State.noteRecord_short (count.trans one) now]
    exact short
  · rw [writes, h.down.retention, queue, List.append_assoc]
    rfl

end State.ConcludedAs

/-- Settles O42: the completion as `State.ConcludedAs` has it, by the arm and its batch, and of an ENDING session by its
issue. -/
theorem closeCompletes : Obligations.CloseCompletes := by
  refine ⟨fun s a cl k b runs close closing own held hr => ?_, fun s a cl runs close closing ending hr => ?_⟩
  · obtain ⟨ahead, r, u, h⟩ := State.completeClose_concluded closing cl
    obtain ⟨stage, noClose, leak, counting, settle, limit, slice, flow, rate, counter⟩ := h.quiet
    refine ⟨_, exec_settleTimerExpiry runs close, stage, noClose, leak, counting, settle, limit, slice, flow, rate, counter,
      h.solenoids.1, h.solenoids.2, h.share, fun full => ?_, fun on => h.owner_stands on own held, fun b' stands => ?_,
      h.learns own held, h.keeps_ahead own held, fun j hj => ⟨h.other hj Arm.stage, h.other hj Arm.live⟩, fun i => h.windows,
      fun admitted stopped empty closed => h.idle_starts admitted stopped empty closed hr, State.sliceAdded_of_volumes h.volumes,
      h.converts, fun rest i w mine => h.runs rest mine⟩
    · rw [h.block, h.retention full]
      exact ⟨h.handed.room, h.handed.full⟩
    · obtain ⟨x, closed, same, going, ended⟩ := h.batch own held stands
      have field {β : Type} (f : Batch → β) (hf : ∀ (b : Batch) st, f { b with state := st } = f b := by intros; rfl) : f b' = f x := by
        rw [same, hf]
      refine ⟨(field Batch.preset).trans closed.preset, (field Batch.pendPreset).trans closed.applied,
        (field Batch.grade).trans closed.grade, (field Batch.started).trans closed.started, fun normal => ?_, fun stop => ?_⟩
      · obtain ⟨done, count, short⟩ := closed.normal normal
        have state : b'.state = .done := by
          by_cases last : s.LastClose a
          · rw [ended last, done]
            rfl
          · rw [going last, done]
        rw [← h.gross, ← field fun b => b.flags.short] at short
        refine ⟨state, (field Batch.suspCount).trans count, fun less => ?_, fun more => ?_⟩
        · rw [short, decide_eq_true less, Bool.or_true]
        · rw [short, decide_eq_false (Nat.not_lt.mpr more), Bool.or_false]
      · obtain ⟨suspended, reason, count, short⟩ := closed.stop stop
        refine ⟨fun on => (going on).trans suspended, fun last => ?_, (field Batch.suspReason).trans reason,
          (field Batch.suspCount).trans count, (field fun b => b.flags.short).trans short⟩
        rw [ended last, suspended]
        rfl
  · obtain ⟨ahead, r, u, h⟩ := State.completeClose_concluded closing cl
    have session : u.session.endReason = s.session.endReason ∧ u.session.outcome = s.session.outcome ∧
        u.session.permit = s.session.permit := by
      rw [h.down.rest]
      exact ⟨rfl, rfl, rfl⟩
    have notes : u.notes = s.notes := by rw [h.down.rest]
    refine ⟨_, exec_settleTimerExpiry runs close, h.quiet.1, h.concludes.session.1.trans session.1,
      h.concludes.session.2.trans session.2.1, h.share, fun ⟨j, hj, opened⟩ => ?_, fun others => ?_⟩
    · obtain ⟨idle, same⟩ := h.goes_on fun last => opened (last.2 j hj)
      rw [same]
      exact ⟨h.down.sessionState.trans ending, session.2.2, notes⟩
    · have last : s.LastClose a := ⟨ending, others⟩
      refine ⟨h.startQueue last, fun k b own held active started => ⟨fun outbox place => ?_, fun full => ?_⟩⟩
      · have fits : u.Room := h.room_iff.mpr ⟨outbox, (h.handed_room place).2⟩
        have done := h.closes last (.inr fits)
        obtain ⟨record, head, count, short, store, queue⟩ := h.issues last own held active started outbox place
        refine ⟨congrArg Session.state done.session, congrArg Session.permit done.session, congrArg Session.tag done.session,
          congrArg Session.latches done.session, done.batches, fun j => ?_, ⟨s.notes.nextNumber, record, none⟩, store, rfl, head,
          count, fun normal one => ?_, ?_⟩
        · rw [done.arm]
          exact ⟨rfl, rfl⟩
        · rw [h.gross]
          exact short normal one
        · dsimp only
          rw [h.block]
          exact queue
      · have stuck := h.no_room full
        have some := h.hasStarted own held started
        obtain ⟨state, waits, -, -⟩ := h.waits last some stuck
        rw [state, waits, notes]
        exact ⟨h.down.sessionState.trans ending, session.2.2, rfl, rfl, h.waiting_batch own held last some stuck⟩

end Sys2Proof.Machine
end

section
/-! The panel port's own events, and where a request reaches no owner (R185, R180, R181). -/

namespace Sys2Proof.Machine

variable {s : State} {c : Instr} {owner : State → State × Answer}

/-! ## The end of a frame (R185) -/

theorem State.frameEnd_answering (take : State → State) (h : s.panel.port = .answering) : s.frameEnd take = s := by
  unfold State.frameEnd Panel.atFrameEnd
  rw [if_pos h]

theorem State.frameEnd_discarding (take : State → State) (h : s.panel.port ≠ .answering) (hd : s.panel.discarding = true) :
    s.frameEnd take = { s with panel := { s.panel with discarding := false } } := by
  unfold State.frameEnd Panel.atFrameEnd
  rw [if_neg h, if_pos hd]

theorem State.frameEnd_receiving (take : State → State) (h : s.panel.port ≠ .answering) (hd : s.panel.discarding = false) :
    s.frameEnd take = take s := by
  unfold State.frameEnd Panel.atFrameEnd
  rw [if_neg h, if_neg (by rw [hd]; nofun)]

/-! ## A request that reaches no owner (R180, R181, R192) -/

theorem State.request_configFault (h : s.panel.port ≠ .answering) (hd : s.panel.discarding = false) (fault : s.station = .configFault) :
    s.request true owner = s.answered (.configFault s.faultKind) := by
  unfold State.request
  rw [State.frameEnd_receiving _ h hd, if_neg (by simp), if_pos fault, State.answer_eq hd]

theorem State.request_starting (h : s.panel.port ≠ .answering) (hd : s.panel.discarding = false) (sound : s.station ≠ .configFault)
    (line : s.restart = true) : s.request true owner = s.answered (.refused .starting) := by
  unfold State.request
  rw [State.frameEnd_receiving _ h hd, if_neg (by simp), if_neg sound, if_pos line, State.answer_eq hd]

theorem State.request_format (h : s.Asks) : s.request false owner = s.answered (.refused .format) := by
  unfold State.request
  rw [State.frameEnd_receiving _ h.port h.clear, if_pos (by simp), State.answer_eq h.clear]

/-- A request frame with its fields in range. -/
def RequestInRange (c : Instr) : Prop :=
  c ∈ [Instr.finish, .statusSession, .clearStop] ∨
    (∃ k n, c ∈ [Instr.cancel k, .start k, .resume k, .hold k, .statusCompartment k, .noteCopy n]) ∨
    (∃ card : List Byte, card.length = 12 ∧ c = .present card) ∨
    (∃ (k g a : Byte) (p : BitVec 24), g.toNat ≤ 15 ∧ 1 ≤ p.toNat ∧ p.toNat ≤ 99999 ∧ (a.toNat ≤ 3 ∨ a = 255) ∧
      c = .plan k g p a) ∨
    (∃ (k : Byte) (p : BitVec 24), 1 ≤ p.toNat ∧ p.toNat ≤ 99999 ∧ c = .amend k p) ∨
    ∃ a : Byte, a.toNat ≤ 3 ∧ c = .statusArm a

theorem armOk_iff {a : Byte} : armOk a = true ↔ a.toNat ≤ 3 := decide_eq_true_iff

/-- Each such request is put to an owner. -/
theorem RequestInRange.asks (h : RequestInRange c) (s : State) : ∃ owner, exec c s = .next (s.request true owner) := by
  rcases h with h | ⟨k, n, h⟩ | ⟨card, length, rfl⟩ | ⟨k, g, a, p, grade, low, high, arm, rfl⟩ | ⟨k, p, low, high, rfl⟩ |
    ⟨a, arm, rfl⟩
  · simp only [List.mem_cons, List.not_mem_nil, or_false] at h
    rcases h with rfl | rfl | rfl <;> exact ⟨_, rfl⟩
  · simp only [List.mem_cons, List.not_mem_nil, or_false] at h
    rcases h with rfl | rfl | rfl | rfl | rfl | rfl <;> exact ⟨_, rfl⟩
  · have ok : (card.length == 12) = true := beq_iff_eq.mpr length
    exact ⟨State.presentCard card, congrArg (fun b => Host.Outcome.next (s.request b (State.presentCard card))) ok⟩
  · have ok : (gradeOk g && presetOk p && namedArmOk a) = true := by
      have named : namedArmOk a = true := Bool.or_eq_true_iff.mpr (arm.imp decide_eq_true beq_iff_eq.mpr)
      rw [named, show gradeOk g = true from decide_eq_true grade, show presetOk p = true from decide_eq_true ⟨low, high⟩]
      rfl
    exact ⟨State.planBatch k (toGrade g) p.toNat (toNamedArm a), congrArg (fun b => Host.Outcome.next (s.request b _)) ok⟩
  · have ok : presetOk p = true := decide_eq_true ⟨low, high⟩
    exact ⟨State.amendBatch k p.toNat, congrArg (fun b => Host.Outcome.next (s.request b _)) ok⟩
  · exact ⟨_, congrArg (fun b => Host.Outcome.next (s.request b fun s => (s, .accepted (s.armStatus (toArm a))))) (armOk_iff.mpr arm)⟩

/-! ## What a request that only reads answers -/

/-- A reading request: its owner leaves the part as it is. -/
theorem exec_reads {reply : State → Answer} (h : s.Asks) (runs : exec c s = .next (s.request true fun s => (s, reply s))) :
    exec c s = .next (s.asked.answered (reply s.asked)) := by
  rw [runs, State.request_asks h]
  exact congrArg Host.Outcome.next (State.answer_eq (s := s.asked) h.clear _)

theorem State.compartmentStatus_closed (k : Byte) (h : s.session.state = .none ∨ s.session.state = .checking) :
    s.compartmentStatus k = .refused .noSession := by
  unfold State.compartmentStatus State.sessionOpen
  rcases h with h | h <;> rw [h] <;> rfl

section OpenSession
variable {k : Byte} {i : CompId} (opened : s.session.state = .admitted ∨ s.session.state = .ending)
include opened

theorem State.compartmentStatus_open : s.compartmentStatus k = match s.compartment k with
    | none => .refused .badCompartment
    | some i => match s.batch i with
      | none => .refused .noBatch
      | some b => .accepted (s.compartmentFigures i b) := by
  unfold State.compartmentStatus State.sessionOpen
  rcases opened with h | h <;> rw [h] <;> rfl

theorem State.compartmentStatus_of_bad (place : s.compartment k = none) : s.compartmentStatus k = .refused .badCompartment := by
  rw [State.compartmentStatus_open opened, place]

theorem State.compartmentStatus_of_empty (place : s.compartment k = some i) (empty : s.batch i = none) :
    s.compartmentStatus k = .refused .noBatch := by
  rw [State.compartmentStatus_open opened, place]
  dsimp only
  rw [empty]

theorem State.compartmentStatus_of_batch {b : Batch} (place : s.compartment k = some i) (held : s.batch i = some b) :
    s.compartmentStatus k = .accepted (s.compartmentFigures i b) := by
  rw [State.compartmentStatus_open opened, place]
  dsimp only
  rw [held]

end OpenSession

theorem State.copyNote_found {n : Nat} {x : StoredNote} (held : x ∈ s.notes.store) (number : x.number = n)
    (only : ∀ y ∈ s.notes.store, y.number = n → y = x) : s.copyNote n = (s, .accepted x.record) := by
  have found : s.notes.store.find? (·.number == n) = some x := by
    cases e : s.notes.store.find? (·.number == n) with
    | none => exact absurd (beq_iff_eq.mpr number) (List.find?_eq_none.mp e x held)
    | some y => exact congrArg some (only y (List.mem_of_find?_eq_some e) (beq_iff_eq.mp (List.find?_some e :)))
  unfold State.copyNote
  rw [found]

theorem State.copyNote_missing {n : Nat} (none : ∀ x ∈ s.notes.store, x.number ≠ n) : s.copyNote n = (s, .refused .wrongState) := by
  have missing : s.notes.store.find? (·.number == n) = Option.none :=
    List.find?_eq_none.mpr fun x hx same => none x hx (beq_iff_eq.mp same)
  unfold State.copyNote
  rw [missing]

end Sys2Proof.Machine
end

section
/-! The bodies of STATUS answers as figures laid out (R193). -/

namespace Sys2Proof.Machine

variable {s : State} {rest : List Byte} {off w : Nat} {x : Option Nat}

theorem Carries.of_eq {bs : List Byte} {n m : Nat} (c : Carries bs off w (some n)) (e : n = m) : Carries bs off w (some m) := e ▸ c

/-- A body carries each of its figures at the place that their widths give. -/
theorem carries_figure {fs : List (Nat × Option Nat)} {widths : List Nat} (hw : fs.map Prod.fst = widths) (i : Nat)
    (h : fs[i]? = some (w, x)) (ho : (widths.take i).sum = off) : Carries (laidOut fs ++ rest) off w x :=
  carries_laidOut i h (by rw [List.map_take, hw, ho])

theorem figures_length {fs : List (Nat × Option Nat)} {widths : List Nat} (hw : fs.map Prod.fst = widths) :
    (laidOut fs).length = widths.sum := by rw [laidOut_length, hw]

/-! ## Rows of one width -/

theorem carries_rows {α : Type} {f : α → List Byte} {rows : List α} {q : α} {width i : Nat}
    (hw : ∀ x ∈ rows, (f x).length = width) (hi : rows[i]? = some q) (c : ∀ rest, Carries (f q ++ rest) off w x) :
    Carries (rows.flatMap f ++ rest) (width * i + off) w x := by
  obtain ⟨inside, item⟩ := List.getElem?_eq_some_iff.mp hi
  have length (l : List α) (hl : ∀ x ∈ l, (f x).length = width) : (l.flatMap f).length = width * l.length := by
    induction l with
    | nil => rfl
    | cons y l ih =>
      rw [List.flatMap_cons, List.length_append, hl y (.head _), ih fun x hx => hl x (.tail _ hx), List.length_cons]
      ring
  have split : rows.flatMap f ++ rest = (rows.take i).flatMap f ++ (f q ++ ((rows.drop (i + 1)).flatMap f ++ rest)) := by
    conv_lhs => rw [← List.take_append_drop i rows, List.drop_eq_getElem_cons inside, item]
    rw [List.flatMap_append, List.flatMap_cons, List.append_assoc, List.append_assoc]
  rw [split]
  refine carries_append ?_ (c _)
  rw [length _ fun x hx => hw x (List.mem_of_mem_take hx), List.length_take, Nat.min_eq_left (Nat.le_of_lt inside)]

theorem rows_length {α : Type} {f : α → List Byte} {width : Nat} (rows : List α) (hw : ∀ x ∈ rows, (f x).length = width) :
    (rows.flatMap f).length = width * rows.length := by
  induction rows with
  | nil => rfl
  | cons y l ih =>
    rw [List.flatMap_cons, List.length_append, hw y (.head _), ih fun x hx => hw x (.tail _ hx), List.length_cons]
    ring

/-! ## Figures of the encodings -/

theorem State.timeField_figure (s : State) (t : Timer) : s.timeField t = optField 2 (s.secondsOf t) := by
  unfold State.timeField State.secondsOf secondsLeft timeLeft
  rw [Option.map_map]
  rfl

theorem twoBits_figure (x y : Bool) : twoBits x y = optField 1 (some (x.toNat + 2 * y.toNat)) := by
  cases x <;> cases y <;> rfl

/-! ## Bits of a set of stations -/

/-- The stations below `n` that pass a test, as bits. -/
def bitsBelow (f : Nat → Bool) (n : Nat) : Nat := (List.range n).foldl (fun v i => if f i then v + 2 ^ i else v) 0

theorem bitsBelow_succ (f : Nat → Bool) (n : Nat) :
    bitsBelow f (n + 1) = if f n then bitsBelow f n + 2 ^ n else bitsBelow f n := by
  unfold bitsBelow
  rw [List.range_succ, List.foldl_append]
  rfl

theorem bitsBelow_lt (f : Nat → Bool) (n : Nat) : bitsBelow f n < 2 ^ n := by
  induction n with
  | zero => exact Nat.one_pos
  | succ n ih =>
    rw [bitsBelow_succ, pow_succ]
    split <;> omega

theorem bitsBelow_testBit (f : Nat → Bool) {n i : Nat} (h : i < n) : (bitsBelow f n).testBit i = f i := by
  induction n with
  | zero => exact absurd h (Nat.not_lt_zero i)
  | succ n ih =>
    have small := bitsBelow_lt f n
    rw [bitsBelow_succ]
    rcases Nat.lt_succ_iff_lt_or_eq.mp h with below | rfl
    · split
      · rw [Nat.add_comm, Nat.testBit_two_pow_add_gt below]
        exact ih below
      · exact ih below
    · have clear := Nat.testBit_lt_two_pow small
      split
      · rename_i on
        rw [Nat.add_comm, Nat.testBit_two_pow_add_eq, clear, on]
        rfl
      · rename_i off
        rw [clear]
        exact (Bool.eq_false_of_not_eq_true off).symm

theorem allStations_vals : allStations.map Fin.val = List.range 32 := by decide

theorem State.stopSetValue_eq (s : State) :
    s.stopSetValue = bitsBelow (fun i => if h : i < 32 then s.inStopSet ⟨i, h⟩ else false) 32 := by
  unfold State.stopSetValue bitsBelow
  rw [← allStations_vals, List.foldl_map]
  simp only [Fin.is_lt, dite_true, Fin.eta]

theorem State.stopSetValue_lt (s : State) : s.stopSetValue < 256 ^ 4 := by
  rw [State.stopSetValue_eq]
  exact bitsBelow_lt _ 32

theorem State.stopSetValue_testBit (s : State) (q : StationId) : s.stopSetValue.testBit q.val = s.inStopSet q := by
  rw [State.stopSetValue_eq, bitsBelow_testBit _ q.isLt, dif_pos q.isLt]

/-! ## The session kind -/

theorem State.summaryPeers_eq (s : State) : allStations.filter s.countsPeer = s.summaryPeers := by
  have all : allStations = List.finRange 32 := by decide
  have test (q : StationId) : s.countsPeer q = decide (q ≠ s.cfg.station ∧ s.peers[q].fresh ≠ .gone) := by
    unfold State.countsPeer State.peer
    rw [Bool.eq_iff_iff]
    simp
  unfold State.summaryPeers
  rw [all]
  exact List.filter_congr fun q _ => test q

/-- One peer's figures. -/
def State.peerRowFigures (s : State) (q : StationId) : List (Nat × Option Nat) :=
  [(1, some q.val), (1, some s.peers[q].fresh.code), (1, some s.peers[q].cls.val), (1, some s.peers[q].stop.toNat),
    (1, some s.peers[q].shares[0]), (1, some s.peers[q].shares[1]), (1, some s.peers[q].shares[2]),
    (1, some s.peers[q].shares[3]), (1, some s.peers[q].shares[4]), (1, some s.peers[q].shares[5]),
    (1, some s.peers[q].shares[6]), (1, some s.peers[q].shares[7])]

/-- The widths of one peer's figures. -/
def peerRowWidths : List Nat := List.replicate 12 1

theorem State.peerRowFigures_widths (s : State) (q : StationId) : (s.peerRowFigures q).map Prod.fst = peerRowWidths := rfl

theorem Freshness.code_lt (f : Freshness) : f.code < 256 := by cases f <;> decide

theorem State.peerRow_eq (s : State) (q : StationId) : s.peerRow q = laidOut (s.peerRowFigures q) := by
  have number : beBytes 1 q.val = optField 1 (some q.val) := beBytes_figure (by have := q.isLt; omega)
  have fresh : beBytes 1 (s.peer q).fresh.code = optField 1 (some (s.peer q).fresh.code) := beBytes_figure (Freshness.code_lt _)
  have cls : beBytes 1 (s.peer q).cls.val = optField 1 (some (s.peer q).cls.val) :=
    beBytes_figure (by have := (s.peer q).cls.isLt; omega)
  unfold State.peerRow
  dsimp only
  rw [number, fresh, cls, flagByte_figure]
  simp only [List.append_assoc]
  rfl

/-- The figures of the session record, the count of peers behind them. -/
def State.sessionFigureList (s : State) : List (Nat × Option Nat) :=
  let x := s.session
  [(1, some x.state.code), (1, x.outcome.map Reason.code), (4, x.permit.map (·.id)), (2, x.permit.map (·.carrier)),
    (1, x.permit.map (·.cls.val)), (4, x.tag.map (·.id)), (1, x.tag.map (·.fills.length - 1)), (2, x.start.map (·.1)),
    (3, x.start.map (·.2)), (1, x.endReason.map Reason.code), (2, s.secondsOf x.idle), (2, s.secondsOf x.socketTimer),
    (1, some s.summaryPeers.length)]

/-- The widths of the session's figures and the count of peers. -/
def sessionWidths : List Nat := [1, 1, 4, 2, 1, 4, 1, 2, 3, 1, 2, 2, 1]

theorem State.sessionFigureList_widths (s : State) : s.sessionFigureList.map Prod.fst = sessionWidths := rfl

/-- The figures of the permissive monitor, the count of stored notes behind them. -/
def State.monitorFigureList (s : State) : List (Nat × Option Nat) :=
  let m := s.monitor
  [(1, some m.value), (1, some m.ground.toNat), (1, some m.sensors[0].code), (1, some m.sensors[1].code),
    (1, some m.sensors[2].code), (1, some m.sensors[3].code), (1, some m.sensors[4].code), (1, some m.sensors[5].code),
    (1, some m.sensors[6].code), (1, some m.sensors[7].code), (1, some m.stopInput.toNat), (1, some m.stopLatch.toNat),
    (4, some s.stopSetValue), (1, some m.deadman.code), (2, s.secondsOf m.deadmanTimer),
    (1, some (m.counted[0].toNat + 2 * m.counted[1].toNat)), (1, some m.horn.toNat), (1, some m.bypass.toNat),
    (1, some s.notes.store.length)]

/-- The widths of the monitor's figures and the count of stored notes. -/
def monitorWidths : List Nat := [1, 1, 1, 1, 1, 1, 1, 1, 1, 1, 1, 1, 4, 1, 2, 1, 1, 1, 1]

theorem State.monitorFigureList_widths (s : State) : s.monitorFigureList.map Prod.fst = monitorWidths := rfl

/-- The figures behind the stored notes' numbers. -/
def State.storeFigureList (s : State) : List (Nat × Option Nat) :=
  [(3, some s.notes.nextNumber), (1, some s.cfgClamped.toNat), (1, some s.retention.fault.toNat)]

theorem SessionState.code_lt (x : SessionState) : x.code < 256 := by cases x <;> decide

theorem Sensor.code_lt (x : Sensor) : x.code < 256 := by cases x <;> decide

theorem Deadman.code_lt (x : Deadman) : x.code < 256 := by cases x <;> decide

theorem Monitor.value_lt (m : Monitor) : m.value < 256 := by
  unfold Monitor.value
  have bit (b : Bool) : b.toNat ≤ 1 := Bool.toNat_le b
  have := bit m.groundOut
  have := bit m.overfillOut
  have := bit m.stopInForce
  have := bit m.terminal
  have := bit m.deadmanOut
  omega

theorem State.summaryPeers_length (s : State) : s.summaryPeers.length ≤ 32 := by
  unfold State.summaryPeers
  exact (List.length_filter_le _ _).trans_eq List.length_finRange

theorem State.sessionFigures_eq (s : State) :
    s.sessionFigures ++ s.rackSummary = laidOut s.sessionFigureList ++ s.summaryPeers.flatMap s.peerRow := by
  have state : beBytes 1 s.session.state.code = optField 1 (some s.session.state.code) := beBytes_figure (SessionState.code_lt _)
  have count : beBytes 1 s.summaryPeers.length = optField 1 (some s.summaryPeers.length) :=
    beBytes_figure (by have := s.summaryPeers_length; omega)
  unfold State.sessionFigures State.rackSummary reasonByte laidOut State.sessionFigureList
  dsimp only
  rw [s.summaryPeers_eq, state, count, State.timeField_figure, State.timeField_figure]
  simp only [List.flatMap_cons, List.flatMap_nil, List.append_assoc, List.append_nil]

theorem sensors_toList (v : Vector Sensor 8) : v.toList = [v[0], v[1], v[2], v[3], v[4], v[5], v[6], v[7]] := by
  refine List.ext_getElem (by simp) fun i h _ => ?_
  have small : i < 8 := by simpa using h
  interval_cases i <;> rfl

theorem State.monitorFigures_eq (s : State) (few : s.notes.store.length ≤ 16) : s.monitorFigures ++ s.storeFigures =
    laidOut s.monitorFigureList ++
      (s.notes.store.flatMap (fun n => laidOut [(3, some n.number)]) ++ laidOut s.storeFigureList) := by
  have value : beBytes 1 s.monitor.value = optField 1 (some s.monitor.value) := beBytes_figure (Monitor.value_lt _)
  have sensor (x : Sensor) : beBytes 1 x.code = optField 1 (some x.code) := beBytes_figure (Sensor.code_lt x)
  have stops : beBytes 4 s.stopSetValue = optField 4 (some s.stopSetValue) := beBytes_figure s.stopSetValue_lt
  have deadman : beBytes 1 s.monitor.deadman.code = optField 1 (some s.monitor.deadman.code) := beBytes_figure (Deadman.code_lt _)
  have count : beBytes 1 s.notes.store.length = optField 1 (some s.notes.store.length) := beBytes_figure (by omega)
  unfold State.monitorFigures State.storeFigures State.monitorFigureList State.storeFigureList laidOut
  dsimp only
  rw [sensors_toList, value, stops, deadman, count, State.timeField_figure]
  simp only [List.flatMap_cons, List.flatMap_nil, List.append_assoc, List.append_nil, sensor, flagByte_figure, twoBits_figure,
    field_figure]

/-- The session body as its three runs of figures and two runs of rows. -/
theorem State.sessionStatus_eq (s : State) (few : s.notes.store.length ≤ 16) : s.sessionStatus =
    laidOut s.sessionFigureList ++ (s.summaryPeers.flatMap s.peerRow ++ (laidOut s.monitorFigureList ++
      (s.notes.store.flatMap (fun n => laidOut [(3, some n.number)]) ++ laidOut s.storeFigureList))) := by
  unfold State.sessionStatus
  rw [s.sessionFigures_eq, List.append_assoc, List.append_assoc, s.monitorFigures_eq few]

theorem State.peerRow_length (s : State) (q : StationId) : (s.peerRow q).length = 12 := by
  rw [s.peerRow_eq]
  exact figures_length (s.peerRowFigures_widths q)

theorem State.sessionBody (few : s.notes.store.length ≤ 16) : s.SessionBody s.sessionStatus := by
  have rows : (s.summaryPeers.flatMap s.peerRow).length = 12 * s.summaryPeers.length :=
    rows_length _ fun q _ => s.peerRow_length q
  have front : (laidOut s.sessionFigureList).length = 25 := figures_length s.sessionFigureList_widths
  have tail : s.sessionStatus.drop (25 + 12 * s.summaryPeers.length) = laidOut s.monitorFigureList ++
      (s.notes.store.flatMap (fun n => laidOut [(3, some n.number)]) ++ laidOut s.storeFigureList) := by
    rw [s.sessionStatus_eq few, ← List.append_assoc]
    exact List.drop_left' (by rw [List.length_append, front, rows])
  unfold State.SessionBody
  dsimp only
  rw [tail]
  have head {i off w : Nat} {x : Option Nat} (h : s.sessionFigureList[i]? = some (w, x))
      (ho : (sessionWidths.take i).sum = off) : Carries s.sessionStatus off w x := by
    rw [s.sessionStatus_eq few]
    exact carries_figure s.sessionFigureList_widths i h ho
  refine ⟨(head (i := 0) rfl rfl).of_eq (by cases s.session.state <;> rfl), head (i := 1) rfl rfl, head (i := 2) rfl rfl, head (i := 3) rfl rfl, head (i := 4) rfl rfl,
    head (i := 5) rfl rfl, head (i := 6) rfl rfl, head (i := 7) rfl rfl, head (i := 8) rfl rfl, head (i := 9) rfl rfl,
    head (i := 10) rfl rfl, head (i := 11) rfl rfl, head (i := 12) rfl rfl, fun i q hq => ?_, ?_⟩
  · have row {j off w : Nat} {x : Option Nat} (h : (s.peerRowFigures q)[j]? = some (w, x))
        (ho : (peerRowWidths.take j).sum = off) : Carries s.sessionStatus (25 + 12 * i + off) w x := by
      rw [s.sessionStatus_eq few, Nat.add_assoc]
      refine carries_append front (carries_rows (fun q _ => s.peerRow_length q) hq fun rest => ?_)
      rw [s.peerRow_eq]
      exact carries_figure (s.peerRowFigures_widths q) j h ho
    have member := List.mem_of_getElem? hq
    have fresh : s.peers[q].fresh.code = if s.peers[q].fresh = .fresh then 0 else 1 := by
      have there := (List.mem_filter.mp member).2
      cases e : s.peers[q].fresh with
      | fresh | stale => rfl
      | gone => exact absurd e (of_decide_eq_true there).2
    refine ⟨row (j := 0) rfl rfl, (row (j := 1) rfl rfl).of_eq fresh, row (j := 2) rfl rfl, row (j := 3) rfl rfl, fun h => ?_⟩
    rw [Nat.add_assoc]
    refine row (j := 4 + h.val) ?_ ?_
    · fin_cases h <;> rfl
    · fin_cases h <;> rfl
  · have mid {i off w : Nat} {x : Option Nat} (h : s.monitorFigureList[i]? = some (w, x))
        (ho : (monitorWidths.take i).sum = off) : Carries (laidOut s.monitorFigureList ++
          (s.notes.store.flatMap (fun n => laidOut [(3, some n.number)]) ++ laidOut s.storeFigureList)) off w x :=
      carries_figure s.monitorFigureList_widths i h ho
    have middle : (laidOut s.monitorFigureList).length = 23 := figures_length s.monitorFigureList_widths
    have number (y : StoredNote) : (laidOut [(3, some y.number)]).length = 3 := laidOut_length _
    have notes : (s.notes.store.flatMap fun n => laidOut [(3, some n.number)]).length = 3 * s.notes.store.length :=
      rows_length _ fun y _ => number y
    have last {i off w : Nat} {x : Option Nat} (h : s.storeFigureList[i]? = some (w, x))
        (ho : ((s.storeFigureList.take i).map Prod.fst).sum = off) : Carries (laidOut s.monitorFigureList ++
          (s.notes.store.flatMap (fun n => laidOut [(3, some n.number)]) ++ laidOut s.storeFigureList))
          (23 + (3 * s.notes.store.length + off)) w x := by
      refine carries_append middle (carries_append notes ?_)
      rw [← List.append_nil (laidOut s.storeFigureList)]
      exact carries_laidOut i h ho
    refine ⟨mid (i := 0) rfl rfl, mid (i := 1) rfl rfl, fun k => ?_, mid (i := 10) rfl rfl, mid (i := 11) rfl rfl, fun q => ?_,
      (mid (i := 13) rfl rfl).of_eq (by cases s.monitor.deadman <;> rfl), mid (i := 14) rfl rfl, mid (i := 15) rfl rfl,
      mid (i := 16) rfl rfl, mid (i := 17) rfl rfl, mid (i := 18) rfl rfl, fun i y hy => ?_, ?_, ?_, ?_, ?_⟩
    · refine Carries.of_eq (n := s.monitor.sensors[k].code) (mid (i := 2 + k.val) ?_ ?_) (by cases s.monitor.sensors[k] <;> rfl)
      · fin_cases k <;> rfl
      · fin_cases k <;> rfl
    · have stops := carries_iff.mp (mid (i := 12) (off := 12) rfl rfl)
      rw [stops, carried, Nat.min_eq_left (Nat.le_sub_one_of_lt s.stopSetValue_lt), s.stopSetValue_testBit]
    · have row := carries_rows (f := fun n : StoredNote => laidOut [(3, some n.number)]) (off := 0) (w := 3) (x := some y.number)
        (rest := laidOut s.storeFigureList) (fun n _ => number n) hy fun rest => carries_laidOut 0 rfl rfl
      exact carries_append middle row
    · exact last (i := 0) rfl rfl
    · rw [show 26 + 3 * s.notes.store.length = 23 + (3 * s.notes.store.length + 3) by omega]
      exact last (i := 1) rfl rfl
    · rw [show 27 + 3 * s.notes.store.length = 23 + (3 * s.notes.store.length + 4) by omega]
      exact last (i := 2) rfl rfl
    · have ends : (laidOut s.storeFigureList).length = 5 := laidOut_length _
      rw [List.length_append, List.length_append, middle, notes, ends]
      omega

end Sys2Proof.Machine
end

section
/-! STATUS of the compartment and arm kinds, and the panel's reads as a whole (R193; O30). -/

namespace Sys2Proof.Machine

variable {s : State} {k : CompId} {b : Batch} {a : ArmId} {i : InjectorId}

/-! ## The compartment kind -/

/-- The figures of a compartment. -/
def State.compartmentFigureList (s : State) (k : CompId) (b : Batch) : List (Nat × Option Nat) :=
  let f := s.figures k b
  [(1, some b.state.code), (1, some b.grade.val), (3, some b.preset), (3, b.pendPreset), (1, b.named.map (·.val)),
    (1, b.lastArm.map (·.val)), (1, (s.reservedArm k).map (·.val)), (1, (s.queuePos k).map (· + 1)),
    (1, b.suspReason.map Reason.code), (1, some b.suspCount), (1, some b.flags.value), (6, some f.gross), (6, some f.std),
    (4, some f.flow), (6, some (remaining b f).toNat)]

/-- The widths of a compartment's figures. -/
def compartmentWidths : List Nat := [1, 1, 3, 3, 1, 1, 1, 1, 1, 1, 1, 6, 6, 4, 6]

theorem State.compartmentFigureList_widths (s : State) (k : CompId) (b : Batch) :
    (s.compartmentFigureList k b).map Prod.fst = compartmentWidths := rfl

/-- The additive figures of a compartment. -/
def State.additiveFigureList (s : State) (k : CompId) (b : Batch) : List (Nat × Option Nat) :=
  let f := s.figures k b
  [(8, some f.owed), (5, some f.commanded), (4, some f.feedback)]

theorem BatchState.code_lt (x : BatchState) : x.code < 256 := by cases x <;> decide

theorem LineFlags.value_lt (f : LineFlags) : f.value < 256 := by
  unfold LineFlags.value
  have bit (b : Bool) : b.toNat ≤ 1 := Bool.toNat_le b
  have := bit f.tempHeld
  have := bit f.ctlClamped
  have := bit f.short
  have := bit f.bypassed
  have := bit f.valveLeak
  omega

theorem State.compartmentFigures_eq (s : State) (k : CompId) (b : Batch) (few : b.suspCount ≤ 255) : s.compartmentFigures k b =
    laidOut (s.compartmentFigureList k b) ++
      if (s.gradeCode b.grade).isSome then laidOut (s.additiveFigureList k b) else [] := by
  have state : beBytes 1 b.state.code = optField 1 (some b.state.code) := beBytes_figure (BatchState.code_lt _)
  have grade : beBytes 1 b.grade.val = optField 1 (some b.grade.val) := beBytes_figure (by have := b.grade.isLt; omega)
  have count : beBytes 1 b.suspCount = optField 1 (some b.suspCount) := beBytes_figure (by omega)
  have flags : beBytes 1 b.flags.value = optField 1 (some b.flags.value) := beBytes_figure (LineFlags.value_lt _)
  unfold State.compartmentFigures laidOut State.compartmentFigureList State.additiveFigureList armField reasonByte
  dsimp only
  rw [state, grade, count, flags]
  simp only [List.flatMap_cons, List.flatMap_nil, List.append_assoc, List.append_nil, field_figure]

theorem remaining_toNat (b : Batch) (f : Accum) : (remaining b f).toNat = b.preset * 100 - f.gross := by
  unfold remaining
  omega

theorem State.queuePos_eq (s : State) (k : CompId) :
    (s.queuePos k).map (· + 1) = if k ∈ s.startQueue then some (s.startQueue.idxOf k + 1) else none := by
  unfold State.queuePos
  by_cases h : k ∈ s.startQueue
  · rw [if_pos h, if_pos (List.contains_iff_mem.mpr h)]
    rfl
  · rw [if_neg h, if_neg (mt List.contains_iff_mem.mp h)]
    rfl

theorem State.compartmentBody (few : b.suspCount ≤ 255) : s.CompartmentBody k b (s.compartmentFigures k b) := by
  have figure {i off w : Nat} {x : Option Nat} (h : (s.compartmentFigureList k b)[i]? = some (w, x))
      (ho : (compartmentWidths.take i).sum = off) : Carries (s.compartmentFigures k b) off w x := by
    rw [s.compartmentFigures_eq k b few]
    exact carries_figure (s.compartmentFigureList_widths k b) i h ho
  have front : (laidOut (s.compartmentFigureList k b)).length = 37 := figures_length (s.compartmentFigureList_widths k b)
  have code : (s.gradeCode b.grade) = (s.gradeCfg b.grade).additive := rfl
  unfold State.CompartmentBody
  refine ⟨(figure (i := 0) rfl rfl).of_eq (by cases b.state <;> rfl), figure (i := 1) rfl rfl, figure (i := 2) rfl rfl,
    figure (i := 3) rfl rfl, figure (i := 4) rfl rfl, figure (i := 5) rfl rfl, figure (i := 6) rfl rfl, ?_,
    figure (i := 8) rfl rfl, figure (i := 9) rfl rfl, figure (i := 10) rfl rfl, figure (i := 11) rfl rfl,
    figure (i := 12) rfl rfl, figure (i := 13) rfl rfl, ?_, fun plain => ?_, fun additive => ?_⟩
  · rw [← s.queuePos_eq]
    exact figure (i := 7) rfl rfl
  · rw [← remaining_toNat]
    exact figure (i := 14) rfl rfl
  · rw [s.compartmentFigures_eq k b few, code, plain, List.length_append, front]
    rfl
  · have whole : s.compartmentFigures k b = laidOut (s.compartmentFigureList k b) ++ (laidOut (s.additiveFigureList k b) ++ []) := by
      rw [s.compartmentFigures_eq k b few, code, if_pos (Option.isSome_iff_ne_none.mpr additive), List.append_nil]
    rw [whole]
    refine ⟨carries_append front (carries_laidOut (off := 0) 0 rfl rfl), carries_append front (carries_laidOut (off := 8) 1 rfl rfl),
      carries_append front (carries_laidOut (off := 13) 2 rfl rfl), ?_⟩
    rw [List.append_nil, List.length_append, front, laidOut_length]
    rfl

/-! ## The arm kind -/

/-- One injector's figures. -/
def State.injectorFigureList (s : State) (i : InjectorId) : List (Nat × Option Nat) :=
  let x := s.injector i
  [(1, some i.val), (1, some (s.injectorCfg i).code.val), (1, some x.firing.toNat), (1, some s.session.latches[i].toNat),
    (1, some (x.badRun % 256)), (1, some x.window.isSome.toNat), (4, x.window.map (·.count)), (1, x.window.map (·.cut.toNat))]

/-- The widths of one injector's figures. -/
def injectorWidths : List Nat := [1, 1, 1, 1, 1, 1, 4, 1]

theorem State.injectorFigureList_widths (s : State) (i : InjectorId) : (s.injectorFigureList i).map Prod.fst = injectorWidths := rfl

theorem State.injectorRow_eq (s : State) (i : InjectorId) : s.injectorRow i = laidOut (s.injectorFigureList i) := by
  have number : beBytes 1 i.val = optField 1 (some i.val) := beBytes_figure (by have := i.isLt; omega)
  have code : beBytes 1 (s.injectorCfg i).code.val = optField 1 (some (s.injectorCfg i).code.val) :=
    beBytes_figure (by have := (s.injectorCfg i).code.isLt; omega)
  have bad : beBytes 1 (s.injector i).badRun = optField 1 (some ((s.injector i).badRun % 256)) := by
    rw [← beBytes_mod]
    exact beBytes_figure (Nat.mod_lt _ (by decide))
  unfold State.injectorRow laidOut State.injectorFigureList State.isFault
  dsimp only
  rw [number, code, bad]
  cases (s.injector i).window <;>
    simp only [List.flatMap_cons, List.flatMap_nil, List.append_assoc, List.append_nil, flagByte_figure, Option.map_some,
      Option.map_none, allOnes_figure]

theorem State.injectorRow_length (s : State) (i : InjectorId) : (s.injectorRow i).length = 11 := by
  rw [s.injectorRow_eq]
  exact figures_length (s.injectorFigureList_widths i)

/-- The enabled injectors of an arm, by number. -/
def State.armInjectors (s : State) (a : ArmId) : List InjectorId :=
  (List.finRange 4).filter fun i => (s.injectorCfg i).enabled && decide ((s.injectorCfg i).arm = a)

/-- The remaining volume of an arm's owner batch. -/
def State.remainingFigure (s : State) (a : ArmId) : Option Nat :=
  (s.ownerBatch a).map fun kb => (remaining kb.2 (s.figures kb.1 kb.2)).toNat

/-- The figures of an enabled arm up to its injectors. -/
def State.armFigureList (s : State) (a : ArmId) : List (Nat × Option Nat) :=
  let m := s.arm a
  [(1, some 1), (1, some m.inService.toNat),
    (1, if m.inService then none else some (m.meterCause.toNat + 2 * m.leakCause.toNat)), (4, some m.lastRate),
    (2, some ((s.armCfg a).slice - m.sliceCounter)), (1, some m.lastGood.isSome.toNat),
    (2, some (m.lastGood.getD 0 % (256 ^ 2 : Nat)).toNat), (1, some m.lastDiscarded.toNat), (2, s.secondsOf m.noFlow),
    (6, some m.grossTotal.toNat), (6, some m.stdTotal.toNat), (1, some m.stage.code),
    (1, some ((s.lowSolenoid a).toNat + 2 * (s.mainSolenoid a).toNat)), (1, m.owner.map fun k => k.val + 1),
    (1, m.reserved.map fun k => k.val + 1), (6, s.remainingFigure a), (2, some m.closeAhead),
    (1, m.close.map (·.kind.code)), (1, (m.close.map (·.cause)).map Reason.code), (1, m.close.map (·.manner.code)),
    (1, m.close.map (·.phase.code)), (2, s.secondsOf m.phaseTimer), (2, s.secondsOf m.closeLimit),
    (1, if m.stage = .closing then some m.leak.toNat else none), (1, some m.stepUp.code), (2, s.secondsOf m.holdOff),
    (1, some (s.armInjectors a).length)]

/-- The widths of an arm's figures. -/
def armWidths : List Nat := [1, 1, 1, 4, 2, 1, 2, 1, 2, 6, 6, 1, 1, 1, 1, 6, 2, 1, 1, 1, 1, 2, 2, 1, 1, 2, 1]

theorem State.armFigureList_widths (s : State) (a : ArmId) : (s.armFigureList a).map Prod.fst = armWidths := rfl

theorem Stage.code_lt (x : Stage) : x.code < 256 := by cases x <;> decide

theorem StepUp.code_lt (x : StepUp) : x.code < 256 := by cases x <;> decide

theorem State.armInjectors_length (s : State) (a : ArmId) : (s.armInjectors a).length ≤ 4 :=
  (List.length_filter_le _ _).trans_eq List.length_finRange

theorem signedField_figure (x : Int) : signedField 2 x = optField 2 (some (x % (256 ^ 2 : Nat)).toNat) :=
  beBytes_figure (by omega)

theorem State.armStatus_eq (on : (s.armCfg a).enabled = true) : s.armStatus a =
    laidOut (s.armFigureList a) ++ ((s.armInjectors a).flatMap s.injectorRow ++ laidOut [(1, some s.monitor.bypass.toNat)]) := by
  have injectors : allInjectors = List.finRange 4 := by decide
  have count : beBytes 1 (s.armInjectors a).length = optField 1 (some (s.armInjectors a).length) :=
    beBytes_figure (by have := s.armInjectors_length a; omega)
  have stage : beBytes 1 (s.arm a).stage.code = optField 1 (some (s.arm a).stage.code) := beBytes_figure (Stage.code_lt _)
  have stepUp : beBytes 1 (s.arm a).stepUp.code = optField 1 (some (s.arm a).stepUp.code) := beBytes_figure (StepUp.code_lt _)
  have gross : beBytes 6 (s.arm a).grossTotal.toNat = optField 6 (some (s.arm a).grossTotal.toNat) :=
    beBytes_figure (s.arm a).grossTotal.isLt
  have std : beBytes 6 (s.arm a).stdTotal.toNat = optField 6 (some (s.arm a).stdTotal.toNat) :=
    beBytes_figure (s.arm a).stdTotal.isLt
  have cause : (if (s.arm a).inService then allOnes 1 else twoBits (s.arm a).meterCause (s.arm a).leakCause) =
      optField 1 (if (s.arm a).inService then none else some ((s.arm a).meterCause.toNat + 2 * (s.arm a).leakCause.toNat)) := by
    split
    · rfl
    · exact twoBits_figure _ _
  have leak : (if (s.arm a).stage = .closing then flagByte (s.arm a).leak else allOnes 1) =
      optField 1 (if (s.arm a).stage = .closing then some (s.arm a).leak.toNat else none) := by
    split
    · exact flagByte_figure _
    · rfl
  have list : (allInjectors.filter fun i => (s.injectorCfg i).enabled && decide ((s.injectorCfg i).arm = a)) = s.armInjectors a := by
    rw [injectors]
    rfl
  unfold State.armStatus State.meterFigures State.stageFigures State.closeFigures State.injectorFigures
  rw [if_pos on]
  dsimp only
  rw [list, count, stage, stepUp, gross, std, cause, leak]
  unfold laidOut State.armFigureList compField reasonByte
  dsimp only
  simp only [List.flatMap_cons, List.flatMap_nil, List.append_assoc, List.append_nil, flagByte_figure, field_figure, twoBits_figure,
    State.timeField_figure, signedField_figure]
  rfl

theorem State.armStatus_off (off : (s.armCfg a).enabled = false) : s.armStatus a = [0] := by
  unfold State.armStatus
  rw [off]
  rfl

/-- A signed 16-bit figure reads back. -/
theorem toInt_of_signed {r : Int} (low : -32768 ≤ r) (high : r ≤ 32767) : (BitVec.ofNat 16 (r % (256 ^ 2 : Nat)).toNat).toInt = r := by
  rw [BitVec.toInt_eq_toNat_bmod, BitVec.toNat_ofNat, Int.bmod_def]
  split <;> omega

theorem State.remainingFigure_none (none : (s.arm a).owner = none) : s.remainingFigure a = Option.none := by
  unfold State.remainingFigure State.ownerBatch
  rw [none]
  rfl

theorem State.remainingFigure_some (own : (s.arm a).owner = some k) (held : s.batch k = some b) :
    s.remainingFigure a = some (b.preset * 100 - (s.figures k b).gross) := by
  unfold State.remainingFigure State.ownerBatch
  rw [own, Option.bind_some, held, Option.map_some, Option.map_some, remaining_toNat]

theorem State.armBody (s : State) (a : ArmId) : s.ArmBody a (s.armStatus a) := by
  refine ⟨State.armStatus_off, fun on => ?_⟩
  have front : (laidOut (s.armFigureList a)).length = 52 := figures_length (s.armFigureList_widths a)
  have figure {i off w : Nat} {x : Option Nat} (h : (s.armFigureList a)[i]? = some (w, x))
      (ho : (armWidths.take i).sum = off) : Carries (s.armStatus a) off w x := by
    rw [State.armStatus_eq on]
    exact carries_figure (s.armFigureList_widths a) i h ho
  have rows : ((s.armInjectors a).flatMap s.injectorRow).length = 11 * (s.armInjectors a).length :=
    rows_length _ fun i _ => s.injectorRow_length i
  have service : (if (s.arm a).inService then none else some ((s.arm a).meterCause.toNat + 2 * (s.arm a).leakCause.toNat)) =
      if (s.arm a).meterCause || (s.arm a).leakCause then some ((s.arm a).meterCause.toNat + 2 * (s.arm a).leakCause.toNat)
      else none := by
    unfold Arm.inService
    cases (s.arm a).meterCause <;> cases (s.arm a).leakCause <;> rfl
  refine ⟨figure (i := 0) rfl rfl, figure (i := 1) rfl rfl, ?_, figure (i := 3) rfl rfl, figure (i := 4) rfl rfl,
    figure (i := 5) rfl rfl, fun r low high e => ?_, figure (i := 7) rfl rfl, figure (i := 8) rfl rfl, figure (i := 9) rfl rfl,
    figure (i := 10) rfl rfl, (figure (i := 11) rfl rfl).of_eq (by cases (s.arm a).stage <;> rfl), figure (i := 12) rfl rfl,
    figure (i := 13) rfl rfl, figure (i := 14) rfl rfl, fun k r own held => ?_, fun none => ?_, figure (i := 16) rfl rfl,
    fun applies => ?_, figure (i := 22) rfl rfl, figure (i := 23) rfl rfl,
    (figure (i := 24) rfl rfl).of_eq (by cases (s.arm a).stepUp <;> rfl), figure (i := 25) rfl rfl, figure (i := 26) rfl rfl,
    fun n i hi run => ?_, ?_, ?_⟩
  · rw [← service]
    exact figure (i := 2) rfl rfl
  · have reading := carries_iff.mp (figure (i := 6) (off := 10) rfl rfl)
    rw [reading, carried, Nat.min_eq_left (by omega), toInt_of_signed low high]
    exact e.symm
  · rw [← State.remainingFigure_some own held]
    exact figure (i := 15) rfl rfl
  · rw [← State.remainingFigure_none none]
    exact figure (i := 15) rfl rfl
  · have closes : (if (s.arm a).stage = .closing then (s.arm a).close else none) = (s.arm a).close := by
      split
      · rfl
      · rename_i other
        exact (applies.resolve_left other).symm
    have kind := figure (i := 17) (off := 39) rfl rfl
    have cause := figure (i := 18) (off := 40) rfl rfl
    have manner := figure (i := 19) (off := 41) rfl rfl
    have phase := figure (i := 20) (off := 42) rfl rfl
    have timer := figure (i := 21) (off := 43) rfl rfl
    unfold Arm.phaseTimer at timer
    rw [closes]
    cases e : (s.arm a).close with
    | none =>
      rw [e] at kind cause manner phase timer
      exact ⟨kind, cause, manner, phase, timer⟩
    | some c =>
      rw [e] at kind cause manner phase timer
      exact ⟨kind.of_eq (by cases c.kind <;> rfl), cause, manner.of_eq (by cases c.manner <;> rfl),
        phase.of_eq (by cases c.phase <;> rfl), timer⟩
  · have row {j off w : Nat} {x : Option Nat} (h : (s.injectorFigureList i)[j]? = some (w, x))
        (ho : (injectorWidths.take j).sum = off) : Carries (s.armStatus a) (52 + 11 * n + off) w x := by
      rw [State.armStatus_eq on, Nat.add_assoc]
      refine carries_append front (carries_rows (fun i _ => s.injectorRow_length i) hi fun rest => ?_)
      rw [s.injectorRow_eq]
      exact carries_figure (s.injectorFigureList_widths i) j h ho
    exact ⟨row (j := 0) rfl rfl, row (j := 1) rfl rfl, row (j := 2) rfl rfl, row (j := 3) rfl rfl,
      (row (j := 4) rfl rfl).of_eq (Nat.mod_eq_of_lt (by omega)), row (j := 5) rfl rfl, row (j := 6) rfl rfl,
      row (j := 7) rfl rfl⟩
  · rw [State.armStatus_eq on, ← List.append_nil (laidOut [(1, some s.monitor.bypass.toNat)])]
    exact carries_append front (carries_append (off := 0) rows (carries_laidOut 0 rfl rfl))
  · have last : (laidOut [(1, some s.monitor.bypass.toNat)]).length = 1 := laidOut_length _
    rw [State.armStatus_eq on, List.length_append, List.length_append, front, rows, last]
    change 52 + (11 * (s.armInjectors a).length + 1) = 53 + 11 * (s.armInjectors a).length
    omega

/-! ## The panel line -/

/-- STATUS of the compartment kind (R76). -/
theorem exec_statusCompartment (h : s.Asks) (c : Byte) :
    exec (.statusCompartment c) s = .next (s.asked.answered (s.asked.compartmentStatus c)) := exec_reads h rfl

theorem exec_noteCopy_found {n : BitVec 24} {x : StoredNote} (h : s.Asks) (held : x ∈ s.notes.store) (number : x.number = n.toNat)
    (only : ∀ y ∈ s.notes.store, y.number = n.toNat → y = x) :
    exec (.noteCopy n) s = .next (s.asked.answered (.accepted x.record)) := by
  have copy : s.asked.copyNote n.toNat = (s.asked, .accepted x.record) := State.copyNote_found (s := s.asked) held number only
  change Host.Outcome.next (s.request true (State.copyNote n.toNat)) = _
  rw [State.request_asks h, copy]
  exact congrArg Host.Outcome.next (State.answer_eq (s := s.asked) h.clear _)

theorem exec_noteCopy_missing {n : BitVec 24} (h : s.Asks) (none : ∀ x ∈ s.notes.store, x.number ≠ n.toNat) :
    exec (.noteCopy n) s = .next (s.asked.answered (.refused .wrongState)) := by
  have copy : s.asked.copyNote n.toNat = (s.asked, .refused .wrongState) := State.copyNote_missing (s := s.asked) none
  change Host.Outcome.next (s.request true (State.copyNote n.toNat)) = _
  rw [State.request_asks h, copy]
  exact congrArg Host.Outcome.next (State.answer_eq (s := s.asked) h.clear _)

theorem exec_statusArm_format {x : Byte} (h : s.Asks) (far : 3 < x.toNat) :
    exec (.statusArm x) s = .next (s.answered (.refused .format)) := by
  have out : armOk x = false := decide_eq_false (Nat.not_le.mpr far)
  change Host.Outcome.next (s.request (armOk x) _) = _
  rw [out, State.request_format h]

theorem exec_statusArm {x : Byte} (h : s.Asks) (near : x.toNat ≤ 3) :
    exec (.statusArm x) s = .next (s.asked.answered (.accepted (s.asked.armStatus (toArm x)))) := by
  refine exec_reads (reply := fun s => .accepted (s.armStatus (toArm x))) h ?_
  exact congrArg (fun ok => Host.Outcome.next (s.request ok fun s => (s, .accepted (s.armStatus (toArm x))))) (armOk_iff.mpr near)

/-- The end of a frame that carries no request: a format error or a frame cut short (R185). -/
theorem exec_frameEnd {c : Instr} (h : c ∈ [Instr.panelFormatError, .panelFrameCut]) :
    exec c s = .next (s.frameEnd (State.answer (.refused .format))) := by
  simp only [List.mem_cons, List.not_mem_nil, or_false] at h
  rcases h with rfl | rfl <;> rfl

/-- Settles O30: a reading request leaves the part as it is and answers its figures laid out; a request that reaches no
owner ends its frame as the port and the station have it. -/
theorem panelReads : Obligations.PanelReads := by
  refine fun s => ⟨fun h => ⟨exec_reads (reply := fun s => .accepted s.sessionStatus) h rfl,
    fun a near => ⟨exec_statusArm h near, s.asked.armBody _⟩, State.sessionBody (s := s.asked),
    fun a far => exec_statusArm_format h far, fun c i b opened at_ held => ⟨?_, State.compartmentBody (s := s.asked)⟩,
    fun c opened at_ => ?_, fun c i opened at_ empty => ?_, fun c closed => ?_,
    fun n x held number only => exec_noteCopy_found h held number only, fun n none => exec_noteCopy_missing h none⟩,
    fun c ends => ?_,
    fun _ => ⟨fun busy => congrArg Host.Outcome.next (if_pos busy), fun idle => congrArg Host.Outcome.next (if_neg idle)⟩,
    fun c asks => ?_⟩
  · rw [exec_statusCompartment h, State.compartmentStatus_of_batch (s := s.asked) opened at_ held]
  · rw [exec_statusCompartment h, State.compartmentStatus_of_bad (s := s.asked) opened at_]
  · rw [exec_statusCompartment h, State.compartmentStatus_of_empty (s := s.asked) opened at_ empty]
  · rw [exec_statusCompartment h, State.compartmentStatus_closed (s := s.asked) c closed]
  · rw [exec_frameEnd ends]
    refine ⟨fun busy => ?_, fun idle cut => ?_, fun idle clear => ?_⟩
    · rw [State.frameEnd_answering _ busy]
    · rw [State.frameEnd_discarding _ idle cut]
    · rw [State.frameEnd_receiving _ idle clear, State.answer_eq clear]
  · obtain ⟨owner, runs⟩ := RequestInRange.asks asks s
    rw [runs]
    refine ⟨fun busy => ?_, fun idle cut => ?_, fun idle clear => ⟨fun fault => ?_, fun sound line => ?_⟩⟩
    · unfold State.request
      rw [State.frameEnd_answering _ busy]
    · unfold State.request
      rw [State.frameEnd_discarding _ idle cut]
    · rw [State.request_configFault idle clear fault]
    · rw [State.request_starting idle clear sound line]

end Sys2Proof.Machine
end
